-- ==== Sys2Proof/Word.lean ====
section
/-!
DEFINITION. The word types of the PTW-9400: bytes (R14), 32-bit instruction words (R38), 64-bit registers (R12).
-/

namespace Sys2Proof

/-- A byte of memory (R14). -/
abbrev Byte := BitVec 8

/-- An instruction word (R38). -/
abbrev Word32 := BitVec 32

/-- The contents of a general or system register (R12, R19). -/
abbrev Word := BitVec 64

end Sys2Proof
end

