-- ==== Sys2Proof/Syntax.lean ====
section
/-!
DEFINITION. The instructions of the PTW-9400: one constructor for each row of spec/opcode_table.json.
The first 180 constructors are the encoded instructions, with the operand fields of their rows (R38 to R64); the 103 that
follow are the operations and events of the machine, whose operands name the occurrence (spec/95_what_each_step_holds.md).
-/

namespace Sys2Proof

/-- The name of a domain: its gang, its level 0 to 3 and its identity (R141). Level 0 names the gang itself. -/
structure DomKey where
  gang : Nat
  level : Nat
  ident : Nat
deriving DecidableEq, Repr

/-- One change of a site record in a new map generation (R377, R379): the site 18 x py + px, its STATE, its logical tower. -/
structure SiteChange where
  site : Nat
  st : Nat
  lt : Nat
deriving DecidableEq, Repr

/-- Whom an access through the debug port is made for (R338): the tenant or the operator of a partition, or the service firmware on
the configuration path (R366). -/
inductive PortAccess where
  | tenant (part : Nat)
  | operator (part : Nat)
  | config
deriving DecidableEq, Repr

/-- What is read through the port: the context record with the local memory (R334), a register of a context (R338), or a register of
the tower at a site (R366). -/
inductive DebugRead where
  | record
  | register (k : Nat) (num : BitVec 12)
  | site (n : Nat) (num : BitVec 12)
deriving DecidableEq, Repr

/-- A read through the port: for whom it is made, and what it reads. -/
structure PortRead where
  who : PortAccess
  what : DebugRead
deriving DecidableEq, Repr

/-- A test package as it reaches the test controller of a site (R336): the site 18 x py + px and the signed record. -/
structure TestPackage where
  site : Nat
  record : List Byte
deriving DecidableEq, Repr

/-- A creation request of the host's physical function (R400, R402, R412 to R415, R421). `policy` is the signed policy
record, empty where none is sent; `tenant` names the tenant's public keys; `queues` pairs hardware queues with functions. -/
structure CreateRequest where
  part : Nat
  towers : List Nat
  vfs : List Nat
  queues : List (Nat × Nat)
  ccap : BitVec 32
  xcap : BitVec 32
  pvec : Word
  pspace : Word
  proot : Word
  psave : Word
  pjour : Word
  pdome : Word
  timeout : Nat
  tenant : Nat
  policy : List Byte
deriving DecidableEq, Repr

/-- The rows of the opcode table. -/
inductive Instr where
  | add (d : BitVec 5) (a : BitVec 5) (b : BitVec 5)
  | sub (d : BitVec 5) (a : BitVec 5) (b : BitVec 5)
  | mul (d : BitVec 5) (a : BitVec 5) (b : BitVec 5)
  | mulhS64 (d : BitVec 5) (a : BitVec 5) (b : BitVec 5)
  | mulhB64 (d : BitVec 5) (a : BitVec 5) (b : BitVec 5)
  | and (d : BitVec 5) (a : BitVec 5) (b : BitVec 5)
  | or (d : BitVec 5) (a : BitVec 5) (b : BitVec 5)
  | xor (d : BitVec 5) (a : BitVec 5) (b : BitVec 5)
  | andn (d : BitVec 5) (a : BitVec 5) (b : BitVec 5)
  | shl (d : BitVec 5) (a : BitVec 5) (b : BitVec 5)
  | shr (d : BitVec 5) (a : BitVec 5) (b : BitVec 5)
  | sar (d : BitVec 5) (a : BitVec 5) (b : BitVec 5)
  | slt (d : BitVec 5) (a : BitVec 5) (b : BitVec 5)
  | sltb (d : BitVec 5) (a : BitVec 5) (b : BitVec 5)
  | minS64 (d : BitVec 5) (a : BitVec 5) (b : BitVec 5)
  | minB64 (d : BitVec 5) (a : BitVec 5) (b : BitVec 5)
  | maxS64 (d : BitVec 5) (a : BitVec 5) (b : BitVec 5)
  | maxB64 (d : BitVec 5) (a : BitVec 5) (b : BitVec 5)
  | clz (d : BitVec 5) (a : BitVec 5) (w : BitVec 2)
  | ffs (d : BitVec 5) (a : BitVec 5) (w : BitVec 2)
  | popcnt (d : BitVec 5) (a : BitVec 5) (w : BitVec 2)
  | sel (d : BitVec 5) (a : BitVec 5) (b : BitVec 5) (c : BitVec 5)
  | div (d : BitVec 5) (a : BitVec 5) (b : BitVec 5) (l : BitVec 4) (w : BitVec 1) (s : BitVec 1)
  | rem (d : BitVec 5) (a : BitVec 5) (b : BitVec 5) (l : BitVec 4) (w : BitVec 1) (s : BitVec 1)
  | addi (d : BitVec 5) (a : BitVec 5) (i : BitVec 16)
  | andi (d : BitVec 5) (a : BitVec 5) (i : BitVec 16)
  | ori (d : BitVec 5) (a : BitVec 5) (i : BitVec 16)
  | xori (d : BitVec 5) (a : BitVec 5) (i : BitVec 16)
  | slti (d : BitVec 5) (a : BitVec 5) (i : BitVec 16)
  | sltbi (d : BitVec 5) (a : BitVec 5) (i : BitVec 16)
  | ldhi (d : BitVec 5) (a : BitVec 5) (i : BitVec 16)
  | shli (d : BitVec 5) (a : BitVec 5) (n : BitVec 6)
  | shri (d : BitVec 5) (a : BitVec 5) (n : BitVec 6)
  | sari (d : BitVec 5) (a : BitVec 5) (n : BitVec 6)
  | fence
  | fenceR (a : BitVec 5)
  | fenceA (a : BitVec 5)
  | fenceAr (a : BitVec 5)
  | ldB8 (d : BitVec 5) (a : BitVec 5) (l : BitVec 4) (i : BitVec 12)
  | ldS8 (d : BitVec 5) (a : BitVec 5) (l : BitVec 4) (i : BitVec 12)
  | ldB16 (d : BitVec 5) (a : BitVec 5) (l : BitVec 4) (i : BitVec 12)
  | ldS16 (d : BitVec 5) (a : BitVec 5) (l : BitVec 4) (i : BitVec 12)
  | ldB32 (d : BitVec 5) (a : BitVec 5) (l : BitVec 4) (i : BitVec 12)
  | ldS32 (d : BitVec 5) (a : BitVec 5) (l : BitVec 4) (i : BitVec 12)
  | ldD (d : BitVec 5) (a : BitVec 5) (l : BitVec 4) (i : BitVec 12)
  | st (d : BitVec 5) (a : BitVec 5) (s : BitVec 2) (i : BitVec 12)
  | amoadd (d : BitVec 5) (a : BitVec 5) (z : BitVec 1) (b : BitVec 5)
  | amoswap (d : BitVec 5) (a : BitVec 5) (z : BitVec 1) (b : BitVec 5)
  | amocas (d : BitVec 5) (a : BitVec 5) (z : BitVec 1) (b : BitVec 5)
  | amominS (d : BitVec 5) (a : BitVec 5) (z : BitVec 1) (b : BitVec 5)
  | amominB (d : BitVec 5) (a : BitVec 5) (z : BitVec 1) (b : BitVec 5)
  | amomaxS (d : BitVec 5) (a : BitVec 5) (z : BitVec 1) (b : BitVec 5)
  | amomaxB (d : BitVec 5) (a : BitVec 5) (z : BitVec 1) (b : BitVec 5)
  | beq (a : BitVec 5) (b : BitVec 5) (o : BitVec 16)
  | bne (a : BitVec 5) (b : BitVec 5) (o : BitVec 16)
  | blt (a : BitVec 5) (b : BitVec 5) (o : BitVec 16)
  | bge (a : BitVec 5) (b : BitVec 5) (o : BitVec 16)
  | bltb (a : BitVec 5) (b : BitVec 5) (o : BitVec 16)
  | bgeb (a : BitVec 5) (b : BitVec 5) (o : BitVec 16)
  | jal (o : BitVec 26)
  | jr (d : BitVec 5) (a : BitVec 5)
  | loop (k : BitVec 2) (a : BitVec 5) (l : BitVec 8)
  | vld (d : BitVec 6) (a : BitVec 6) (b : BitVec 6) (m : BitVec 3) (z : BitVec 1) (l : BitVec 4)
  | vst (d : BitVec 6) (a : BitVec 6) (b : BitVec 6) (m : BitVec 3)
  | vlds (d : BitVec 6) (a : BitVec 6) (b : BitVec 6) (m : BitVec 3) (z : BitVec 1) (w : BitVec 2) (l : BitVec 2)
  | vgath (d : BitVec 6) (a : BitVec 6) (b : BitVec 6) (m : BitVec 3) (z : BitVec 1) (w : BitVec 2) (l : BitVec 2)
  | vscat (d : BitVec 6) (a : BitVec 6) (b : BitVec 6) (m : BitVec 3) (w : BitVec 2)
  | vaddInt (d : BitVec 6) (a : BitVec 6) (b : BitVec 6) (m : BitVec 3) (z : BitVec 1) (t : BitVec 2)
  | vsubInt (d : BitVec 6) (a : BitVec 6) (b : BitVec 6) (m : BitVec 3) (z : BitVec 1) (t : BitVec 2)
  | vmulInt (d : BitVec 6) (a : BitVec 6) (b : BitVec 6) (m : BitVec 3) (z : BitVec 1) (t : BitVec 2)
  | vnegInt (d : BitVec 6) (a : BitVec 6) (m : BitVec 3) (z : BitVec 1) (t : BitVec 2)
  | vminS (d : BitVec 6) (a : BitVec 6) (b : BitVec 6) (m : BitVec 3) (z : BitVec 1) (t : BitVec 2)
  | vminB (d : BitVec 6) (a : BitVec 6) (b : BitVec 6) (m : BitVec 3) (z : BitVec 1) (t : BitVec 2)
  | vmaxS (d : BitVec 6) (a : BitVec 6) (b : BitVec 6) (m : BitVec 3) (z : BitVec 1) (t : BitVec 2)
  | vmaxB (d : BitVec 6) (a : BitVec 6) (b : BitVec 6) (m : BitVec 3) (z : BitVec 1) (t : BitVec 2)
  | vabsInt (d : BitVec 6) (a : BitVec 6) (m : BitVec 3) (z : BitVec 1) (t : BitVec 2)
  | vshl (d : BitVec 6) (a : BitVec 6) (b : BitVec 6) (m : BitVec 3) (z : BitVec 1) (t : BitVec 2)
  | vshr (d : BitVec 6) (a : BitVec 6) (b : BitVec 6) (m : BitVec 3) (z : BitVec 1) (t : BitVec 2)
  | vsar (d : BitVec 6) (a : BitVec 6) (b : BitVec 6) (m : BitVec 3) (z : BitVec 1) (t : BitVec 2)
  | vclz (d : BitVec 6) (a : BitVec 6) (m : BitVec 3) (z : BitVec 1) (t : BitVec 2)
  | vffs (d : BitVec 6) (a : BitVec 6) (m : BitVec 3) (z : BitVec 1) (t : BitVec 2)
  | vpop (d : BitVec 6) (a : BitVec 6) (m : BitVec 3) (z : BitVec 1) (t : BitVec 2)
  | vand (d : BitVec 6) (a : BitVec 6) (b : BitVec 6) (m : BitVec 3) (z : BitVec 1)
  | vor (d : BitVec 6) (a : BitVec 6) (b : BitVec 6) (m : BitVec 3) (z : BitVec 1)
  | vxor (d : BitVec 6) (a : BitVec 6) (b : BitVec 6) (m : BitVec 3) (z : BitVec 1)
  | vandn (d : BitVec 6) (a : BitVec 6) (b : BitVec 6) (m : BitVec 3) (z : BitVec 1)
  | vdivS (d : BitVec 6) (a : BitVec 6) (l : BitVec 4) (t : BitVec 2) (m : BitVec 3) (z : BitVec 1)
  | vdivB (d : BitVec 6) (a : BitVec 6) (l : BitVec 4) (t : BitVec 2) (m : BitVec 3) (z : BitVec 1)
  | vremS (d : BitVec 6) (a : BitVec 6) (l : BitVec 4) (t : BitVec 2) (m : BitVec 3) (z : BitVec 1)
  | vremB (d : BitVec 6) (a : BitVec 6) (l : BitVec 4) (t : BitVec 2) (m : BitVec 3) (z : BitVec 1)
  | vaddF (d : BitVec 6) (a : BitVec 6) (b : BitVec 6) (m : BitVec 3) (z : BitVec 1) (t : BitVec 2)
  | vsubF (d : BitVec 6) (a : BitVec 6) (b : BitVec 6) (m : BitVec 3) (z : BitVec 1) (t : BitVec 2)
  | vmulF (d : BitVec 6) (a : BitVec 6) (b : BitVec 6) (m : BitVec 3) (z : BitVec 1) (t : BitVec 2)
  | vfma (d : BitVec 6) (a : BitVec 6) (b : BitVec 6) (m : BitVec 3) (z : BitVec 1) (t : BitVec 2)
  | vminF (d : BitVec 6) (a : BitVec 6) (b : BitVec 6) (m : BitVec 3) (z : BitVec 1) (t : BitVec 2)
  | vmaxF (d : BitVec 6) (a : BitVec 6) (b : BitVec 6) (m : BitVec 3) (z : BitVec 1) (t : BitVec 2)
  | vabsF (d : BitVec 6) (a : BitVec 6) (m : BitVec 3) (z : BitVec 1) (t : BitVec 2)
  | vnegF (d : BitVec 6) (a : BitVec 6) (m : BitVec 3) (z : BitVec 1) (t : BitVec 2)
  | vcmpS (c : BitVec 3) (p : BitVec 3) (a : BitVec 6) (b : BitVec 6) (m : BitVec 3) (z : BitVec 1) (t : BitVec 2)
  | vcmpB (c : BitVec 3) (p : BitVec 3) (a : BitVec 6) (b : BitVec 6) (m : BitVec 3) (z : BitVec 1) (t : BitVec 2)
  | vcmpF (c : BitVec 3) (p : BitVec 3) (a : BitVec 6) (b : BitVec 6) (m : BitVec 3) (z : BitVec 1) (t : BitVec 2)
  | vsel (d : BitVec 6) (a : BitVec 6) (b : BitVec 6) (m : BitVec 3)
  | vexp2 (d : BitVec 6) (a : BitVec 6) (l : BitVec 4) (t : BitVec 2) (m : BitVec 3) (z : BitVec 1)
  | vlog2 (d : BitVec 6) (a : BitVec 6) (l : BitVec 4) (t : BitVec 2) (m : BitVec 3) (z : BitVec 1)
  | vrcp (d : BitVec 6) (a : BitVec 6) (l : BitVec 4) (t : BitVec 2) (m : BitVec 3) (z : BitVec 1)
  | vrsq (d : BitVec 6) (a : BitVec 6) (l : BitVec 4) (t : BitVec 2) (m : BitVec 3) (z : BitVec 1)
  | vtanh (d : BitVec 6) (a : BitVec 6) (l : BitVec 4) (t : BitVec 2) (m : BitVec 3) (z : BitVec 1)
  | vgelu (d : BitVec 6) (a : BitVec 6) (l : BitVec 4) (t : BitVec 2) (m : BitVec 3) (z : BitVec 1)
  | vcvt (d : BitVec 6) (a : BitVec 6) (e : BitVec 4) (s : BitVec 2) (m : BitVec 3) (z : BitVec 1) (u : BitVec 2)
  | vpack (d : BitVec 6) (a : BitVec 6) (f : BitVec 2)
  | vunpack (d : BitVec 6) (a : BitVec 6) (f : BitVec 2)
  | vdot (d : BitVec 6) (a : BitVec 6) (b : BitVec 6) (m : BitVec 3) (z : BitVec 1) (f : BitVec 2)
  | vperm (d : BitVec 6) (a : BitVec 6) (b : BitVec 6) (m : BitVec 3) (w : BitVec 2)
  | vred (d : BitVec 6) (a : BitVec 6) (o : BitVec 3) (t : BitVec 2) (m : BitVec 3)
  | vmatchB32 (d : BitVec 6) (a : BitVec 6) (m : BitVec 3)
  | vmatchB64 (d : BitVec 6) (a : BitVec 6) (m : BitVec 3)
  | vhaarF (d : BitVec 6) (a : BitVec 6) (b : BitVec 6) (m : BitVec 3)
  | vhaarFL (d : BitVec 6) (a : BitVec 6) (n : BitVec 3)
  | vhaarI (d : BitVec 6) (a : BitVec 6) (b : BitVec 6) (m : BitVec 3)
  | vhaarIL (d : BitVec 6) (a : BitVec 6) (n : BitVec 3)
  | vsca (d : BitVec 6) (a : BitVec 6) (b : BitVec 6) (m : BitVec 3)
  | vtag (d : BitVec 6) (a : BitVec 6) (c : BitVec 2)
  | vbcast (d : BitVec 6) (a : BitVec 6) (t : BitVec 2) (m : BitVec 3)
  | vext (d : BitVec 6) (a : BitVec 6) (t : BitVec 2)
  | vwhile (p : BitVec 3) (a : BitVec 6) (b : BitVec 6) (w : BitVec 2)
  | vlq (d : BitVec 6)
  | mma (l : BitVec 4) (c : BitVec 2) (a : BitVec 5) (b : BitVec 5) (g : BitVec 1) (h : BitVec 1) (e : BitVec 4) (f : BitVec 4)
  | mmaz (l : BitVec 4) (c : BitVec 2) (a : BitVec 5) (b : BitVec 5) (g : BitVec 1) (h : BitVec 1) (e : BitVec 4) (f : BitVec 4)
  | msca (l : BitVec 4) (c : BitVec 2) (a : BitVec 5) (b : BitVec 5) (k : BitVec 2) (s : BitVec 2)
  | mdrain (l : BitVec 4) (c : BitVec 2) (a : BitVec 5) (b : BitVec 5) (x : BitVec 1)
  | mldacc (l : BitVec 4) (c : BitVec 2) (a : BitVec 5)
  | mzero (l : BitVec 4) (c : BitVec 2)
  | mmovvToV (l : BitVec 4) (c : BitVec 2) (a : BitVec 5) (b : BitVec 5)
  | mmovvToAcc (l : BitVec 4) (c : BitVec 2) (a : BitVec 5) (b : BitVec 5)
  | mtag (l : BitVec 4) (c : BitVec 2) (a : BitVec 5)
  | cbload (l : BitVec 4) (a : BitVec 5) (f : BitVec 1) (n : BitVec 3)
  | cpy (l : BitVec 4) (t : BitVec 5) (a : BitVec 5) (b : BitVec 5)
  | cpyv (l : BitVec 4) (t : BitVec 5) (a : BitVec 5)
  | fill (l : BitVec 4) (t : BitVec 5) (a : BitVec 5) (b : BitVec 5)
  | sbind (l : BitVec 4) (k : BitVec 2) (a : BitVec 5)
  | sunbind (k : BitVec 2)
  | xput (l : BitVec 4) (t : BitVec 5) (a : BitVec 5) (b : BitVec 5) (o : BitVec 2)
  | xget (l : BitVec 4) (t : BitVec 5) (a : BitVec 5) (b : BitVec 5) (o : BitVec 2)
  | xadd (l : BitVec 4) (t : BitVec 5) (a : BitVec 5) (b : BitVec 5) (o : BitVec 2) (y : BitVec 2)
  | xmin (l : BitVec 4) (t : BitVec 5) (a : BitVec 5) (b : BitVec 5) (o : BitVec 2) (y : BitVec 2)
  | xmax (l : BitVec 4) (t : BitVec 5) (a : BitVec 5) (b : BitVec 5) (o : BitVec 2) (y : BitVec 2)
  | xcas (l : BitVec 4) (t : BitVec 5) (a : BitVec 5) (b : BitVec 5) (o : BitVec 2) (y : BitVec 2)
  | xflag (l : BitVec 4) (t : BitVec 5) (a : BitVec 5) (b : BitVec 5)
  | xtask (l : BitVec 4) (t : BitVec 5) (a : BitVec 5) (b : BitVec 5)
  | xexpect (a : BitVec 5) (k : BitVec 4)
  | xwait (k : BitVec 4)
  | gets (d : BitVec 5) (n : BitVec 12)
  | sets (d : BitVec 5) (n : BitVec 12)
  | callsv (n : BitVec 16)
  | rett
  | halt
  | hstart (d : BitVec 5) (a : BitVec 5) (b : BitVec 5)
  | hexit
  | grid (a : BitVec 5)
  | gnext (d : BitVec 5)
  | graise (d : BitVec 5) (a : BitVec 5)
  | gkill
  | stepX
  | stepC
  | phreg (b : BitVec 5) (m : BitVec 2)
  | phdrop (b : BitVec 5)
  | phsig (b : BitVec 5)
  | phwait (b : BitVec 5)
  | phnext (b : BitVec 5)
  | qpush (a : BitVec 5) (q : BitVec 3)
  | qpop (d : BitVec 5) (q : BitVec 3)
  | sdrain
  | tlbinvVa (a : BitVec 5) (b : BitVec 5)
  | tlbinvAsid (b : BitVec 5)
  | tlbinvPart
  | tlbretire (a : BitVec 5)
  | capmint (d : BitVec 5) (a : BitVec 5)
  | hintImm (p : BitVec 22)
  | hintMod (p : BitVec 6)
  | hintPri (b : BitVec 6) (n : BitVec 12) (k : BitVec 4)
  | trapEntry (lcn : Nat) (cause : BitVec 8) (info : BitVec 64) (imp : Bool)
  | helperTrapEntry (lcn : Nat)
  | impreciseTrapTaken (lcn : Nat)
  | flaguUpdate (lcn : Nat)
  | hintPriExpiry (lcn : Nat) (k : Nat)
  | coreReset (lcn : Nat)
  | moduleReset
  | helperKill (lcn : Nat) (h : Nat)
  | queueOverflowOrUnderflow (lcn : Nat) (k : Nat)
  | drectWrite (lcn : Nat) (level : Nat) (v : BitVec 64)
  | dmemWrite (lcn : Nat) (v : BitVec 64)
  | computeBudgetSpent (dom : DomKey)
  | exchangeBudgetSpent (dom : DomKey)
  | exchangeWindowOpen
  | computeWindowOpen
  | gangEnd (gang : Nat)
  | matrixQueuePerform (lcn : Nat)
  | governorWindowStart (lcn : Nat)
  | mgovWrite (lcn : Nat) (v : BitVec 64)
  | pageWalk (lcn : Nat) (va : BitVec 48)
  | belfryReply (lcn : Nat) (slot : Nat) (seq : Nat) (kill : Bool)
  | storeDrain (lcn : Nat)
  | sfqPop (lcn : Nat)
  | sbstHoldClear (lcn : Nat)
  | xlatWrite (lcn : Nat) (v : BitVec 64)
  | pspaceWrite (lcn : Nat) (v : BitVec 64)
  | migrationStart (mig : Nat) (part : Nat) (asid : BitVec 10) (leaf : BitVec 56) (frame : BitVec 38)
  | migrationLineCopy (mig : Nat)
  | migrationRemove (mig : Nat)
  | combiningLineArrival (n : Nat)
  | xputPacketArrival (lcn : Nat) (id : Nat) (packet : Nat)
  | xgetRequestArrival (lcn : Nat) (id : Nat)
  | xcasArrival (lcn : Nat) (id : Nat)
  | xflagArrival (lcn : Nat) (id : Nat)
  | taskArrival (lcn : Nat) (id : Nat)
  | transferEnd (lcn : Nat) (id : Nat)
  | engineTransferBegin (lcn : Nat) (id : Nat)
  | streamFetch (lcn : Nat) (sm : Nat)
  | lndWrite (lcn : Nat) (n : Nat) (v : BitVec 64)
  | proxyRequest (id : Nat)
  | proxyHomeOperation (id : Nat)
  | proxyResponse (id : Nat)
  | relayReinject (lcn : Nat) (id : Nat)
  | twinPairMatch (lcn : Nat) (id : Nat)
  | uncorrectableErrorConsumed (lcn : Nat) (k : Nat) (src : BitVec 3) (pa : BitVec 56)
  | rollback (gang : Nat)
  | preemptRequest (lcn : Nat) (v : BitVec 64)
  | preemptSave (gang : Nat)
  | preemptRestore (gang : Nat)
  | towerRetire (tower : Nat)
  | mapGenerationIssue (changes : List SiteChange)
  | dump (lcn : Nat) (read : PortRead)
  | testPackage (pkg : TestPackage)
  | registerWrite (lcn : Nat) (k : Nat) (num : BitVec 12) (v : BitVec 64) (who : PortAccess)
  | stopDomainRequest (lcn : Nat)
  | stopGangRequest (lcn : Nat)
  | preciseStopRequest (lcn : Nat) (on : Bool)
  | resume (lcn : Nat)
  | singleStep (lcn : Nat) (smsk : BitVec 11) (scnt : BitVec 16)
  | stepEnd (lcn : Nat)
  | stopTrigger (lcn : Nat)
  | debugHalt (lcn : Nat)
  | moduleStop
  | moduleStopEnd
  | counterSample (lcn : Nat)
  | ringTestInject (lcn : Nat) (v : BitVec 64)
  | nsvalWrite (lcn : Nat) (group : Bool) (v : BitVec 64)
  | turretSeedStart (turret : Nat)
  | wavefrontArrival (site : Nat)
  | clockLock (site : Nat) (ok : Bool)
  | configurationArrival (site : Nat)
  | selfTestEnd (site : Nat) (ok : Bool)
  | bondDecision (site : Nat) (side : Nat) (ok : Bool)
  | bondTimeout (site : Nat) (side : Nat)
  | enterLinked (site : Nat)
  | enterServingReduced (site : Nat)
  | fullServiceDecision
  | fullServiceRaise
  | powerCapSet (watts : Nat)
  | rateLowering (lcn : Nat) (rate : BitVec 24)
  | thermalThrottle (tower : Nat) (hot : Bool) (rate : BitVec 24)
  | doorbellTailWrite (q : Nat) (tail : BitVec 32)
  | doorbellSizeWrite (q : Nat) (size : BitVec 8) (base : BitVec 64)
  | queueEntryAccept (q : Nat)
  | launchStart (q : Nat)
  | hostCopy (q : Nat)
  | gcbPreempt (q : Nat)
  | gcbRestore (q : Nat)
  | gcbKill (q : Nat)
  | faultAgentMessage (tower : Nat)
  | eventAnswer (vf : Nat) (ans : BitVec 64) (seq : BitVec 64)
  | faultTimeout (lcn : Nat) (slot : Nat)
  | partitionCreate (req : CreateRequest)
  | partitionDestroy (part : Nat)
  | towerAssign (part : Nat) (tower : Nat) (give : Bool)
  | imageRegister (part : Nat) (addr : BitVec 43) (len : Nat)
  | attest (nonce : BitVec 256) (part : Option Nat)
  | windowGroupToken (round : Nat)
  | groupMemberRemove (gsz : Nat) (gpos : Nat)
  | longLatencyCompletion (lcn : Nat) (k : Nat)
  | ringTestFlitDelivery (lcn : Nat)
  | moduleLinkDown (module : Nat)
  | linkWindowSetup (part : Nat) (module : Nat) (base : BitVec 52) (len : Nat)
deriving DecidableEq, Repr

end Sys2Proof
end

