-- ==== Sys2Proof/Config.lean ====
section
/-!
DEFINITION. What an implementation fixes, and the free values: constants with no body where the spec leaves a value open.
A statement about a free value holds whatever it is. Each is named in the assumption log.
-/

namespace Sys2Proof
namespace Config

/-- A free 64-bit value, one for each value of the model's counter `tick` (DESIGN CHOICE, log entry 2). -/
opaque freeWord : Nat → Word

/-- A free choice of an index, one for each value of the counter (DESIGN CHOICE, log entry 2). -/
opaque freeIndex : Nat → Nat

/-- Whether an access that meets an overlapping write of a lookahead window, or a stream a drained store, takes the new word: by
the counter and the address of the aligned 4-byte word (R45, R294; DESIGN CHOICE, log entry 70). -/
opaque wordNew : Nat → Nat → Bool

/-- The cycles a step takes beyond one: timing is left out of the model (DESIGN CHOICE, log entry 7). -/
opaque extraCycles : Nat → Nat

/-- The cycles of a step that a counter event of R352 counts, by event number (DESIGN CHOICE, log entry 7). -/
opaque stallCycles : Nat → Nat → Nat

/-- Whether both signatures of a signed record verify (R414) under the keys named: 0 vendor, n + 1 tenant n
(DESIGN CHOICE, log entry 11). -/
opaque signaturesVerify : List Byte → Nat → Bool

/-- A partition's 256-bit key, drawn by root firmware when it creates the partition (R381; DESIGN CHOICE, log entry 11). -/
opaque partitionKey : Nat → BitVec 256

/-- The number of the first failing pattern of a test package on a site, if one fails (R337; DESIGN CHOICE, log entry 11). -/
opaque patternFailure : List Byte → Nat → Option (BitVec 32)

/-- SHA-384 of a byte string (R416, FIPS 180-4), left uninterpreted (DESIGN CHOICE, log entry 11). -/
opaque sha384 : List Byte → BitVec 384

/-- The trailer of a record signed under the module's attestation keys (R414, R416; DESIGN CHOICE, log entry 11). -/
opaque attestationTrailer : List Byte → List Byte

/-- The images of root and service firmware, whose hashes an attestation report holds (R416; log entry 11). -/
opaque rootFirmware : List Byte
opaque serviceFirmware : List Byte

/-- The module's serial number, 16 ASCII bytes (R336, R377, R383; log entry 11). -/
opaque serialNumber : BitVec 128

/-- Whether the host refuses a request to a host address (R398; DESIGN CHOICE, log entry 2). -/
opaque hostRefuses : Nat → BitVec 43 → Bool

/-- The scratchpad and dome sections of an image, by offset, as functions of the bytes of its text and data sections: where
the dispatcher finds them is not stated (R69; DESIGN CHOICE, log entry 28). -/
opaque scratchSection : List Byte → List (Nat × Byte)
opaque domeSection : List Byte → List (Nat × Byte)

/-- Whether the bond of a site, by its number and side, is dead (R386, R387; DESIGN CHOICE, log entry 26). -/
opaque bondDead : Nat → Nat → Bool

/-- The feature token that root firmware finds at boot (R383, R384; log entry 11). -/
opaque featureToken : List Byte

/-- The training of the two host sites, as an attestation report shows it (R397, R416; log entry 11). -/
opaque hostTraining : List Byte

/-- The flits of a ring packet that is no test packet, less one, by tower and number (R368; DESIGN CHOICE, log entry 88). -/
opaque ringFlits : Nat → Nat → Nat

/-- The position in the window group of a partner module, by the group's size and the module's number (R419; DESIGN CHOICE, log
entry 2). -/
opaque windowPosition : Nat → Nat → Option Nat

/-- Whether a word that a host copy moves is lost to an uncorrectable error, by the counter and its address (R409; DESIGN CHOICE,
log entry 87). -/
opaque wordLost : Nat → Nat → Bool

/-- Module power in watts and a tower's hottest sensor in degrees, as pwmeas shows them (R367; log entry 2). -/
opaque modulePower : Nat → BitVec 16
opaque hottestSensor : Nat → BitVec 8

/-- The number of towers in the largest array, 16 by 18 (R5). -/
def towers : Nat := 288

/-- The number of cores in the largest array (R6). -/
def cores : Nat := 2304

/-- The number of tower sites, 18 by 18 (R2). -/
def sites : Nat := 324

end Config
end Sys2Proof
end

