-- ==== Sys2Proof/WellFormed.lean ====
section
/-!
DEFINITION. Which instructions are well formed: every operand inside the range its row and R38 to R64 and R280 allow
(check 4 of R53); for an event, operands that name an agent the machine has.
-/

namespace Sys2Proof
namespace Instr

/-- An operand number that may be read as a vector source (R41). -/
def vsrc (x : BitVec 6) : Bool := x.toNat < 46

/-- An operand number that may be a vector destination (R41). -/
def vdst (x : BitVec 6) : Bool := x.toNat < 41

/-- An operand number of a destination that is read as accumulator or dividend (R58). -/
def vacc (x : BitVec 6) : Bool := x.toNat < 40

/-- A 6-bit field that names a g register (R38). -/
def greg (x : BitVec 6) : Bool := x.toNat < 32

/-- An even g index, which names a register pair (R62, R63). -/
def evenReg (x : BitVec 5) : Bool := x.toNat % 2 == 0

/-- A matrix operand: a vector group v0, v8, v16 or v24 with a format code of R192, or an even descriptor register with
format 0 (R62, R192). -/
def matOperand (group : BitVec 1) (r : BitVec 5) (fmt : BitVec 4) : Bool :=
  if group.toNat == 1 then r.toNat % 8 == 0 && (fmt.toNat < 9 && fmt.toNat != 4) else evenReg r && fmt.toNat == 0

/-- The instruction holds no field outside its range (R53, check 4). -/
def wf : Instr → Bool
  | .add _ _ _ => true
  | .sub _ _ _ => true
  | .mul _ _ _ => true
  | .mulhS64 _ _ _ => true
  | .mulhB64 _ _ _ => true
  | .and _ _ _ => true
  | .or _ _ _ => true
  | .xor _ _ _ => true
  | .andn _ _ _ => true
  | .shl _ _ _ => true
  | .shr _ _ _ => true
  | .sar _ _ _ => true
  | .slt _ _ _ => true
  | .sltb _ _ _ => true
  | .minS64 _ _ _ => true
  | .minB64 _ _ _ => true
  | .maxS64 _ _ _ => true
  | .maxB64 _ _ _ => true
  | .clz _ _ _ => true
  | .ffs _ _ _ => true
  | .popcnt _ _ _ => true
  | .sel _ _ _ _ => true
  | .div _ _ _ _ _ _ => true
  | .rem _ _ _ _ _ _ => true
  | .addi _ _ _ => true
  | .andi _ _ _ => true
  | .ori _ _ _ => true
  | .xori _ _ _ => true
  | .slti _ _ _ => true
  | .sltbi _ _ _ => true
  | .ldhi _ _ _ => true
  | .shli _ _ _ => true
  | .shri _ _ _ => true
  | .sari _ _ _ => true
  | .fence => true
  | .fenceR _ => true
  | .fenceA _ => true
  | .fenceAr _ => true
  | .ldB8 _ _ _ _ => true
  | .ldS8 _ _ _ _ => true
  | .ldB16 _ _ _ _ => true
  | .ldS16 _ _ _ _ => true
  | .ldB32 _ _ _ _ => true
  | .ldS32 _ _ _ _ => true
  | .ldD _ _ _ _ => true
  | .st _ _ _ _ => true
  | .amoadd _ _ _ _ => true
  | .amoswap _ _ _ _ => true
  | .amocas _ _ _ _ => true
  | .amominS _ _ _ _ => true
  | .amominB _ _ _ _ => true
  | .amomaxS _ _ _ _ => true
  | .amomaxB _ _ _ _ => true
  | .beq _ _ _ => true
  | .bne _ _ _ => true
  | .blt _ _ _ => true
  | .bge _ _ _ => true
  | .bltb _ _ _ => true
  | .bgeb _ _ _ => true
  | .jal _ => true
  | .jr _ _ => true
  | .loop k _ _ => (k.toNat < 3 : Bool)
  | .vld d a _ _ _ _ => vdst d && greg a
  | .vst d a _ _ => vsrc d && greg a
  | .vlds d a b _ _ _ _ => vdst d && greg a && greg b
  | .vgath d a b _ _ _ _ => vdst d && vsrc b && greg a
  | .vscat d a b _ _ => vsrc d && vsrc b && greg a
  | .vaddInt d a b _ _ _ => vdst d && vsrc a && vsrc b
  | .vsubInt d a b _ _ _ => vdst d && vsrc a && vsrc b
  | .vmulInt d a b _ _ _ => vdst d && vsrc a && vsrc b
  | .vnegInt d a _ _ _ => vdst d && vsrc a
  | .vminS d a b _ _ _ => vdst d && vsrc a && vsrc b
  | .vminB d a b _ _ _ => vdst d && vsrc a && vsrc b
  | .vmaxS d a b _ _ _ => vdst d && vsrc a && vsrc b
  | .vmaxB d a b _ _ _ => vdst d && vsrc a && vsrc b
  | .vabsInt d a _ _ _ => vdst d && vsrc a
  | .vshl d a b _ _ _ => vdst d && vsrc a && vsrc b
  | .vshr d a b _ _ _ => vdst d && vsrc a && vsrc b
  | .vsar d a b _ _ _ => vdst d && vsrc a && vsrc b
  | .vclz d a _ _ _ => vdst d && vsrc a
  | .vffs d a _ _ _ => vdst d && vsrc a
  | .vpop d a _ _ _ => vdst d && vsrc a
  | .vand d a b _ _ => vdst d && vsrc a && vsrc b
  | .vor d a b _ _ => vdst d && vsrc a && vsrc b
  | .vxor d a b _ _ => vdst d && vsrc a && vsrc b
  | .vandn d a b _ _ => vdst d && vsrc a && vsrc b
  | .vdivS d a _ _ _ _ => vacc d && vsrc a
  | .vdivB d a _ _ _ _ => vacc d && vsrc a
  | .vremS d a _ _ _ _ => vacc d && vsrc a
  | .vremB d a _ _ _ _ => vacc d && vsrc a
  | .vaddF d a b _ _ t => vdst d && vsrc a && vsrc b && (t.toNat < 3 : Bool)
  | .vsubF d a b _ _ t => vdst d && vsrc a && vsrc b && (t.toNat < 3 : Bool)
  | .vmulF d a b _ _ t => vdst d && vsrc a && vsrc b && (t.toNat < 3 : Bool)
  | .vfma d a b _ _ t => vacc d && vsrc a && vsrc b && (t.toNat < 3 : Bool)
  | .vminF d a b _ _ t => vdst d && vsrc a && vsrc b && (t.toNat < 3 : Bool)
  | .vmaxF d a b _ _ t => vdst d && vsrc a && vsrc b && (t.toNat < 3 : Bool)
  | .vabsF d a _ _ t => vdst d && vsrc a && (t.toNat < 3 : Bool)
  | .vnegF d a _ _ t => vdst d && vsrc a && (t.toNat < 3 : Bool)
  | .vcmpS c p a b _ _ _ => vsrc a && vsrc b && (c.toNat < 6 : Bool) && decide (1 ≤ p.toNat)
  | .vcmpB c p a b _ _ _ => vsrc a && vsrc b && (c.toNat < 6 : Bool) && decide (1 ≤ p.toNat)
  | .vcmpF c p a b _ _ t => vsrc a && vsrc b && (t.toNat < 3 : Bool) && (c.toNat < 7 : Bool) && decide (1 ≤ p.toNat)
  | .vsel d a b _ => vdst d && vsrc a && vsrc b
  | .vexp2 d a _ t _ _ => vdst d && vsrc a && (t.toNat < 3 : Bool)
  | .vlog2 d a _ t _ _ => vdst d && vsrc a && (t.toNat < 3 : Bool)
  | .vrcp d a _ t _ _ => vdst d && vsrc a && (t.toNat < 3 : Bool)
  | .vrsq d a _ t _ _ => vdst d && vsrc a && (t.toNat < 3 : Bool)
  | .vtanh d a _ t _ _ => vdst d && vsrc a && (t.toNat < 3 : Bool)
  | .vgelu d a _ t _ _ => vdst d && vsrc a && (t.toNat < 3 : Bool)
  | .vcvt d a e s _ _ u => vdst d && vsrc a && (e.toNat < 11 : Bool) && decide (4 * s.toNat + u.toNat < 11)
  | .vpack d a f => vdst d && vsrc a && (f.toNat < 3 : Bool)
  | .vunpack d a f => vdst d && vsrc a && (f.toNat < 3 : Bool)
  | .vdot d a b _ _ _ => vacc d && vsrc a && vsrc b
  | .vperm d a b _ _ => vdst d && vsrc a && vsrc b
  | .vred d a o t _ => vdst d && vsrc a && (if o.toNat == 1 || o.toNat == 6 || o.toNat == 7 then decide (t.toNat < 3) else true)
  | .vmatchB32 d a _ => vdst d && vsrc a
  | .vmatchB64 d a _ => vdst d && vsrc a
  | .vhaarF d a b _ => vsrc a && vsrc b && (d.toNat < 32 && d.toNat % 2 == 0)
  | .vhaarFL d a n => vdst d && vsrc a && (1 ≤ n.toNat && n.toNat ≤ 6)
  | .vhaarI d a b _ => vsrc a && vsrc b && (d.toNat < 32 && d.toNat % 2 == 0)
  | .vhaarIL d a n => vdst d && vsrc a && (1 ≤ n.toNat && n.toNat ≤ 6)
  | .vsca d a b _ => vacc d && vsrc a && vsrc b
  | .vtag d a _ => vdst d && vsrc a
  | .vbcast d a _ _ => vdst d && greg a
  | .vext d a _ => vsrc a && greg d
  | .vwhile p a b _ => greg a && greg b && decide (1 ≤ p.toNat)
  | .vlq d => greg d
  | .mma _ _ a b g h e f => matOperand g a e && matOperand h b f
  | .mmaz _ _ a b g h e f => matOperand g a e && matOperand h b f
  | .msca _ _ _ b k _ => (k.toNat == 3 || b.toNat == 0)
  | .mdrain _ _ a _ _ => evenReg a
  | .mldacc _ _ a => evenReg a
  | .mzero _ _ => true
  | .mmovvToV _ _ _ _ => true
  | .mmovvToAcc _ _ _ _ => true
  | .mtag _ _ _ => true
  | .cbload _ _ _ _ => true
  | .cpy _ t _ _ => decide (t.toNat ≠ 0)
  | .cpyv _ _ _ => true
  | .fill _ t _ _ => decide (t.toNat ≠ 0)
  | .sbind _ _ _ => true
  | .sunbind _ => true
  | .xput _ t a _ o => decide (t.toNat ≠ 0) && evenReg a && (o.toNat < 3 : Bool)
  | .xget _ t a _ o => decide (t.toNat ≠ 0) && evenReg a && (o.toNat < 3 : Bool)
  | .xadd _ _ a _ o _ => evenReg a && (o.toNat < 3 : Bool)
  | .xmin _ _ a _ o _ => evenReg a && (o.toNat < 3 : Bool)
  | .xmax _ _ a _ o _ => evenReg a && (o.toNat < 3 : Bool)
  | .xcas _ t a _ o y => decide (t.toNat ≠ 0) && evenReg a && (o.toNat < 3 : Bool) && (y.toNat < 3 : Bool)
  | .xflag _ _ a _ => evenReg a
  | .xtask _ _ a _ => evenReg a
  | .xexpect _ _ => true
  | .xwait _ => true
  | .gets _ _ => true
  | .sets _ _ => true
  | .callsv _ => true
  | .rett => true
  | .halt => true
  | .hstart _ _ _ => true
  | .hexit => true
  | .grid _ => true
  | .gnext _ => true
  | .graise _ _ => true
  | .gkill => true
  | .stepX => true
  | .stepC => true
  | .phreg _ m => (m.toNat < 3 : Bool)
  | .phdrop _ => true
  | .phsig _ => true
  | .phwait _ => true
  | .phnext _ => true
  | .qpush _ _ => true
  | .qpop _ _ => true
  | .sdrain => true
  | .tlbinvVa _ _ => true
  | .tlbinvAsid _ => true
  | .tlbinvPart => true
  | .tlbretire _ => true
  | .capmint _ _ => true
  | .hintImm _ => true
  | .hintMod _ => true
  | .hintPri _ n k => (k.toNat < 11 : Bool) && decide (1 ≤ n.toNat)
  | .trapEntry lcn _ _ _ => decide (lcn < Config.cores)
  | .helperTrapEntry lcn => decide (lcn < Config.cores)
  | .impreciseTrapTaken lcn => decide (lcn < Config.cores)
  | .flaguUpdate lcn => decide (lcn < Config.cores)
  | .hintPriExpiry lcn k => decide (lcn < Config.cores) && decide (k < 11)
  | .coreReset lcn => decide (lcn < Config.cores)
  | .moduleReset => true
  | .helperKill lcn h => decide (lcn < Config.cores) && decide (h < 11)
  | .queueOverflowOrUnderflow lcn k => decide (lcn < Config.cores) && decide (k < 11)
  | .drectWrite lcn level _ => decide (lcn < Config.cores) && (1 ≤ level && level < 4)
  | .dmemWrite lcn _ => decide (lcn < Config.cores)
  | .computeBudgetSpent _ => true
  | .exchangeBudgetSpent _ => true
  | .exchangeWindowOpen => true
  | .computeWindowOpen => true
  | .gangEnd _ => true
  | .matrixQueuePerform lcn => decide (lcn < Config.cores)
  | .governorWindowStart lcn => decide (lcn < Config.cores)
  | .mgovWrite lcn _ => decide (lcn < Config.cores)
  | .pageWalk lcn _ => decide (lcn < Config.cores)
  | .belfryReply lcn slot _ _ => decide (lcn < Config.cores) && decide (slot < 12)
  | .storeDrain lcn => decide (lcn < Config.cores)
  | .sfqPop lcn => decide (lcn < Config.cores)
  | .sbstHoldClear lcn => decide (lcn < Config.cores)
  | .xlatWrite lcn _ => decide (lcn < Config.cores)
  | .pspaceWrite lcn _ => decide (lcn < Config.cores)
  | .migrationStart _ part _ _ _ => decide (part < 64)
  | .migrationLineCopy _ => true
  | .migrationRemove _ => true
  | .combiningLineArrival _ => true
  | .xputPacketArrival lcn _ _ => decide (lcn < Config.cores)
  | .xgetRequestArrival lcn _ => decide (lcn < Config.cores)
  | .xcasArrival lcn _ => decide (lcn < Config.cores)
  | .xflagArrival lcn _ => decide (lcn < Config.cores)
  | .taskArrival lcn _ => decide (lcn < Config.cores)
  | .transferEnd lcn _ => decide (lcn < Config.cores)
  | .engineTransferBegin lcn _ => decide (lcn < Config.cores)
  | .streamFetch lcn sm => decide (lcn < Config.cores) && decide (sm < 4)
  | .lndWrite lcn _ _ => decide (lcn < Config.cores)
  | .proxyRequest _ => true
  | .proxyHomeOperation _ => true
  | .proxyResponse _ => true
  | .relayReinject lcn _ => decide (lcn < Config.cores)
  | .twinPairMatch lcn _ => decide (lcn < Config.cores)
  | .uncorrectableErrorConsumed lcn k _ _ => decide (lcn < Config.cores) && decide (k < 11)
  | .rollback _ => true
  | .preemptRequest lcn _ => decide (lcn < Config.cores)
  | .preemptSave _ => true
  | .preemptRestore _ => true
  | .towerRetire tower => decide (tower < Config.towers)
  | .mapGenerationIssue _ => true
  | .dump lcn _ => decide (lcn < Config.cores)
  | .testPackage _ => true
  | .registerWrite lcn k _ _ _ => decide (lcn < Config.cores) && decide (k < 11)
  | .stopDomainRequest lcn => decide (lcn < Config.cores)
  | .stopGangRequest lcn => decide (lcn < Config.cores)
  | .preciseStopRequest lcn _ => decide (lcn < Config.cores)
  | .resume lcn => decide (lcn < Config.cores)
  | .singleStep lcn _ _ => decide (lcn < Config.cores)
  | .stepEnd lcn => decide (lcn < Config.cores)
  | .stopTrigger lcn => decide (lcn < Config.cores)
  | .debugHalt lcn => decide (lcn < Config.cores)
  | .moduleStop => true
  | .moduleStopEnd => true
  | .counterSample lcn => decide (lcn < Config.cores)
  | .ringTestInject lcn _ => decide (lcn < Config.cores)
  | .nsvalWrite lcn _ _ => decide (lcn < Config.cores)
  | .turretSeedStart turret => decide (turret < 16)
  | .wavefrontArrival site => decide (site < Config.sites)
  | .clockLock site _ => decide (site < Config.sites)
  | .configurationArrival site => decide (site < Config.sites)
  | .selfTestEnd site _ => decide (site < Config.sites)
  | .bondDecision site side _ => decide (site < Config.sites) && decide (side < 4)
  | .bondTimeout site side => decide (site < Config.sites) && decide (side < 4)
  | .enterLinked site => decide (site < Config.sites)
  | .enterServingReduced site => decide (site < Config.sites)
  | .fullServiceDecision => true
  | .fullServiceRaise => true
  | .powerCapSet _ => true
  | .rateLowering lcn _ => decide (lcn < Config.cores)
  | .thermalThrottle tower _ _ => decide (tower < Config.towers)
  | .doorbellTailWrite q _ => decide (q < 4160)
  | .doorbellSizeWrite q _ _ => decide (q < 4160)
  | .queueEntryAccept q => decide (q < 4096)
  | .launchStart q => decide (q < 4096)
  | .hostCopy q => decide (q < 4096)
  | .gcbPreempt q => decide (q < 4096)
  | .gcbRestore q => decide (q < 4096)
  | .gcbKill q => decide (q < 4096)
  | .faultAgentMessage tower => decide (tower < Config.towers)
  | .eventAnswer vf _ _ => decide (vf < 64)
  | .faultTimeout lcn slot => decide (lcn < Config.cores) && decide (slot < 12)
  | .partitionCreate _ => true
  | .partitionDestroy part => decide (part < 64)
  | .towerAssign part tower _ => decide (part < 64) && decide (tower < Config.towers)
  | .imageRegister part _ _ => decide (part < 64)
  | .attest _ _ => true
  | .windowGroupToken _ => true
  | .groupMemberRemove _ _ => true
  | .longLatencyCompletion lcn k => decide (lcn < Config.cores) && decide (k < 11)
  | .ringTestFlitDelivery lcn => decide (lcn < Config.cores)
  | .moduleLinkDown module => decide (module < 16)
  | .linkWindowSetup part module _ _ => decide (part < 64) && decide (module < 16)

end Instr
end Sys2Proof
end

