-- ==== Sys2Proof/Decode.lean ====
section
/-!
DEFINITION. Decoding (R38 to R64): total on 32-bit words, rejecting by name in the order of checks 1 to 4 of R53, and the
encoder written from the same tables.
-/

namespace Sys2Proof

/-- Why a word decodes to no instruction: the first failing check of R53. Each takes cause 0x01 when it is issued. -/
inductive Reject where
  /-- Check 1: the word is 0x0000_0000 or 0xFFFF_FFFF. -/
  | blankWord
  /-- Check 2: the major opcode is unassigned (R52). -/
  | unassignedMajor
  /-- Check 3: the function value, selector or kind is unassigned or marked illegal. -/
  | unassignedFunction
  /-- Check 4: a reserved field is nonzero. -/
  | reservedField
  /-- Check 4: a field holds a value outside its range. -/
  | outOfRange
deriving DecidableEq, Repr

/-- Bits lo to lo + len - 1 of a word. -/
def fld (w : Word32) (lo len : Nat) : BitVec len := BitVec.ofNat len (w.toNat / 2 ^ lo)

/-- The bits of a word that a mask keeps. -/
def kept (w : Word32) (mask : Nat) : Nat := w.toNat &&& mask

/-- An instruction of a selected row: its reserved bits shall be zero and its fields in range (R53, check 4). -/
def checkRow (reservedZero : Bool) (i : Instr) : Except Reject Instr :=
  if !reservedZero then .error .reservedField
  else if !i.wf then .error .outOfRange
  else .ok i

/-- Major opcode 0x00 (R52): ADD, SUB, MUL, MULH_S64, MULH_B64, AND, OR, XOR, ANDN, SHL, SHR, SAR, SLT, SLTB, MIN_S64, MIN_B64, MAX_S64, MAX_B64, CLZ, FFS, POPCNT. -/
def decodeMajor00 (w : Word32) : Except Reject Instr :=
  if fld w 0 11 == 0#11 then checkRow (true) (.add (fld w 21 5) (fld w 16 5) (fld w 11 5))
  else if fld w 0 11 == 1#11 then checkRow (true) (.sub (fld w 21 5) (fld w 16 5) (fld w 11 5))
  else if fld w 0 11 == 2#11 then checkRow (true) (.mul (fld w 21 5) (fld w 16 5) (fld w 11 5))
  else if fld w 0 11 == 3#11 then checkRow (true) (.mulhS64 (fld w 21 5) (fld w 16 5) (fld w 11 5))
  else if fld w 0 11 == 4#11 then checkRow (true) (.mulhB64 (fld w 21 5) (fld w 16 5) (fld w 11 5))
  else if fld w 0 11 == 8#11 then checkRow (true) (.and (fld w 21 5) (fld w 16 5) (fld w 11 5))
  else if fld w 0 11 == 9#11 then checkRow (true) (.or (fld w 21 5) (fld w 16 5) (fld w 11 5))
  else if fld w 0 11 == 10#11 then checkRow (true) (.xor (fld w 21 5) (fld w 16 5) (fld w 11 5))
  else if fld w 0 11 == 11#11 then checkRow (true) (.andn (fld w 21 5) (fld w 16 5) (fld w 11 5))
  else if fld w 0 11 == 16#11 then checkRow (true) (.shl (fld w 21 5) (fld w 16 5) (fld w 11 5))
  else if fld w 0 11 == 17#11 then checkRow (true) (.shr (fld w 21 5) (fld w 16 5) (fld w 11 5))
  else if fld w 0 11 == 18#11 then checkRow (true) (.sar (fld w 21 5) (fld w 16 5) (fld w 11 5))
  else if fld w 0 11 == 24#11 then checkRow (true) (.slt (fld w 21 5) (fld w 16 5) (fld w 11 5))
  else if fld w 0 11 == 25#11 then checkRow (true) (.sltb (fld w 21 5) (fld w 16 5) (fld w 11 5))
  else if fld w 0 11 == 26#11 then checkRow (true) (.minS64 (fld w 21 5) (fld w 16 5) (fld w 11 5))
  else if fld w 0 11 == 27#11 then checkRow (true) (.minB64 (fld w 21 5) (fld w 16 5) (fld w 11 5))
  else if fld w 0 11 == 28#11 then checkRow (true) (.maxS64 (fld w 21 5) (fld w 16 5) (fld w 11 5))
  else if fld w 0 11 == 29#11 then checkRow (true) (.maxB64 (fld w 21 5) (fld w 16 5) (fld w 11 5))
  else if fld w 2 9 == 8#9 then checkRow (fld w 11 5 == 0#5) (.clz (fld w 21 5) (fld w 16 5) (fld w 0 2))
  else if fld w 2 9 == 9#9 then checkRow (fld w 11 5 == 0#5) (.ffs (fld w 21 5) (fld w 16 5) (fld w 0 2))
  else if fld w 2 9 == 10#9 then checkRow (fld w 11 5 == 0#5) (.popcnt (fld w 21 5) (fld w 16 5) (fld w 0 2))
  else .error .unassignedFunction

/-- Major opcode 0x01 (R52): SEL. -/
def decodeMajor01 (w : Word32) : Except Reject Instr :=
  checkRow (fld w 0 6 == 0#6) (.sel (fld w 21 5) (fld w 16 5) (fld w 11 5) (fld w 6 5))

/-- Major opcode 0x02 (R52): DIV, REM. -/
def decodeMajor02 (w : Word32) : Except Reject Instr :=
  if fld w 1 1 == 0#1 then checkRow (fld w 3 4 == 0#4) (.div (fld w 21 5) (fld w 16 5) (fld w 11 5) (fld w 7 4) (fld w 2 1) (fld w 0 1))
  else if fld w 1 1 == 1#1 then checkRow (fld w 3 4 == 0#4) (.rem (fld w 21 5) (fld w 16 5) (fld w 11 5) (fld w 7 4) (fld w 2 1) (fld w 0 1))
  else .error .unassignedFunction

/-- Major opcode 0x03 (R52): ADDI. -/
def decodeMajor03 (w : Word32) : Except Reject Instr :=
  checkRow (true) (.addi (fld w 21 5) (fld w 16 5) (fld w 0 16))

/-- Major opcode 0x04 (R52): ANDI. -/
def decodeMajor04 (w : Word32) : Except Reject Instr :=
  checkRow (true) (.andi (fld w 21 5) (fld w 16 5) (fld w 0 16))

/-- Major opcode 0x05 (R52): ORI. -/
def decodeMajor05 (w : Word32) : Except Reject Instr :=
  checkRow (true) (.ori (fld w 21 5) (fld w 16 5) (fld w 0 16))

/-- Major opcode 0x06 (R52): XORI. -/
def decodeMajor06 (w : Word32) : Except Reject Instr :=
  checkRow (true) (.xori (fld w 21 5) (fld w 16 5) (fld w 0 16))

/-- Major opcode 0x07 (R52): SLTI. -/
def decodeMajor07 (w : Word32) : Except Reject Instr :=
  checkRow (true) (.slti (fld w 21 5) (fld w 16 5) (fld w 0 16))

/-- Major opcode 0x08 (R52): SLTBI. -/
def decodeMajor08 (w : Word32) : Except Reject Instr :=
  checkRow (true) (.sltbi (fld w 21 5) (fld w 16 5) (fld w 0 16))

/-- Major opcode 0x09 (R52): LDHI. -/
def decodeMajor09 (w : Word32) : Except Reject Instr :=
  checkRow (true) (.ldhi (fld w 21 5) (fld w 16 5) (fld w 0 16))

/-- Major opcode 0x0A (R52): SHLI, SHRI, SARI. -/
def decodeMajor0A (w : Word32) : Except Reject Instr :=
  if fld w 6 2 == 0#2 then checkRow (fld w 8 8 == 0#8) (.shli (fld w 21 5) (fld w 16 5) (fld w 0 6))
  else if fld w 6 2 == 1#2 then checkRow (fld w 8 8 == 0#8) (.shri (fld w 21 5) (fld w 16 5) (fld w 0 6))
  else if fld w 6 2 == 2#2 then checkRow (fld w 8 8 == 0#8) (.sari (fld w 21 5) (fld w 16 5) (fld w 0 6))
  else .error .unassignedFunction

/-- Major opcode 0x0F (R52): FENCE, FENCE_R, FENCE_A, FENCE_AR. -/
def decodeMajor0F (w : Word32) : Except Reject Instr :=
  if fld w 0 11 == 0#11 then checkRow (fld w 11 15 == 0#15) (.fence)
  else if fld w 0 11 == 1#11 then checkRow (fld w 21 5 == 0#5 && fld w 11 5 == 0#5) (.fenceR (fld w 16 5))
  else if fld w 0 11 == 2#11 then checkRow (fld w 21 5 == 0#5 && fld w 11 5 == 0#5) (.fenceA (fld w 16 5))
  else if fld w 0 11 == 3#11 then checkRow (fld w 21 5 == 0#5 && fld w 11 5 == 0#5) (.fenceAr (fld w 16 5))
  else .error .unassignedFunction

/-- Major opcode 0x10 (R52): LD_B8. -/
def decodeMajor10 (w : Word32) : Except Reject Instr :=
  checkRow (true) (.ldB8 (fld w 21 5) (fld w 16 5) (fld w 12 4) (fld w 0 12))

/-- Major opcode 0x11 (R52): LD_S8. -/
def decodeMajor11 (w : Word32) : Except Reject Instr :=
  checkRow (true) (.ldS8 (fld w 21 5) (fld w 16 5) (fld w 12 4) (fld w 0 12))

/-- Major opcode 0x12 (R52): LD_B16. -/
def decodeMajor12 (w : Word32) : Except Reject Instr :=
  checkRow (true) (.ldB16 (fld w 21 5) (fld w 16 5) (fld w 12 4) (fld w 0 12))

/-- Major opcode 0x13 (R52): LD_S16. -/
def decodeMajor13 (w : Word32) : Except Reject Instr :=
  checkRow (true) (.ldS16 (fld w 21 5) (fld w 16 5) (fld w 12 4) (fld w 0 12))

/-- Major opcode 0x14 (R52): LD_B32. -/
def decodeMajor14 (w : Word32) : Except Reject Instr :=
  checkRow (true) (.ldB32 (fld w 21 5) (fld w 16 5) (fld w 12 4) (fld w 0 12))

/-- Major opcode 0x15 (R52): LD_S32. -/
def decodeMajor15 (w : Word32) : Except Reject Instr :=
  checkRow (true) (.ldS32 (fld w 21 5) (fld w 16 5) (fld w 12 4) (fld w 0 12))

/-- Major opcode 0x16 (R52): LD_D. -/
def decodeMajor16 (w : Word32) : Except Reject Instr :=
  checkRow (true) (.ldD (fld w 21 5) (fld w 16 5) (fld w 12 4) (fld w 0 12))

/-- Major opcode 0x17 (R52): ST, AMOADD, AMOSWAP, AMOCAS, AMOMIN_S, AMOMIN_B, AMOMAX_S, AMOMAX_B. -/
def decodeMajor17 (w : Word32) : Except Reject Instr :=
  if fld w 12 2 == 0#2 then checkRow (true) (.st (fld w 21 5) (fld w 16 5) (fld w 14 2) (fld w 0 12))
  else if fld w 15 1 == 1#1 && fld w 8 6 == 16#6 then checkRow (fld w 0 3 == 0#3) (.amoadd (fld w 21 5) (fld w 16 5) (fld w 14 1) (fld w 3 5))
  else if fld w 15 1 == 1#1 && fld w 8 6 == 17#6 then checkRow (fld w 0 3 == 0#3) (.amoswap (fld w 21 5) (fld w 16 5) (fld w 14 1) (fld w 3 5))
  else if fld w 15 1 == 1#1 && fld w 8 6 == 18#6 then checkRow (fld w 0 3 == 0#3) (.amocas (fld w 21 5) (fld w 16 5) (fld w 14 1) (fld w 3 5))
  else if fld w 15 1 == 1#1 && fld w 8 6 == 19#6 then checkRow (fld w 0 3 == 0#3) (.amominS (fld w 21 5) (fld w 16 5) (fld w 14 1) (fld w 3 5))
  else if fld w 15 1 == 1#1 && fld w 8 6 == 20#6 then checkRow (fld w 0 3 == 0#3) (.amominB (fld w 21 5) (fld w 16 5) (fld w 14 1) (fld w 3 5))
  else if fld w 15 1 == 1#1 && fld w 8 6 == 21#6 then checkRow (fld w 0 3 == 0#3) (.amomaxS (fld w 21 5) (fld w 16 5) (fld w 14 1) (fld w 3 5))
  else if fld w 15 1 == 1#1 && fld w 8 6 == 22#6 then checkRow (fld w 0 3 == 0#3) (.amomaxB (fld w 21 5) (fld w 16 5) (fld w 14 1) (fld w 3 5))
  else .error .unassignedFunction

/-- Major opcode 0x18 (R52): BEQ. -/
def decodeMajor18 (w : Word32) : Except Reject Instr :=
  checkRow (true) (.beq (fld w 21 5) (fld w 16 5) (fld w 0 16))

/-- Major opcode 0x19 (R52): BNE. -/
def decodeMajor19 (w : Word32) : Except Reject Instr :=
  checkRow (true) (.bne (fld w 21 5) (fld w 16 5) (fld w 0 16))

/-- Major opcode 0x1A (R52): BLT. -/
def decodeMajor1A (w : Word32) : Except Reject Instr :=
  checkRow (true) (.blt (fld w 21 5) (fld w 16 5) (fld w 0 16))

/-- Major opcode 0x1B (R52): BGE. -/
def decodeMajor1B (w : Word32) : Except Reject Instr :=
  checkRow (true) (.bge (fld w 21 5) (fld w 16 5) (fld w 0 16))

/-- Major opcode 0x1C (R52): BLTB. -/
def decodeMajor1C (w : Word32) : Except Reject Instr :=
  checkRow (true) (.bltb (fld w 21 5) (fld w 16 5) (fld w 0 16))

/-- Major opcode 0x1D (R52): BGEB. -/
def decodeMajor1D (w : Word32) : Except Reject Instr :=
  checkRow (true) (.bgeb (fld w 21 5) (fld w 16 5) (fld w 0 16))

/-- Major opcode 0x1E (R52): JAL. -/
def decodeMajor1E (w : Word32) : Except Reject Instr :=
  checkRow (true) (.jal (fld w 0 26))

/-- Major opcode 0x1F (R52): JR, LOOP. -/
def decodeMajor1F (w : Word32) : Except Reject Instr :=
  if fld w 8 3 == 0#3 then checkRow (fld w 11 5 == 0#5 && fld w 0 8 == 0#8) (.jr (fld w 21 5) (fld w 16 5))
  else if fld w 8 3 == 1#3 then checkRow (fld w 23 3 == 0#3 && fld w 11 5 == 0#5) (.loop (fld w 21 2) (fld w 16 5) (fld w 0 8))
  else .error .unassignedFunction

/-- Major opcode 0x20 (R52): VLD. -/
def decodeMajor20 (w : Word32) : Except Reject Instr :=
  checkRow (true) (.vld (fld w 20 6) (fld w 14 6) (fld w 8 6) (fld w 5 3) (fld w 4 1) (fld w 0 4))

/-- Major opcode 0x21 (R52): VST. -/
def decodeMajor21 (w : Word32) : Except Reject Instr :=
  checkRow (fld w 0 5 == 0#5) (.vst (fld w 20 6) (fld w 14 6) (fld w 8 6) (fld w 5 3))

/-- Major opcode 0x22 (R52): VLDS. -/
def decodeMajor22 (w : Word32) : Except Reject Instr :=
  checkRow (true) (.vlds (fld w 20 6) (fld w 14 6) (fld w 8 6) (fld w 5 3) (fld w 4 1) (fld w 2 2) (fld w 0 2))

/-- Major opcode 0x23 (R52): VGATH. -/
def decodeMajor23 (w : Word32) : Except Reject Instr :=
  checkRow (true) (.vgath (fld w 20 6) (fld w 14 6) (fld w 8 6) (fld w 5 3) (fld w 4 1) (fld w 2 2) (fld w 0 2))

/-- Major opcode 0x24 (R52): VSCAT. -/
def decodeMajor24 (w : Word32) : Except Reject Instr :=
  checkRow (fld w 4 1 == 0#1 && fld w 0 2 == 0#2) (.vscat (fld w 20 6) (fld w 14 6) (fld w 8 6) (fld w 5 3) (fld w 2 2))

/-- Major opcode 0x25 (R52): VADD_INT, VSUB_INT, VMUL_INT, VNEG_INT. -/
def decodeMajor25 (w : Word32) : Except Reject Instr :=
  if fld w 2 2 == 0#2 then checkRow (true) (.vaddInt (fld w 20 6) (fld w 14 6) (fld w 8 6) (fld w 5 3) (fld w 4 1) (fld w 0 2))
  else if fld w 2 2 == 1#2 then checkRow (true) (.vsubInt (fld w 20 6) (fld w 14 6) (fld w 8 6) (fld w 5 3) (fld w 4 1) (fld w 0 2))
  else if fld w 2 2 == 2#2 then checkRow (true) (.vmulInt (fld w 20 6) (fld w 14 6) (fld w 8 6) (fld w 5 3) (fld w 4 1) (fld w 0 2))
  else if fld w 2 2 == 3#2 then checkRow (fld w 8 6 == 0#6) (.vnegInt (fld w 20 6) (fld w 14 6) (fld w 5 3) (fld w 4 1) (fld w 0 2))
  else .error .unassignedFunction

/-- Major opcode 0x26 (R52): VMIN_S, VMIN_B, VMAX_S, VMAX_B. -/
def decodeMajor26 (w : Word32) : Except Reject Instr :=
  if fld w 2 2 == 0#2 then checkRow (true) (.vminS (fld w 20 6) (fld w 14 6) (fld w 8 6) (fld w 5 3) (fld w 4 1) (fld w 0 2))
  else if fld w 2 2 == 1#2 then checkRow (true) (.vminB (fld w 20 6) (fld w 14 6) (fld w 8 6) (fld w 5 3) (fld w 4 1) (fld w 0 2))
  else if fld w 2 2 == 2#2 then checkRow (true) (.vmaxS (fld w 20 6) (fld w 14 6) (fld w 8 6) (fld w 5 3) (fld w 4 1) (fld w 0 2))
  else if fld w 2 2 == 3#2 then checkRow (true) (.vmaxB (fld w 20 6) (fld w 14 6) (fld w 8 6) (fld w 5 3) (fld w 4 1) (fld w 0 2))
  else .error .unassignedFunction

/-- Major opcode 0x27 (R52): VABS_INT, VSHL, VSHR, VSAR. -/
def decodeMajor27 (w : Word32) : Except Reject Instr :=
  if fld w 2 2 == 0#2 then checkRow (fld w 8 6 == 0#6) (.vabsInt (fld w 20 6) (fld w 14 6) (fld w 5 3) (fld w 4 1) (fld w 0 2))
  else if fld w 2 2 == 1#2 then checkRow (true) (.vshl (fld w 20 6) (fld w 14 6) (fld w 8 6) (fld w 5 3) (fld w 4 1) (fld w 0 2))
  else if fld w 2 2 == 2#2 then checkRow (true) (.vshr (fld w 20 6) (fld w 14 6) (fld w 8 6) (fld w 5 3) (fld w 4 1) (fld w 0 2))
  else if fld w 2 2 == 3#2 then checkRow (true) (.vsar (fld w 20 6) (fld w 14 6) (fld w 8 6) (fld w 5 3) (fld w 4 1) (fld w 0 2))
  else .error .unassignedFunction

/-- Major opcode 0x28 (R52): VCLZ, VFFS, VPOP, VAND, VOR, VXOR, VANDN. -/
def decodeMajor28 (w : Word32) : Except Reject Instr :=
  if fld w 2 2 == 0#2 then checkRow (fld w 8 6 == 0#6) (.vclz (fld w 20 6) (fld w 14 6) (fld w 5 3) (fld w 4 1) (fld w 0 2))
  else if fld w 2 2 == 1#2 then checkRow (fld w 8 6 == 0#6) (.vffs (fld w 20 6) (fld w 14 6) (fld w 5 3) (fld w 4 1) (fld w 0 2))
  else if fld w 2 2 == 2#2 then checkRow (fld w 8 6 == 0#6) (.vpop (fld w 20 6) (fld w 14 6) (fld w 5 3) (fld w 4 1) (fld w 0 2))
  else if fld w 0 4 == 12#4 then checkRow (true) (.vand (fld w 20 6) (fld w 14 6) (fld w 8 6) (fld w 5 3) (fld w 4 1))
  else if fld w 0 4 == 13#4 then checkRow (true) (.vor (fld w 20 6) (fld w 14 6) (fld w 8 6) (fld w 5 3) (fld w 4 1))
  else if fld w 0 4 == 14#4 then checkRow (true) (.vxor (fld w 20 6) (fld w 14 6) (fld w 8 6) (fld w 5 3) (fld w 4 1))
  else if fld w 0 4 == 15#4 then checkRow (true) (.vandn (fld w 20 6) (fld w 14 6) (fld w 8 6) (fld w 5 3) (fld w 4 1))
  else .error .unassignedFunction

/-- Major opcode 0x29 (R52): VADD_F, VSUB_F, VMUL_F, VFMA. -/
def decodeMajor29 (w : Word32) : Except Reject Instr :=
  if fld w 2 2 == 0#2 then checkRow (true) (.vaddF (fld w 20 6) (fld w 14 6) (fld w 8 6) (fld w 5 3) (fld w 4 1) (fld w 0 2))
  else if fld w 2 2 == 1#2 then checkRow (true) (.vsubF (fld w 20 6) (fld w 14 6) (fld w 8 6) (fld w 5 3) (fld w 4 1) (fld w 0 2))
  else if fld w 2 2 == 2#2 then checkRow (true) (.vmulF (fld w 20 6) (fld w 14 6) (fld w 8 6) (fld w 5 3) (fld w 4 1) (fld w 0 2))
  else if fld w 2 2 == 3#2 then checkRow (true) (.vfma (fld w 20 6) (fld w 14 6) (fld w 8 6) (fld w 5 3) (fld w 4 1) (fld w 0 2))
  else .error .unassignedFunction

/-- Major opcode 0x2A (R52): VMIN_F, VMAX_F, VABS_F, VNEG_F. -/
def decodeMajor2A (w : Word32) : Except Reject Instr :=
  if fld w 2 2 == 0#2 then checkRow (true) (.vminF (fld w 20 6) (fld w 14 6) (fld w 8 6) (fld w 5 3) (fld w 4 1) (fld w 0 2))
  else if fld w 2 2 == 1#2 then checkRow (true) (.vmaxF (fld w 20 6) (fld w 14 6) (fld w 8 6) (fld w 5 3) (fld w 4 1) (fld w 0 2))
  else if fld w 2 2 == 2#2 then checkRow (fld w 8 6 == 0#6) (.vabsF (fld w 20 6) (fld w 14 6) (fld w 5 3) (fld w 4 1) (fld w 0 2))
  else if fld w 2 2 == 3#2 then checkRow (fld w 8 6 == 0#6) (.vnegF (fld w 20 6) (fld w 14 6) (fld w 5 3) (fld w 4 1) (fld w 0 2))
  else .error .unassignedFunction

/-- Major opcode 0x2B (R52): VCMP_S, VCMP_B, VCMP_F, VSEL. -/
def decodeMajor2B (w : Word32) : Except Reject Instr :=
  if fld w 2 2 == 0#2 then checkRow (true) (.vcmpS (fld w 23 3) (fld w 20 3) (fld w 14 6) (fld w 8 6) (fld w 5 3) (fld w 4 1) (fld w 0 2))
  else if fld w 2 2 == 1#2 then checkRow (true) (.vcmpB (fld w 23 3) (fld w 20 3) (fld w 14 6) (fld w 8 6) (fld w 5 3) (fld w 4 1) (fld w 0 2))
  else if fld w 2 2 == 2#2 then checkRow (true) (.vcmpF (fld w 23 3) (fld w 20 3) (fld w 14 6) (fld w 8 6) (fld w 5 3) (fld w 4 1) (fld w 0 2))
  else if fld w 2 2 == 3#2 then checkRow (fld w 4 1 == 0#1 && fld w 0 2 == 0#2) (.vsel (fld w 20 6) (fld w 14 6) (fld w 8 6) (fld w 5 3))
  else .error .unassignedFunction

/-- Major opcode 0x2C (R52): VEXP2, VLOG2, VRCP, VRSQ, VTANH, VGELU. -/
def decodeMajor2C (w : Word32) : Except Reject Instr :=
  if fld w 1 3 == 0#3 then checkRow (fld w 0 1 == 0#1) (.vexp2 (fld w 20 6) (fld w 14 6) (fld w 10 4) (fld w 8 2) (fld w 5 3) (fld w 4 1))
  else if fld w 1 3 == 1#3 then checkRow (fld w 0 1 == 0#1) (.vlog2 (fld w 20 6) (fld w 14 6) (fld w 10 4) (fld w 8 2) (fld w 5 3) (fld w 4 1))
  else if fld w 1 3 == 2#3 then checkRow (fld w 0 1 == 0#1) (.vrcp (fld w 20 6) (fld w 14 6) (fld w 10 4) (fld w 8 2) (fld w 5 3) (fld w 4 1))
  else if fld w 1 3 == 3#3 then checkRow (fld w 0 1 == 0#1) (.vrsq (fld w 20 6) (fld w 14 6) (fld w 10 4) (fld w 8 2) (fld w 5 3) (fld w 4 1))
  else if fld w 1 3 == 4#3 then checkRow (fld w 0 1 == 0#1) (.vtanh (fld w 20 6) (fld w 14 6) (fld w 10 4) (fld w 8 2) (fld w 5 3) (fld w 4 1))
  else if fld w 1 3 == 5#3 then checkRow (fld w 0 1 == 0#1) (.vgelu (fld w 20 6) (fld w 14 6) (fld w 10 4) (fld w 8 2) (fld w 5 3) (fld w 4 1))
  else .error .unassignedFunction

/-- Major opcode 0x2D (R52): VDIV_S, VDIV_B, VREM_S, VREM_B. -/
def decodeMajor2D (w : Word32) : Except Reject Instr :=
  if fld w 2 2 == 0#2 then checkRow (fld w 0 2 == 0#2) (.vdivS (fld w 20 6) (fld w 14 6) (fld w 10 4) (fld w 8 2) (fld w 5 3) (fld w 4 1))
  else if fld w 2 2 == 1#2 then checkRow (fld w 0 2 == 0#2) (.vdivB (fld w 20 6) (fld w 14 6) (fld w 10 4) (fld w 8 2) (fld w 5 3) (fld w 4 1))
  else if fld w 2 2 == 2#2 then checkRow (fld w 0 2 == 0#2) (.vremS (fld w 20 6) (fld w 14 6) (fld w 10 4) (fld w 8 2) (fld w 5 3) (fld w 4 1))
  else if fld w 2 2 == 3#2 then checkRow (fld w 0 2 == 0#2) (.vremB (fld w 20 6) (fld w 14 6) (fld w 10 4) (fld w 8 2) (fld w 5 3) (fld w 4 1))
  else .error .unassignedFunction

/-- Major opcode 0x2E (R52): VCVT, VPACK, VUNPACK, VDOT. -/
def decodeMajor2E (w : Word32) : Except Reject Instr :=
  if fld w 2 2 == 0#2 then checkRow (true) (.vcvt (fld w 20 6) (fld w 14 6) (fld w 10 4) (fld w 8 2) (fld w 5 3) (fld w 4 1) (fld w 0 2))
  else if fld w 2 2 == 1#2 then checkRow (fld w 4 10 == 0#10) (.vpack (fld w 20 6) (fld w 14 6) (fld w 0 2))
  else if fld w 2 2 == 2#2 then checkRow (fld w 4 10 == 0#10) (.vunpack (fld w 20 6) (fld w 14 6) (fld w 0 2))
  else if fld w 2 2 == 3#2 then checkRow (true) (.vdot (fld w 20 6) (fld w 14 6) (fld w 8 6) (fld w 5 3) (fld w 4 1) (fld w 0 2))
  else .error .unassignedFunction

/-- Major opcode 0x2F (R52): VPERM, VRED, VMATCH_B32, VMATCH_B64, VHAAR_F, VHAAR_F_L, VHAAR_I, VHAAR_I_L, VSCA, VTAG, VBCAST, VEXT, VWHILE, VLQ. -/
def decodeMajor2F (w : Word32) : Except Reject Instr :=
  if fld w 2 3 == 0#3 then checkRow (true) (.vperm (fld w 20 6) (fld w 14 6) (fld w 8 6) (fld w 5 3) (fld w 0 2))
  else if fld w 0 5 == 4#5 then checkRow (fld w 10 1 == 0#1) (.vred (fld w 20 6) (fld w 14 6) (fld w 11 3) (fld w 8 2) (fld w 5 3))
  else if fld w 0 5 == 5#5 then checkRow (fld w 8 6 == 0#6) (.vmatchB32 (fld w 20 6) (fld w 14 6) (fld w 5 3))
  else if fld w 0 5 == 6#5 then checkRow (fld w 8 6 == 0#6) (.vmatchB64 (fld w 20 6) (fld w 14 6) (fld w 5 3))
  else if fld w 0 5 == 8#5 then checkRow (true) (.vhaarF (fld w 20 6) (fld w 14 6) (fld w 8 6) (fld w 5 3))
  else if fld w 0 5 == 9#5 then checkRow (fld w 11 3 == 0#3 && fld w 5 3 == 0#3) (.vhaarFL (fld w 20 6) (fld w 14 6) (fld w 8 3))
  else if fld w 0 5 == 10#5 then checkRow (true) (.vhaarI (fld w 20 6) (fld w 14 6) (fld w 8 6) (fld w 5 3))
  else if fld w 0 5 == 11#5 then checkRow (fld w 11 3 == 0#3 && fld w 5 3 == 0#3) (.vhaarIL (fld w 20 6) (fld w 14 6) (fld w 8 3))
  else if fld w 0 5 == 12#5 then checkRow (true) (.vsca (fld w 20 6) (fld w 14 6) (fld w 8 6) (fld w 5 3))
  else if fld w 0 5 == 13#5 then checkRow (fld w 10 4 == 0#4 && fld w 5 3 == 0#3) (.vtag (fld w 20 6) (fld w 14 6) (fld w 8 2))
  else if fld w 0 5 == 14#5 then checkRow (fld w 10 4 == 0#4) (.vbcast (fld w 20 6) (fld w 14 6) (fld w 8 2) (fld w 5 3))
  else if fld w 0 5 == 15#5 then checkRow (fld w 10 4 == 0#4 && fld w 5 3 == 0#3) (.vext (fld w 20 6) (fld w 14 6) (fld w 8 2))
  else if fld w 2 3 == 4#3 then checkRow (fld w 23 3 == 0#3 && fld w 5 3 == 0#3) (.vwhile (fld w 20 3) (fld w 14 6) (fld w 8 6) (fld w 0 2))
  else if fld w 0 5 == 20#5 then checkRow (fld w 5 15 == 0#15) (.vlq (fld w 20 6))
  else .error .unassignedFunction

/-- Major opcode 0x30 (R52): MMA. -/
def decodeMajor30 (w : Word32) : Except Reject Instr :=
  checkRow (true) (.mma (fld w 22 4) (fld w 20 2) (fld w 15 5) (fld w 10 5) (fld w 9 1) (fld w 8 1) (fld w 4 4) (fld w 0 4))

/-- Major opcode 0x31 (R52): MMAZ. -/
def decodeMajor31 (w : Word32) : Except Reject Instr :=
  checkRow (true) (.mmaz (fld w 22 4) (fld w 20 2) (fld w 15 5) (fld w 10 5) (fld w 9 1) (fld w 8 1) (fld w 4 4) (fld w 0 4))

/-- Major opcode 0x32 (R52): MSCA. -/
def decodeMajor32 (w : Word32) : Except Reject Instr :=
  checkRow (fld w 2 6 == 0#6) (.msca (fld w 22 4) (fld w 20 2) (fld w 15 5) (fld w 10 5) (fld w 8 2) (fld w 0 2))

/-- Major opcode 0x33 (R52): MDRAIN. -/
def decodeMajor33 (w : Word32) : Except Reject Instr :=
  checkRow (fld w 1 9 == 0#9) (.mdrain (fld w 22 4) (fld w 20 2) (fld w 15 5) (fld w 10 5) (fld w 0 1))

/-- Major opcode 0x34 (R52): MLDACC. -/
def decodeMajor34 (w : Word32) : Except Reject Instr :=
  checkRow (fld w 0 15 == 0#15) (.mldacc (fld w 22 4) (fld w 20 2) (fld w 15 5))

/-- Major opcode 0x35 (R52): MZERO, MMOVV_TO_V, MMOVV_TO_ACC, MTAG, CBLOAD. -/
def decodeMajor35 (w : Word32) : Except Reject Instr :=
  if fld w 8 2 == 0#2 then checkRow (fld w 10 10 == 0#10 && fld w 0 8 == 0#8) (.mzero (fld w 22 4) (fld w 20 2))
  else if fld w 7 3 == 2#3 then checkRow (fld w 0 7 == 0#7) (.mmovvToV (fld w 22 4) (fld w 20 2) (fld w 15 5) (fld w 10 5))
  else if fld w 7 3 == 3#3 then checkRow (fld w 0 7 == 0#7) (.mmovvToAcc (fld w 22 4) (fld w 20 2) (fld w 15 5) (fld w 10 5))
  else if fld w 8 2 == 2#2 then checkRow (fld w 10 5 == 0#5 && fld w 0 8 == 0#8) (.mtag (fld w 22 4) (fld w 20 2) (fld w 15 5))
  else if fld w 8 2 == 3#2 then checkRow (fld w 20 2 == 0#2 && fld w 10 5 == 0#5 && fld w 3 4 == 0#4) (.cbload (fld w 22 4) (fld w 15 5) (fld w 7 1) (fld w 0 3))
  else .error .unassignedFunction

/-- Major opcode 0x36 (R52): CPY, CPYV, FILL, SBIND, SUNBIND. -/
def decodeMajor36 (w : Word32) : Except Reject Instr :=
  if fld w 0 7 == 0#7 then checkRow (true) (.cpy (fld w 22 4) (fld w 17 5) (fld w 12 5) (fld w 7 5))
  else if fld w 0 7 == 1#7 then checkRow (fld w 7 5 == 0#5) (.cpyv (fld w 22 4) (fld w 17 5) (fld w 12 5))
  else if fld w 0 7 == 2#7 then checkRow (true) (.fill (fld w 22 4) (fld w 17 5) (fld w 12 5) (fld w 7 5))
  else if fld w 0 7 == 3#7 then checkRow (fld w 19 3 == 0#3 && fld w 7 5 == 0#5) (.sbind (fld w 22 4) (fld w 17 2) (fld w 12 5))
  else if fld w 0 7 == 4#7 then checkRow (fld w 19 7 == 0#7 && fld w 7 10 == 0#10) (.sunbind (fld w 17 2))
  else .error .unassignedFunction

/-- Major opcode 0x37 (R52): XPUT, XGET. -/
def decodeMajor37 (w : Word32) : Except Reject Instr :=
  if fld w 0 5 == 0#5 then checkRow (true) (.xput (fld w 22 4) (fld w 17 5) (fld w 12 5) (fld w 7 5) (fld w 5 2))
  else if fld w 0 5 == 1#5 then checkRow (true) (.xget (fld w 22 4) (fld w 17 5) (fld w 12 5) (fld w 7 5) (fld w 5 2))
  else .error .unassignedFunction

/-- Major opcode 0x38 (R52): XADD, XMIN, XMAX, XCAS. -/
def decodeMajor38 (w : Word32) : Except Reject Instr :=
  if fld w 2 3 == 0#3 then checkRow (true) (.xadd (fld w 22 4) (fld w 17 5) (fld w 12 5) (fld w 7 5) (fld w 5 2) (fld w 0 2))
  else if fld w 2 3 == 1#3 then checkRow (true) (.xmin (fld w 22 4) (fld w 17 5) (fld w 12 5) (fld w 7 5) (fld w 5 2) (fld w 0 2))
  else if fld w 2 3 == 2#3 then checkRow (true) (.xmax (fld w 22 4) (fld w 17 5) (fld w 12 5) (fld w 7 5) (fld w 5 2) (fld w 0 2))
  else if fld w 2 3 == 3#3 then checkRow (true) (.xcas (fld w 22 4) (fld w 17 5) (fld w 12 5) (fld w 7 5) (fld w 5 2) (fld w 0 2))
  else .error .unassignedFunction

/-- Major opcode 0x39 (R52): XFLAG, XTASK. -/
def decodeMajor39 (w : Word32) : Except Reject Instr :=
  if fld w 0 5 == 0#5 then checkRow (fld w 5 2 == 0#2) (.xflag (fld w 22 4) (fld w 17 5) (fld w 12 5) (fld w 7 5))
  else if fld w 0 5 == 1#5 then checkRow (fld w 5 2 == 0#2) (.xtask (fld w 22 4) (fld w 17 5) (fld w 12 5) (fld w 7 5))
  else .error .unassignedFunction

/-- Major opcode 0x3A (R52): XEXPECT, XWAIT. -/
def decodeMajor3A (w : Word32) : Except Reject Instr :=
  if fld w 0 3 == 0#3 then checkRow (fld w 17 9 == 0#9 && fld w 7 5 == 0#5) (.xexpect (fld w 12 5) (fld w 3 4))
  else if fld w 0 3 == 1#3 then checkRow (fld w 7 19 == 0#19) (.xwait (fld w 3 4))
  else .error .unassignedFunction

/-- Major opcode 0x3C (R52): GETS, SETS, CALLSV, RETT, HALT, HSTART, HEXIT, GRID, GNEXT, GRAISE, GKILL, STEP_X, STEP_C, PHREG, PHDROP, PHSIG, PHWAIT, PHNEXT, QPUSH, QPOP, SDRAIN, TLBINV_VA, TLBINV_ASID, TLBINV_PART, TLBRETIRE, CAPMINT. -/
def decodeMajor3C (w : Word32) : Except Reject Instr :=
  if fld w 0 5 == 0#5 then checkRow (fld w 5 4 == 0#4) (.gets (fld w 21 5) (fld w 9 12))
  else if fld w 0 5 == 1#5 then checkRow (fld w 5 4 == 0#4) (.sets (fld w 21 5) (fld w 9 12))
  else if fld w 0 5 == 2#5 then checkRow (fld w 21 5 == 0#5) (.callsv (fld w 5 16))
  else if fld w 0 5 == 3#5 then checkRow (fld w 5 21 == 0#21) (.rett)
  else if fld w 0 5 == 4#5 then checkRow (fld w 5 21 == 0#21) (.halt)
  else if fld w 0 5 == 5#5 then checkRow (fld w 5 6 == 0#6) (.hstart (fld w 21 5) (fld w 16 5) (fld w 11 5))
  else if fld w 0 5 == 6#5 then checkRow (fld w 5 21 == 0#21) (.hexit)
  else if fld w 0 5 == 7#5 then checkRow (fld w 21 5 == 0#5 && fld w 5 11 == 0#11) (.grid (fld w 16 5))
  else if fld w 0 5 == 8#5 then checkRow (fld w 5 16 == 0#16) (.gnext (fld w 21 5))
  else if fld w 0 5 == 9#5 then checkRow (fld w 5 11 == 0#11) (.graise (fld w 21 5) (fld w 16 5))
  else if fld w 0 5 == 10#5 then checkRow (fld w 5 21 == 0#21) (.gkill)
  else if fld w 0 5 == 11#5 then checkRow (fld w 5 21 == 0#21) (.stepX)
  else if fld w 0 5 == 12#5 then checkRow (fld w 5 21 == 0#21) (.stepC)
  else if fld w 0 5 == 13#5 then checkRow (fld w 16 10 == 0#10 && fld w 7 4 == 0#4) (.phreg (fld w 11 5) (fld w 5 2))
  else if fld w 0 5 == 14#5 then checkRow (fld w 16 10 == 0#10 && fld w 5 6 == 0#6) (.phdrop (fld w 11 5))
  else if fld w 0 5 == 15#5 then checkRow (fld w 16 10 == 0#10 && fld w 5 6 == 0#6) (.phsig (fld w 11 5))
  else if fld w 0 5 == 16#5 then checkRow (fld w 16 10 == 0#10 && fld w 5 6 == 0#6) (.phwait (fld w 11 5))
  else if fld w 0 5 == 17#5 then checkRow (fld w 16 10 == 0#10 && fld w 5 6 == 0#6) (.phnext (fld w 11 5))
  else if fld w 0 5 == 18#5 then checkRow (fld w 21 5 == 0#5 && fld w 8 8 == 0#8) (.qpush (fld w 16 5) (fld w 5 3))
  else if fld w 0 5 == 19#5 then checkRow (fld w 8 13 == 0#13) (.qpop (fld w 21 5) (fld w 5 3))
  else if fld w 0 5 == 20#5 then checkRow (fld w 5 21 == 0#21) (.sdrain)
  else if fld w 0 7 == 21#7 then checkRow (fld w 21 5 == 0#5 && fld w 7 4 == 0#4) (.tlbinvVa (fld w 16 5) (fld w 11 5))
  else if fld w 0 7 == 53#7 then checkRow (fld w 16 10 == 0#10 && fld w 7 4 == 0#4) (.tlbinvAsid (fld w 11 5))
  else if fld w 0 7 == 85#7 then checkRow (fld w 7 19 == 0#19) (.tlbinvPart)
  else if fld w 0 5 == 22#5 then checkRow (fld w 21 5 == 0#5 && fld w 5 11 == 0#11) (.tlbretire (fld w 16 5))
  else if fld w 0 5 == 23#5 then checkRow (fld w 5 11 == 0#11) (.capmint (fld w 21 5) (fld w 16 5))
  else .error .unassignedFunction

/-- Major opcode 0x3D (R52): HINT_IMM, HINT_MOD, HINT_PRI. -/
def decodeMajor3D (w : Word32) : Except Reject Instr :=
  if fld w 22 4 == 0#4 then checkRow (true) (.hintImm (fld w 0 22))
  else if fld w 22 4 == 1#4 then checkRow (fld w 6 16 == 0#16) (.hintMod (fld w 0 6))
  else if fld w 22 4 == 2#4 then checkRow (true) (.hintPri (fld w 16 6) (fld w 4 12) (fld w 0 4))
  else .error .unassignedFunction

/-- The instruction a word stands for, or the first check of R53 it fails. -/
def decodeWord (w : Word32) : Except Reject Instr :=
  if w == 0x00000000#32 || w == 0xFFFFFFFF#32 then .error .blankWord
  else match (w.toNat / 2 ^ 26) with
  | 0 => decodeMajor00 w
  | 1 => decodeMajor01 w
  | 2 => decodeMajor02 w
  | 3 => decodeMajor03 w
  | 4 => decodeMajor04 w
  | 5 => decodeMajor05 w
  | 6 => decodeMajor06 w
  | 7 => decodeMajor07 w
  | 8 => decodeMajor08 w
  | 9 => decodeMajor09 w
  | 10 => decodeMajor0A w
  | 15 => decodeMajor0F w
  | 16 => decodeMajor10 w
  | 17 => decodeMajor11 w
  | 18 => decodeMajor12 w
  | 19 => decodeMajor13 w
  | 20 => decodeMajor14 w
  | 21 => decodeMajor15 w
  | 22 => decodeMajor16 w
  | 23 => decodeMajor17 w
  | 24 => decodeMajor18 w
  | 25 => decodeMajor19 w
  | 26 => decodeMajor1A w
  | 27 => decodeMajor1B w
  | 28 => decodeMajor1C w
  | 29 => decodeMajor1D w
  | 30 => decodeMajor1E w
  | 31 => decodeMajor1F w
  | 32 => decodeMajor20 w
  | 33 => decodeMajor21 w
  | 34 => decodeMajor22 w
  | 35 => decodeMajor23 w
  | 36 => decodeMajor24 w
  | 37 => decodeMajor25 w
  | 38 => decodeMajor26 w
  | 39 => decodeMajor27 w
  | 40 => decodeMajor28 w
  | 41 => decodeMajor29 w
  | 42 => decodeMajor2A w
  | 43 => decodeMajor2B w
  | 44 => decodeMajor2C w
  | 45 => decodeMajor2D w
  | 46 => decodeMajor2E w
  | 47 => decodeMajor2F w
  | 48 => decodeMajor30 w
  | 49 => decodeMajor31 w
  | 50 => decodeMajor32 w
  | 51 => decodeMajor33 w
  | 52 => decodeMajor34 w
  | 53 => decodeMajor35 w
  | 54 => decodeMajor36 w
  | 55 => decodeMajor37 w
  | 56 => decodeMajor38 w
  | 57 => decodeMajor39 w
  | 58 => decodeMajor3A w
  | 60 => decodeMajor3C w
  | 61 => decodeMajor3D w
  | _ => .error .unassignedMajor

/-- The word of four bytes in memory order, little-endian (R14, R38). -/
def wordOfBytes (b0 b1 b2 b3 : Byte) : Word32 := b3 ++ b2 ++ b1 ++ b0

/-- Decoding from bytes in memory order: the instruction and the bytes that follow it. -/
def decodeBytes : List Byte → Except Reject (Instr × List Byte)
  | b0 :: b1 :: b2 :: b3 :: rest =>
    match decodeWord (wordOfBytes b0 b1 b2 b3) with
    | .ok i => .ok (i, rest)
    | .error e => .error e
  | _ => .error .blankWord

/-- The bytes of a word in memory order (R14). -/
def bytesOfWord (w : Word32) : List Byte :=
  [BitVec.ofNat 8 w.toNat, BitVec.ofNat 8 (w.toNat / 2 ^ 8), BitVec.ofNat 8 (w.toNat / 2 ^ 16), BitVec.ofNat 8 (w.toNat / 2 ^ 24)]

/-- The instruction the decoder reads from bits w, with bit 0 the least significant bit of the one word (R38). -/
def decodeTableWord (_nbits w : Nat) : Option Instr :=
  match decodeBytes (bytesOfWord (BitVec.ofNat 32 w)) with
  | .ok (i, _) => some i
  | .error _ => none

/-- The contribution of a field whose lowest bit stands at bit lo. -/
def put {n : Nat} (x : BitVec n) (lo : Nat) : Nat := x.toNat * 2 ^ lo

/-- The word of an encoded instruction, from the match value and fields of its row; an event has no word, and 0 is no
instruction's word (R53). -/
def encode : Instr → Word32
  | .add d a b => BitVec.ofNat 32 (0x00000000 + put d 21 + put a 16 + put b 11)
  | .sub d a b => BitVec.ofNat 32 (0x00000001 + put d 21 + put a 16 + put b 11)
  | .mul d a b => BitVec.ofNat 32 (0x00000002 + put d 21 + put a 16 + put b 11)
  | .mulhS64 d a b => BitVec.ofNat 32 (0x00000003 + put d 21 + put a 16 + put b 11)
  | .mulhB64 d a b => BitVec.ofNat 32 (0x00000004 + put d 21 + put a 16 + put b 11)
  | .and d a b => BitVec.ofNat 32 (0x00000008 + put d 21 + put a 16 + put b 11)
  | .or d a b => BitVec.ofNat 32 (0x00000009 + put d 21 + put a 16 + put b 11)
  | .xor d a b => BitVec.ofNat 32 (0x0000000A + put d 21 + put a 16 + put b 11)
  | .andn d a b => BitVec.ofNat 32 (0x0000000B + put d 21 + put a 16 + put b 11)
  | .shl d a b => BitVec.ofNat 32 (0x00000010 + put d 21 + put a 16 + put b 11)
  | .shr d a b => BitVec.ofNat 32 (0x00000011 + put d 21 + put a 16 + put b 11)
  | .sar d a b => BitVec.ofNat 32 (0x00000012 + put d 21 + put a 16 + put b 11)
  | .slt d a b => BitVec.ofNat 32 (0x00000018 + put d 21 + put a 16 + put b 11)
  | .sltb d a b => BitVec.ofNat 32 (0x00000019 + put d 21 + put a 16 + put b 11)
  | .minS64 d a b => BitVec.ofNat 32 (0x0000001A + put d 21 + put a 16 + put b 11)
  | .minB64 d a b => BitVec.ofNat 32 (0x0000001B + put d 21 + put a 16 + put b 11)
  | .maxS64 d a b => BitVec.ofNat 32 (0x0000001C + put d 21 + put a 16 + put b 11)
  | .maxB64 d a b => BitVec.ofNat 32 (0x0000001D + put d 21 + put a 16 + put b 11)
  | .clz d a w => BitVec.ofNat 32 (0x00000020 + put d 21 + put a 16 + put w 0)
  | .ffs d a w => BitVec.ofNat 32 (0x00000024 + put d 21 + put a 16 + put w 0)
  | .popcnt d a w => BitVec.ofNat 32 (0x00000028 + put d 21 + put a 16 + put w 0)
  | .sel d a b c => BitVec.ofNat 32 (0x04000000 + put d 21 + put a 16 + put b 11 + put c 6)
  | .div d a b l w s => BitVec.ofNat 32 (0x08000000 + put d 21 + put a 16 + put b 11 + put l 7 + put w 2 + put s 0)
  | .rem d a b l w s => BitVec.ofNat 32 (0x08000002 + put d 21 + put a 16 + put b 11 + put l 7 + put w 2 + put s 0)
  | .addi d a i => BitVec.ofNat 32 (0x0C000000 + put d 21 + put a 16 + put i 0)
  | .andi d a i => BitVec.ofNat 32 (0x10000000 + put d 21 + put a 16 + put i 0)
  | .ori d a i => BitVec.ofNat 32 (0x14000000 + put d 21 + put a 16 + put i 0)
  | .xori d a i => BitVec.ofNat 32 (0x18000000 + put d 21 + put a 16 + put i 0)
  | .slti d a i => BitVec.ofNat 32 (0x1C000000 + put d 21 + put a 16 + put i 0)
  | .sltbi d a i => BitVec.ofNat 32 (0x20000000 + put d 21 + put a 16 + put i 0)
  | .ldhi d a i => BitVec.ofNat 32 (0x24000000 + put d 21 + put a 16 + put i 0)
  | .shli d a n => BitVec.ofNat 32 (0x28000000 + put d 21 + put a 16 + put n 0)
  | .shri d a n => BitVec.ofNat 32 (0x28000040 + put d 21 + put a 16 + put n 0)
  | .sari d a n => BitVec.ofNat 32 (0x28000080 + put d 21 + put a 16 + put n 0)
  | .fence => BitVec.ofNat 32 (0x3C000000)
  | .fenceR a => BitVec.ofNat 32 (0x3C000001 + put a 16)
  | .fenceA a => BitVec.ofNat 32 (0x3C000002 + put a 16)
  | .fenceAr a => BitVec.ofNat 32 (0x3C000003 + put a 16)
  | .ldB8 d a l i => BitVec.ofNat 32 (0x40000000 + put d 21 + put a 16 + put l 12 + put i 0)
  | .ldS8 d a l i => BitVec.ofNat 32 (0x44000000 + put d 21 + put a 16 + put l 12 + put i 0)
  | .ldB16 d a l i => BitVec.ofNat 32 (0x48000000 + put d 21 + put a 16 + put l 12 + put i 0)
  | .ldS16 d a l i => BitVec.ofNat 32 (0x4C000000 + put d 21 + put a 16 + put l 12 + put i 0)
  | .ldB32 d a l i => BitVec.ofNat 32 (0x50000000 + put d 21 + put a 16 + put l 12 + put i 0)
  | .ldS32 d a l i => BitVec.ofNat 32 (0x54000000 + put d 21 + put a 16 + put l 12 + put i 0)
  | .ldD d a l i => BitVec.ofNat 32 (0x58000000 + put d 21 + put a 16 + put l 12 + put i 0)
  | .st d a s i => BitVec.ofNat 32 (0x5C000000 + put d 21 + put a 16 + put s 14 + put i 0)
  | .amoadd d a z b => BitVec.ofNat 32 (0x5C009000 + put d 21 + put a 16 + put z 14 + put b 3)
  | .amoswap d a z b => BitVec.ofNat 32 (0x5C009100 + put d 21 + put a 16 + put z 14 + put b 3)
  | .amocas d a z b => BitVec.ofNat 32 (0x5C009200 + put d 21 + put a 16 + put z 14 + put b 3)
  | .amominS d a z b => BitVec.ofNat 32 (0x5C009300 + put d 21 + put a 16 + put z 14 + put b 3)
  | .amominB d a z b => BitVec.ofNat 32 (0x5C009400 + put d 21 + put a 16 + put z 14 + put b 3)
  | .amomaxS d a z b => BitVec.ofNat 32 (0x5C009500 + put d 21 + put a 16 + put z 14 + put b 3)
  | .amomaxB d a z b => BitVec.ofNat 32 (0x5C009600 + put d 21 + put a 16 + put z 14 + put b 3)
  | .beq a b o => BitVec.ofNat 32 (0x60000000 + put a 21 + put b 16 + put o 0)
  | .bne a b o => BitVec.ofNat 32 (0x64000000 + put a 21 + put b 16 + put o 0)
  | .blt a b o => BitVec.ofNat 32 (0x68000000 + put a 21 + put b 16 + put o 0)
  | .bge a b o => BitVec.ofNat 32 (0x6C000000 + put a 21 + put b 16 + put o 0)
  | .bltb a b o => BitVec.ofNat 32 (0x70000000 + put a 21 + put b 16 + put o 0)
  | .bgeb a b o => BitVec.ofNat 32 (0x74000000 + put a 21 + put b 16 + put o 0)
  | .jal o => BitVec.ofNat 32 (0x78000000 + put o 0)
  | .jr d a => BitVec.ofNat 32 (0x7C000000 + put d 21 + put a 16)
  | .loop k a l => BitVec.ofNat 32 (0x7C000100 + put k 21 + put a 16 + put l 0)
  | .vld d a b m z l => BitVec.ofNat 32 (0x80000000 + put d 20 + put a 14 + put b 8 + put m 5 + put z 4 + put l 0)
  | .vst d a b m => BitVec.ofNat 32 (0x84000000 + put d 20 + put a 14 + put b 8 + put m 5)
  | .vlds d a b m z w l => BitVec.ofNat 32 (0x88000000 + put d 20 + put a 14 + put b 8 + put m 5 + put z 4 + put w 2 + put l 0)
  | .vgath d a b m z w l => BitVec.ofNat 32 (0x8C000000 + put d 20 + put a 14 + put b 8 + put m 5 + put z 4 + put w 2 + put l 0)
  | .vscat d a b m w => BitVec.ofNat 32 (0x90000000 + put d 20 + put a 14 + put b 8 + put m 5 + put w 2)
  | .vaddInt d a b m z t => BitVec.ofNat 32 (0x94000000 + put d 20 + put a 14 + put b 8 + put m 5 + put z 4 + put t 0)
  | .vsubInt d a b m z t => BitVec.ofNat 32 (0x94000004 + put d 20 + put a 14 + put b 8 + put m 5 + put z 4 + put t 0)
  | .vmulInt d a b m z t => BitVec.ofNat 32 (0x94000008 + put d 20 + put a 14 + put b 8 + put m 5 + put z 4 + put t 0)
  | .vnegInt d a m z t => BitVec.ofNat 32 (0x9400000C + put d 20 + put a 14 + put m 5 + put z 4 + put t 0)
  | .vminS d a b m z t => BitVec.ofNat 32 (0x98000000 + put d 20 + put a 14 + put b 8 + put m 5 + put z 4 + put t 0)
  | .vminB d a b m z t => BitVec.ofNat 32 (0x98000004 + put d 20 + put a 14 + put b 8 + put m 5 + put z 4 + put t 0)
  | .vmaxS d a b m z t => BitVec.ofNat 32 (0x98000008 + put d 20 + put a 14 + put b 8 + put m 5 + put z 4 + put t 0)
  | .vmaxB d a b m z t => BitVec.ofNat 32 (0x9800000C + put d 20 + put a 14 + put b 8 + put m 5 + put z 4 + put t 0)
  | .vabsInt d a m z t => BitVec.ofNat 32 (0x9C000000 + put d 20 + put a 14 + put m 5 + put z 4 + put t 0)
  | .vshl d a b m z t => BitVec.ofNat 32 (0x9C000004 + put d 20 + put a 14 + put b 8 + put m 5 + put z 4 + put t 0)
  | .vshr d a b m z t => BitVec.ofNat 32 (0x9C000008 + put d 20 + put a 14 + put b 8 + put m 5 + put z 4 + put t 0)
  | .vsar d a b m z t => BitVec.ofNat 32 (0x9C00000C + put d 20 + put a 14 + put b 8 + put m 5 + put z 4 + put t 0)
  | .vclz d a m z t => BitVec.ofNat 32 (0xA0000000 + put d 20 + put a 14 + put m 5 + put z 4 + put t 0)
  | .vffs d a m z t => BitVec.ofNat 32 (0xA0000004 + put d 20 + put a 14 + put m 5 + put z 4 + put t 0)
  | .vpop d a m z t => BitVec.ofNat 32 (0xA0000008 + put d 20 + put a 14 + put m 5 + put z 4 + put t 0)
  | .vand d a b m z => BitVec.ofNat 32 (0xA000000C + put d 20 + put a 14 + put b 8 + put m 5 + put z 4)
  | .vor d a b m z => BitVec.ofNat 32 (0xA000000D + put d 20 + put a 14 + put b 8 + put m 5 + put z 4)
  | .vxor d a b m z => BitVec.ofNat 32 (0xA000000E + put d 20 + put a 14 + put b 8 + put m 5 + put z 4)
  | .vandn d a b m z => BitVec.ofNat 32 (0xA000000F + put d 20 + put a 14 + put b 8 + put m 5 + put z 4)
  | .vdivS d a l t m z => BitVec.ofNat 32 (0xB4000000 + put d 20 + put a 14 + put l 10 + put t 8 + put m 5 + put z 4)
  | .vdivB d a l t m z => BitVec.ofNat 32 (0xB4000004 + put d 20 + put a 14 + put l 10 + put t 8 + put m 5 + put z 4)
  | .vremS d a l t m z => BitVec.ofNat 32 (0xB4000008 + put d 20 + put a 14 + put l 10 + put t 8 + put m 5 + put z 4)
  | .vremB d a l t m z => BitVec.ofNat 32 (0xB400000C + put d 20 + put a 14 + put l 10 + put t 8 + put m 5 + put z 4)
  | .vaddF d a b m z t => BitVec.ofNat 32 (0xA4000000 + put d 20 + put a 14 + put b 8 + put m 5 + put z 4 + put t 0)
  | .vsubF d a b m z t => BitVec.ofNat 32 (0xA4000004 + put d 20 + put a 14 + put b 8 + put m 5 + put z 4 + put t 0)
  | .vmulF d a b m z t => BitVec.ofNat 32 (0xA4000008 + put d 20 + put a 14 + put b 8 + put m 5 + put z 4 + put t 0)
  | .vfma d a b m z t => BitVec.ofNat 32 (0xA400000C + put d 20 + put a 14 + put b 8 + put m 5 + put z 4 + put t 0)
  | .vminF d a b m z t => BitVec.ofNat 32 (0xA8000000 + put d 20 + put a 14 + put b 8 + put m 5 + put z 4 + put t 0)
  | .vmaxF d a b m z t => BitVec.ofNat 32 (0xA8000004 + put d 20 + put a 14 + put b 8 + put m 5 + put z 4 + put t 0)
  | .vabsF d a m z t => BitVec.ofNat 32 (0xA8000008 + put d 20 + put a 14 + put m 5 + put z 4 + put t 0)
  | .vnegF d a m z t => BitVec.ofNat 32 (0xA800000C + put d 20 + put a 14 + put m 5 + put z 4 + put t 0)
  | .vcmpS c p a b m z t => BitVec.ofNat 32 (0xAC000000 + put c 23 + put p 20 + put a 14 + put b 8 + put m 5 + put z 4 + put t 0)
  | .vcmpB c p a b m z t => BitVec.ofNat 32 (0xAC000004 + put c 23 + put p 20 + put a 14 + put b 8 + put m 5 + put z 4 + put t 0)
  | .vcmpF c p a b m z t => BitVec.ofNat 32 (0xAC000008 + put c 23 + put p 20 + put a 14 + put b 8 + put m 5 + put z 4 + put t 0)
  | .vsel d a b m => BitVec.ofNat 32 (0xAC00000C + put d 20 + put a 14 + put b 8 + put m 5)
  | .vexp2 d a l t m z => BitVec.ofNat 32 (0xB0000000 + put d 20 + put a 14 + put l 10 + put t 8 + put m 5 + put z 4)
  | .vlog2 d a l t m z => BitVec.ofNat 32 (0xB0000002 + put d 20 + put a 14 + put l 10 + put t 8 + put m 5 + put z 4)
  | .vrcp d a l t m z => BitVec.ofNat 32 (0xB0000004 + put d 20 + put a 14 + put l 10 + put t 8 + put m 5 + put z 4)
  | .vrsq d a l t m z => BitVec.ofNat 32 (0xB0000006 + put d 20 + put a 14 + put l 10 + put t 8 + put m 5 + put z 4)
  | .vtanh d a l t m z => BitVec.ofNat 32 (0xB0000008 + put d 20 + put a 14 + put l 10 + put t 8 + put m 5 + put z 4)
  | .vgelu d a l t m z => BitVec.ofNat 32 (0xB000000A + put d 20 + put a 14 + put l 10 + put t 8 + put m 5 + put z 4)
  | .vcvt d a e s m z u => BitVec.ofNat 32 (0xB8000000 + put d 20 + put a 14 + put e 10 + put s 8 + put m 5 + put z 4 + put u 0)
  | .vpack d a f => BitVec.ofNat 32 (0xB8000004 + put d 20 + put a 14 + put f 0)
  | .vunpack d a f => BitVec.ofNat 32 (0xB8000008 + put d 20 + put a 14 + put f 0)
  | .vdot d a b m z f => BitVec.ofNat 32 (0xB800000C + put d 20 + put a 14 + put b 8 + put m 5 + put z 4 + put f 0)
  | .vperm d a b m w => BitVec.ofNat 32 (0xBC000000 + put d 20 + put a 14 + put b 8 + put m 5 + put w 0)
  | .vred d a o t m => BitVec.ofNat 32 (0xBC000004 + put d 20 + put a 14 + put o 11 + put t 8 + put m 5)
  | .vmatchB32 d a m => BitVec.ofNat 32 (0xBC000005 + put d 20 + put a 14 + put m 5)
  | .vmatchB64 d a m => BitVec.ofNat 32 (0xBC000006 + put d 20 + put a 14 + put m 5)
  | .vhaarF d a b m => BitVec.ofNat 32 (0xBC000008 + put d 20 + put a 14 + put b 8 + put m 5)
  | .vhaarFL d a n => BitVec.ofNat 32 (0xBC000009 + put d 20 + put a 14 + put n 8)
  | .vhaarI d a b m => BitVec.ofNat 32 (0xBC00000A + put d 20 + put a 14 + put b 8 + put m 5)
  | .vhaarIL d a n => BitVec.ofNat 32 (0xBC00000B + put d 20 + put a 14 + put n 8)
  | .vsca d a b m => BitVec.ofNat 32 (0xBC00000C + put d 20 + put a 14 + put b 8 + put m 5)
  | .vtag d a c => BitVec.ofNat 32 (0xBC00000D + put d 20 + put a 14 + put c 8)
  | .vbcast d a t m => BitVec.ofNat 32 (0xBC00000E + put d 20 + put a 14 + put t 8 + put m 5)
  | .vext d a t => BitVec.ofNat 32 (0xBC00000F + put d 20 + put a 14 + put t 8)
  | .vwhile p a b w => BitVec.ofNat 32 (0xBC000010 + put p 20 + put a 14 + put b 8 + put w 0)
  | .vlq d => BitVec.ofNat 32 (0xBC000014 + put d 20)
  | .mma l c a b g h e f => BitVec.ofNat 32 (0xC0000000 + put l 22 + put c 20 + put a 15 + put b 10 + put g 9 + put h 8 + put e 4 + put f 0)
  | .mmaz l c a b g h e f => BitVec.ofNat 32 (0xC4000000 + put l 22 + put c 20 + put a 15 + put b 10 + put g 9 + put h 8 + put e 4 + put f 0)
  | .msca l c a b k s => BitVec.ofNat 32 (0xC8000000 + put l 22 + put c 20 + put a 15 + put b 10 + put k 8 + put s 0)
  | .mdrain l c a b x => BitVec.ofNat 32 (0xCC000000 + put l 22 + put c 20 + put a 15 + put b 10 + put x 0)
  | .mldacc l c a => BitVec.ofNat 32 (0xD0000000 + put l 22 + put c 20 + put a 15)
  | .mzero l c => BitVec.ofNat 32 (0xD4000000 + put l 22 + put c 20)
  | .mmovvToV l c a b => BitVec.ofNat 32 (0xD4000100 + put l 22 + put c 20 + put a 15 + put b 10)
  | .mmovvToAcc l c a b => BitVec.ofNat 32 (0xD4000180 + put l 22 + put c 20 + put a 15 + put b 10)
  | .mtag l c a => BitVec.ofNat 32 (0xD4000200 + put l 22 + put c 20 + put a 15)
  | .cbload l a f n => BitVec.ofNat 32 (0xD4000300 + put l 22 + put a 15 + put f 7 + put n 0)
  | .cpy l t a b => BitVec.ofNat 32 (0xD8000000 + put l 22 + put t 17 + put a 12 + put b 7)
  | .cpyv l t a => BitVec.ofNat 32 (0xD8000001 + put l 22 + put t 17 + put a 12)
  | .fill l t a b => BitVec.ofNat 32 (0xD8000002 + put l 22 + put t 17 + put a 12 + put b 7)
  | .sbind l k a => BitVec.ofNat 32 (0xD8000003 + put l 22 + put k 17 + put a 12)
  | .sunbind k => BitVec.ofNat 32 (0xD8000004 + put k 17)
  | .xput l t a b o => BitVec.ofNat 32 (0xDC000000 + put l 22 + put t 17 + put a 12 + put b 7 + put o 5)
  | .xget l t a b o => BitVec.ofNat 32 (0xDC000001 + put l 22 + put t 17 + put a 12 + put b 7 + put o 5)
  | .xadd l t a b o y => BitVec.ofNat 32 (0xE0000000 + put l 22 + put t 17 + put a 12 + put b 7 + put o 5 + put y 0)
  | .xmin l t a b o y => BitVec.ofNat 32 (0xE0000004 + put l 22 + put t 17 + put a 12 + put b 7 + put o 5 + put y 0)
  | .xmax l t a b o y => BitVec.ofNat 32 (0xE0000008 + put l 22 + put t 17 + put a 12 + put b 7 + put o 5 + put y 0)
  | .xcas l t a b o y => BitVec.ofNat 32 (0xE000000C + put l 22 + put t 17 + put a 12 + put b 7 + put o 5 + put y 0)
  | .xflag l t a b => BitVec.ofNat 32 (0xE4000000 + put l 22 + put t 17 + put a 12 + put b 7)
  | .xtask l t a b => BitVec.ofNat 32 (0xE4000001 + put l 22 + put t 17 + put a 12 + put b 7)
  | .xexpect a k => BitVec.ofNat 32 (0xE8000000 + put a 12 + put k 3)
  | .xwait k => BitVec.ofNat 32 (0xE8000001 + put k 3)
  | .gets d n => BitVec.ofNat 32 (0xF0000000 + put d 21 + put n 9)
  | .sets d n => BitVec.ofNat 32 (0xF0000001 + put d 21 + put n 9)
  | .callsv n => BitVec.ofNat 32 (0xF0000002 + put n 5)
  | .rett => BitVec.ofNat 32 (0xF0000003)
  | .halt => BitVec.ofNat 32 (0xF0000004)
  | .hstart d a b => BitVec.ofNat 32 (0xF0000005 + put d 21 + put a 16 + put b 11)
  | .hexit => BitVec.ofNat 32 (0xF0000006)
  | .grid a => BitVec.ofNat 32 (0xF0000007 + put a 16)
  | .gnext d => BitVec.ofNat 32 (0xF0000008 + put d 21)
  | .graise d a => BitVec.ofNat 32 (0xF0000009 + put d 21 + put a 16)
  | .gkill => BitVec.ofNat 32 (0xF000000A)
  | .stepX => BitVec.ofNat 32 (0xF000000B)
  | .stepC => BitVec.ofNat 32 (0xF000000C)
  | .phreg b m => BitVec.ofNat 32 (0xF000000D + put b 11 + put m 5)
  | .phdrop b => BitVec.ofNat 32 (0xF000000E + put b 11)
  | .phsig b => BitVec.ofNat 32 (0xF000000F + put b 11)
  | .phwait b => BitVec.ofNat 32 (0xF0000010 + put b 11)
  | .phnext b => BitVec.ofNat 32 (0xF0000011 + put b 11)
  | .qpush a q => BitVec.ofNat 32 (0xF0000012 + put a 16 + put q 5)
  | .qpop d q => BitVec.ofNat 32 (0xF0000013 + put d 21 + put q 5)
  | .sdrain => BitVec.ofNat 32 (0xF0000014)
  | .tlbinvVa a b => BitVec.ofNat 32 (0xF0000015 + put a 16 + put b 11)
  | .tlbinvAsid b => BitVec.ofNat 32 (0xF0000035 + put b 11)
  | .tlbinvPart => BitVec.ofNat 32 (0xF0000055)
  | .tlbretire a => BitVec.ofNat 32 (0xF0000016 + put a 16)
  | .capmint d a => BitVec.ofNat 32 (0xF0000017 + put d 21 + put a 16)
  | .hintImm p => BitVec.ofNat 32 (0xF4000000 + put p 0)
  | .hintMod p => BitVec.ofNat 32 (0xF4400000 + put p 0)
  | .hintPri b n k => BitVec.ofNat 32 (0xF4800000 + put b 16 + put n 4 + put k 0)
  | .trapEntry _ _ _ _ => 0#32
  | .helperTrapEntry _ => 0#32
  | .impreciseTrapTaken _ => 0#32
  | .flaguUpdate _ => 0#32
  | .hintPriExpiry _ _ => 0#32
  | .coreReset _ => 0#32
  | .moduleReset => 0#32
  | .helperKill _ _ => 0#32
  | .queueOverflowOrUnderflow _ _ => 0#32
  | .drectWrite _ _ _ => 0#32
  | .dmemWrite _ _ => 0#32
  | .computeBudgetSpent _ => 0#32
  | .exchangeBudgetSpent _ => 0#32
  | .exchangeWindowOpen => 0#32
  | .computeWindowOpen => 0#32
  | .gangEnd _ => 0#32
  | .matrixQueuePerform _ => 0#32
  | .governorWindowStart _ => 0#32
  | .mgovWrite _ _ => 0#32
  | .pageWalk _ _ => 0#32
  | .belfryReply _ _ _ _ => 0#32
  | .storeDrain _ => 0#32
  | .sfqPop _ => 0#32
  | .sbstHoldClear _ => 0#32
  | .xlatWrite _ _ => 0#32
  | .pspaceWrite _ _ => 0#32
  | .migrationStart _ _ _ _ _ => 0#32
  | .migrationLineCopy _ => 0#32
  | .migrationRemove _ => 0#32
  | .combiningLineArrival _ => 0#32
  | .xputPacketArrival _ _ _ => 0#32
  | .xgetRequestArrival _ _ => 0#32
  | .xcasArrival _ _ => 0#32
  | .xflagArrival _ _ => 0#32
  | .taskArrival _ _ => 0#32
  | .transferEnd _ _ => 0#32
  | .engineTransferBegin _ _ => 0#32
  | .streamFetch _ _ => 0#32
  | .lndWrite _ _ _ => 0#32
  | .proxyRequest _ => 0#32
  | .proxyHomeOperation _ => 0#32
  | .proxyResponse _ => 0#32
  | .relayReinject _ _ => 0#32
  | .twinPairMatch _ _ => 0#32
  | .uncorrectableErrorConsumed _ _ _ _ => 0#32
  | .rollback _ => 0#32
  | .preemptRequest _ _ => 0#32
  | .preemptSave _ => 0#32
  | .preemptRestore _ => 0#32
  | .towerRetire _ => 0#32
  | .mapGenerationIssue _ => 0#32
  | .dump _ _ => 0#32
  | .testPackage _ => 0#32
  | .registerWrite _ _ _ _ _ => 0#32
  | .stopDomainRequest _ => 0#32
  | .stopGangRequest _ => 0#32
  | .preciseStopRequest _ _ => 0#32
  | .resume _ => 0#32
  | .singleStep _ _ _ => 0#32
  | .stepEnd _ => 0#32
  | .stopTrigger _ => 0#32
  | .debugHalt _ => 0#32
  | .moduleStop => 0#32
  | .moduleStopEnd => 0#32
  | .counterSample _ => 0#32
  | .ringTestInject _ _ => 0#32
  | .nsvalWrite _ _ _ => 0#32
  | .turretSeedStart _ => 0#32
  | .wavefrontArrival _ => 0#32
  | .clockLock _ _ => 0#32
  | .configurationArrival _ => 0#32
  | .selfTestEnd _ _ => 0#32
  | .bondDecision _ _ _ => 0#32
  | .bondTimeout _ _ => 0#32
  | .enterLinked _ => 0#32
  | .enterServingReduced _ => 0#32
  | .fullServiceDecision => 0#32
  | .fullServiceRaise => 0#32
  | .powerCapSet _ => 0#32
  | .rateLowering _ _ => 0#32
  | .thermalThrottle _ _ _ => 0#32
  | .doorbellTailWrite _ _ => 0#32
  | .doorbellSizeWrite _ _ _ => 0#32
  | .queueEntryAccept _ => 0#32
  | .launchStart _ => 0#32
  | .hostCopy _ => 0#32
  | .gcbPreempt _ => 0#32
  | .gcbRestore _ => 0#32
  | .gcbKill _ => 0#32
  | .faultAgentMessage _ => 0#32
  | .eventAnswer _ _ _ => 0#32
  | .faultTimeout _ _ => 0#32
  | .partitionCreate _ => 0#32
  | .partitionDestroy _ => 0#32
  | .towerAssign _ _ _ => 0#32
  | .imageRegister _ _ _ => 0#32
  | .attest _ _ => 0#32
  | .windowGroupToken _ => 0#32
  | .groupMemberRemove _ _ => 0#32
  | .longLatencyCompletion _ _ => 0#32
  | .ringTestFlitDelivery _ => 0#32
  | .moduleLinkDown _ => 0#32
  | .linkWindowSetup _ _ _ _ => 0#32

/-- The instruction is one of the 180 rows with an encoding. -/
def Instr.encoded : Instr → Bool
  | .add _ _ _ => true
  | .sub _ _ _ => true
  | .mul _ _ _ => true
  | .mulhS64 _ _ _ => true
  | .mulhB64 _ _ _ => true
  | .and _ _ _ => true
  | .or _ _ _ => true
  | .xor _ _ _ => true
  | .andn _ _ _ => true
  | .shl _ _ _ => true
  | .shr _ _ _ => true
  | .sar _ _ _ => true
  | .slt _ _ _ => true
  | .sltb _ _ _ => true
  | .minS64 _ _ _ => true
  | .minB64 _ _ _ => true
  | .maxS64 _ _ _ => true
  | .maxB64 _ _ _ => true
  | .clz _ _ _ => true
  | .ffs _ _ _ => true
  | .popcnt _ _ _ => true
  | .sel _ _ _ _ => true
  | .div _ _ _ _ _ _ => true
  | .rem _ _ _ _ _ _ => true
  | .addi _ _ _ => true
  | .andi _ _ _ => true
  | .ori _ _ _ => true
  | .xori _ _ _ => true
  | .slti _ _ _ => true
  | .sltbi _ _ _ => true
  | .ldhi _ _ _ => true
  | .shli _ _ _ => true
  | .shri _ _ _ => true
  | .sari _ _ _ => true
  | .fence => true
  | .fenceR _ => true
  | .fenceA _ => true
  | .fenceAr _ => true
  | .ldB8 _ _ _ _ => true
  | .ldS8 _ _ _ _ => true
  | .ldB16 _ _ _ _ => true
  | .ldS16 _ _ _ _ => true
  | .ldB32 _ _ _ _ => true
  | .ldS32 _ _ _ _ => true
  | .ldD _ _ _ _ => true
  | .st _ _ _ _ => true
  | .amoadd _ _ _ _ => true
  | .amoswap _ _ _ _ => true
  | .amocas _ _ _ _ => true
  | .amominS _ _ _ _ => true
  | .amominB _ _ _ _ => true
  | .amomaxS _ _ _ _ => true
  | .amomaxB _ _ _ _ => true
  | .beq _ _ _ => true
  | .bne _ _ _ => true
  | .blt _ _ _ => true
  | .bge _ _ _ => true
  | .bltb _ _ _ => true
  | .bgeb _ _ _ => true
  | .jal _ => true
  | .jr _ _ => true
  | .loop _ _ _ => true
  | .vld _ _ _ _ _ _ => true
  | .vst _ _ _ _ => true
  | .vlds _ _ _ _ _ _ _ => true
  | .vgath _ _ _ _ _ _ _ => true
  | .vscat _ _ _ _ _ => true
  | .vaddInt _ _ _ _ _ _ => true
  | .vsubInt _ _ _ _ _ _ => true
  | .vmulInt _ _ _ _ _ _ => true
  | .vnegInt _ _ _ _ _ => true
  | .vminS _ _ _ _ _ _ => true
  | .vminB _ _ _ _ _ _ => true
  | .vmaxS _ _ _ _ _ _ => true
  | .vmaxB _ _ _ _ _ _ => true
  | .vabsInt _ _ _ _ _ => true
  | .vshl _ _ _ _ _ _ => true
  | .vshr _ _ _ _ _ _ => true
  | .vsar _ _ _ _ _ _ => true
  | .vclz _ _ _ _ _ => true
  | .vffs _ _ _ _ _ => true
  | .vpop _ _ _ _ _ => true
  | .vand _ _ _ _ _ => true
  | .vor _ _ _ _ _ => true
  | .vxor _ _ _ _ _ => true
  | .vandn _ _ _ _ _ => true
  | .vdivS _ _ _ _ _ _ => true
  | .vdivB _ _ _ _ _ _ => true
  | .vremS _ _ _ _ _ _ => true
  | .vremB _ _ _ _ _ _ => true
  | .vaddF _ _ _ _ _ _ => true
  | .vsubF _ _ _ _ _ _ => true
  | .vmulF _ _ _ _ _ _ => true
  | .vfma _ _ _ _ _ _ => true
  | .vminF _ _ _ _ _ _ => true
  | .vmaxF _ _ _ _ _ _ => true
  | .vabsF _ _ _ _ _ => true
  | .vnegF _ _ _ _ _ => true
  | .vcmpS _ _ _ _ _ _ _ => true
  | .vcmpB _ _ _ _ _ _ _ => true
  | .vcmpF _ _ _ _ _ _ _ => true
  | .vsel _ _ _ _ => true
  | .vexp2 _ _ _ _ _ _ => true
  | .vlog2 _ _ _ _ _ _ => true
  | .vrcp _ _ _ _ _ _ => true
  | .vrsq _ _ _ _ _ _ => true
  | .vtanh _ _ _ _ _ _ => true
  | .vgelu _ _ _ _ _ _ => true
  | .vcvt _ _ _ _ _ _ _ => true
  | .vpack _ _ _ => true
  | .vunpack _ _ _ => true
  | .vdot _ _ _ _ _ _ => true
  | .vperm _ _ _ _ _ => true
  | .vred _ _ _ _ _ => true
  | .vmatchB32 _ _ _ => true
  | .vmatchB64 _ _ _ => true
  | .vhaarF _ _ _ _ => true
  | .vhaarFL _ _ _ => true
  | .vhaarI _ _ _ _ => true
  | .vhaarIL _ _ _ => true
  | .vsca _ _ _ _ => true
  | .vtag _ _ _ => true
  | .vbcast _ _ _ _ => true
  | .vext _ _ _ => true
  | .vwhile _ _ _ _ => true
  | .vlq _ => true
  | .mma _ _ _ _ _ _ _ _ => true
  | .mmaz _ _ _ _ _ _ _ _ => true
  | .msca _ _ _ _ _ _ => true
  | .mdrain _ _ _ _ _ => true
  | .mldacc _ _ _ => true
  | .mzero _ _ => true
  | .mmovvToV _ _ _ _ => true
  | .mmovvToAcc _ _ _ _ => true
  | .mtag _ _ _ => true
  | .cbload _ _ _ _ => true
  | .cpy _ _ _ _ => true
  | .cpyv _ _ _ => true
  | .fill _ _ _ _ => true
  | .sbind _ _ _ => true
  | .sunbind _ => true
  | .xput _ _ _ _ _ => true
  | .xget _ _ _ _ _ => true
  | .xadd _ _ _ _ _ _ => true
  | .xmin _ _ _ _ _ _ => true
  | .xmax _ _ _ _ _ _ => true
  | .xcas _ _ _ _ _ _ => true
  | .xflag _ _ _ _ => true
  | .xtask _ _ _ _ => true
  | .xexpect _ _ => true
  | .xwait _ => true
  | .gets _ _ => true
  | .sets _ _ => true
  | .callsv _ => true
  | .rett => true
  | .halt => true
  | .hstart _ _ _ => true
  | .hexit => true
  | .grid _ => true
  | .gnext _ => true
  | .graise _ _ => true
  | .gkill => true
  | .stepX => true
  | .stepC => true
  | .phreg _ _ => true
  | .phdrop _ => true
  | .phsig _ => true
  | .phwait _ => true
  | .phnext _ => true
  | .qpush _ _ => true
  | .qpop _ _ => true
  | .sdrain => true
  | .tlbinvVa _ _ => true
  | .tlbinvAsid _ => true
  | .tlbinvPart => true
  | .tlbretire _ => true
  | .capmint _ _ => true
  | .hintImm _ => true
  | .hintMod _ => true
  | .hintPri _ _ _ => true
  | .trapEntry _ _ _ _ => false
  | .helperTrapEntry _ => false
  | .impreciseTrapTaken _ => false
  | .flaguUpdate _ => false
  | .hintPriExpiry _ _ => false
  | .coreReset _ => false
  | .moduleReset => false
  | .helperKill _ _ => false
  | .queueOverflowOrUnderflow _ _ => false
  | .drectWrite _ _ _ => false
  | .dmemWrite _ _ => false
  | .computeBudgetSpent _ => false
  | .exchangeBudgetSpent _ => false
  | .exchangeWindowOpen => false
  | .computeWindowOpen => false
  | .gangEnd _ => false
  | .matrixQueuePerform _ => false
  | .governorWindowStart _ => false
  | .mgovWrite _ _ => false
  | .pageWalk _ _ => false
  | .belfryReply _ _ _ _ => false
  | .storeDrain _ => false
  | .sfqPop _ => false
  | .sbstHoldClear _ => false
  | .xlatWrite _ _ => false
  | .pspaceWrite _ _ => false
  | .migrationStart _ _ _ _ _ => false
  | .migrationLineCopy _ => false
  | .migrationRemove _ => false
  | .combiningLineArrival _ => false
  | .xputPacketArrival _ _ _ => false
  | .xgetRequestArrival _ _ => false
  | .xcasArrival _ _ => false
  | .xflagArrival _ _ => false
  | .taskArrival _ _ => false
  | .transferEnd _ _ => false
  | .engineTransferBegin _ _ => false
  | .streamFetch _ _ => false
  | .lndWrite _ _ _ => false
  | .proxyRequest _ => false
  | .proxyHomeOperation _ => false
  | .proxyResponse _ => false
  | .relayReinject _ _ => false
  | .twinPairMatch _ _ => false
  | .uncorrectableErrorConsumed _ _ _ _ => false
  | .rollback _ => false
  | .preemptRequest _ _ => false
  | .preemptSave _ => false
  | .preemptRestore _ => false
  | .towerRetire _ => false
  | .mapGenerationIssue _ => false
  | .dump _ _ => false
  | .testPackage _ => false
  | .registerWrite _ _ _ _ _ => false
  | .stopDomainRequest _ => false
  | .stopGangRequest _ => false
  | .preciseStopRequest _ _ => false
  | .resume _ => false
  | .singleStep _ _ _ => false
  | .stepEnd _ => false
  | .stopTrigger _ => false
  | .debugHalt _ => false
  | .moduleStop => false
  | .moduleStopEnd => false
  | .counterSample _ => false
  | .ringTestInject _ _ => false
  | .nsvalWrite _ _ _ => false
  | .turretSeedStart _ => false
  | .wavefrontArrival _ => false
  | .clockLock _ _ => false
  | .configurationArrival _ => false
  | .selfTestEnd _ _ => false
  | .bondDecision _ _ _ => false
  | .bondTimeout _ _ => false
  | .enterLinked _ => false
  | .enterServingReduced _ => false
  | .fullServiceDecision => false
  | .fullServiceRaise => false
  | .powerCapSet _ => false
  | .rateLowering _ _ => false
  | .thermalThrottle _ _ _ => false
  | .doorbellTailWrite _ _ => false
  | .doorbellSizeWrite _ _ _ => false
  | .queueEntryAccept _ => false
  | .launchStart _ => false
  | .hostCopy _ => false
  | .gcbPreempt _ => false
  | .gcbRestore _ => false
  | .gcbKill _ => false
  | .faultAgentMessage _ => false
  | .eventAnswer _ _ _ => false
  | .faultTimeout _ _ => false
  | .partitionCreate _ => false
  | .partitionDestroy _ => false
  | .towerAssign _ _ _ => false
  | .imageRegister _ _ _ => false
  | .attest _ _ => false
  | .windowGroupToken _ => false
  | .groupMemberRemove _ _ => false
  | .longLatencyCompletion _ _ => false
  | .ringTestFlitDelivery _ => false
  | .moduleLinkDown _ => false
  | .linkWindowSetup _ _ _ _ => false

end Sys2Proof
end

