-- ==== Sys2Proof/Machine/Tab.lean ====
section
/-!
DEFINITION. Sparse tables as sorted association lists: plain data with one canonical form. `Tab.set` never lists an entry
equal to the default of the table, so equal contents are equal data; `Tab.put` keeps every entry.
-/

namespace Sys2Proof.Machine

/-- A table from natural numbers: pairs of key and value, keys strictly rising. -/
abbrev Tab (α : Type) := List (Nat × α)

/-- The entry of a key, if one is listed. -/
def Tab.find? {α : Type} : Tab α → Nat → Option α
  | [], _ => none
  | (j, x) :: t, k => if j = k then some x else Tab.find? t k

/-- What a table holds at a key: its entry, or the default. -/
def Tab.get {α : Type} (dflt : α) (t : Tab α) (k : Nat) : α := (Tab.find? t k).getD dflt

/-- The table without the entries of a key. -/
def Tab.erase {α : Type} : Tab α → Nat → Tab α
  | [], _ => []
  | (j, x) :: t, k => if j = k then Tab.erase t k else (j, x) :: Tab.erase t k

/-- The table with an entry inserted or replaced, in the order of the keys. -/
def Tab.put {α : Type} : Tab α → Nat → α → Tab α
  | [], k, y => [(k, y)]
  | (j, x) :: t, k, y =>
    if j = k then (k, y) :: t
    else if k < j then (k, y) :: (j, x) :: t
    else (j, x) :: Tab.put t k y

/-- Writing a table whose unlisted keys hold a default: writing the default removes the entry. -/
def Tab.set {α : Type} [DecidableEq α] (dflt : α) (t : Tab α) (k : Nat) (y : α) : Tab α :=
  if y = dflt then Tab.erase t k else Tab.put t k y

/-- The entry of a key changed by a function of what the table holds there. -/
def Tab.modify {α : Type} (dflt : α) (t : Tab α) (k : Nat) (f : α → α) : Tab α :=
  Tab.put t k (f (Tab.get dflt t k))

/-- Every listed entry changed by a function of its key and value. -/
def Tab.mapEntries {α : Type} (f : Nat → α → α) : Tab α → Tab α
  | [] => []
  | (j, x) :: t => (j, f j x) :: Tab.mapEntries f t

/-- Every key of the table lies above a bound. -/
def Tab.above {α : Type} (b : Nat) : Tab α → Bool
  | [] => true
  | (j, _) :: _ => b < j

/-- The keys rise strictly. -/
def Tab.sorted {α : Type} : Tab α → Bool
  | [] => true
  | (j, _) :: t => Tab.above j t && Tab.sorted t

/-- The canonical form of a table with a default: keys rise strictly and no entry equals the default. -/
def Tab.wf {α : Type} [DecidableEq α] (dflt : α) : Tab α → Bool
  | [] => true
  | (j, x) :: t => Tab.above j t && (decide (x ≠ dflt) && Tab.wf dflt t)

/-- Values y 0, y 1, …, y (n - 1) written at keys k, k + 1, …, k + n - 1, lowest first. -/
def Tab.setRange {α : Type} [DecidableEq α] (dflt : α) (t : Tab α) (k : Nat) : List α → Tab α
  | [] => t
  | y :: ys => Tab.setRange dflt (Tab.set dflt t k y) (k + 1) ys

/-- What a table holds at n keys from k on. -/
def Tab.getRange {α : Type} (dflt : α) (t : Tab α) (k : Nat) : Nat → List α
  | 0 => []
  | n + 1 => Tab.get dflt t k :: Tab.getRange dflt t (k + 1) n

/-- What a table holds at the n keys from k on; the entries given start at or after k. -/
def Tab.denseFrom {α : Type} (dflt : α) (k : Nat) : Nat → Tab α → List α
  | 0, _ => []
  | n + 1, [] => dflt :: Tab.denseFrom dflt (k + 1) n []
  | n + 1, (j, x) :: t =>
    if j = k then x :: Tab.denseFrom dflt (k + 1) n t else dflt :: Tab.denseFrom dflt (k + 1) n ((j, x) :: t)

/-- What a table holds at the n keys from k on. -/
def Tab.dense {α : Type} (dflt : α) (t : Tab α) (k n : Nat) : List α :=
  Tab.denseFrom dflt k n (t.filter fun e => k ≤ e.1)

/-- The entries of consecutive keys from k on, defaults left out. -/
def Tab.sparse {α : Type} [DecidableEq α] (dflt : α) (k : Nat) : List α → Tab α
  | [] => []
  | y :: ys => if y = dflt then Tab.sparse dflt (k + 1) ys else (k, y) :: Tab.sparse dflt (k + 1) ys

/-- The entries of a list that make a canonical table of keys from b to below n: those not in place are left out. -/
def Tab.rising {α : Type} [DecidableEq α] (dflt : α) (n : Nat) : Nat → List (Nat × α) → Tab α
  | _, [] => []
  | b, (j, x) :: t =>
    if b ≤ j ∧ j < n ∧ x ≠ dflt then (j, x) :: Tab.rising dflt n (j + 1) t else Tab.rising dflt n b t

/-- The table with the keys from k on, as many as there are values, replaced. -/
def Tab.splice {α : Type} [DecidableEq α] (dflt : α) (t : Tab α) (k : Nat) (ys : List α) : Tab α :=
  t.filter (fun e => e.1 < k) ++ (Tab.sparse dflt k ys ++ t.filter fun e => k + ys.length ≤ e.1)

end Sys2Proof.Machine
end

