-- ==== Sys2Proof/Machine/State.lean ====
section
/-!
DEFINITION. The state of the module as plain data: contexts, cores, towers, the phase arbiter with its domains and gangs,
the fabric, the host side, memory by physical address, and the model's own focus, agenda, clock and counter.
Numbered system registers are kept raw in tables by number (R19) at the scope the spec gives them; registers that only show
other state are computed where they are read (Machine/SysRegs.lean).
-/

namespace Sys2Proof.Machine

/-! ## Contexts -/

/-- The states of a context (R121); the debug-halted hold stands beside them. -/
inductive CtxSt where
  | free | running | blocked | suspended | stopped
deriving DecidableEq, Repr

/-- What a context waited on at its last turn, when its instruction did not complete (R44, R121, R129). -/
inductive Wait where
  /-- A trap of the instruction waits for the older instructions of the context (R31). -/
  | older
  | scoreboard | storeBuffer | drain | engine | footprint | matrix | landing | mailbox | proxy | index | turn
  | queueFull (q : Nat)
  | queueEmpty (q : Nat)
  | phaser (n : Nat)
  /-- The wait of a HALT (R96); `mute`, one in which no store-fault trap is raised. -/
  | halt (mute : Bool)
deriving DecidableEq, Repr

/-- The hints waiting for the instruction they bind to (R48, R49, R51): payloads, address of the earliest, address bound. -/
structure Hint where
  imm : Option (BitVec 22)
  mod : Option (BitVec 6)
  first : BitVec 48
  next : BitVec 48
deriving DecidableEq, Repr

/-- No hint is pending. -/
def Hint.none : Hint := { imm := .none, mod := .none, first := 0, next := 0 }

/-- A vector register with its domain code (R158, R160). -/
structure VReg where
  data : BitVec 2048
  dom : BitVec 2
deriving DecidableEq, Repr

/-- All lanes zero, spatial domain. -/
def VReg.zero : VReg := { data := 0, dom := 0 }

/-- How the bytes of a load make its result: in a general register, or at byte positions of a vector register. -/
inductive LoadShape where
  | scalar (d : BitVec 5) (n : Nat) (signed : Bool)
  | lanes (places : List Nat)
deriving DecidableEq, Repr

/-- What a pending load has read (R45): its bytes in order, with their effective addresses and homes. -/
structure LoadSrc where
  shape : LoadShape
  eas : List Nat
  pas : List (Option Nat)
  bytes : List Byte
deriving DecidableEq, Repr

/-- A long-latency result that has not been written yet (R44, R45). -/
structure Late where
  id : Nat
  /-- How many younger instructions may still issue before it completes. -/
  left : Nat
  gdest : List (BitVec 5 × Word)
  vdest : List (BitVec 6 × VReg)
  flags : BitVec 5
  /-- For a load, what its results are made of. -/
  src : Option LoadSrc
deriving DecidableEq, Repr

/-- One context (R12, R120): the per-context system registers stand in `sr`. -/
structure Ctx where
  st : CtxSt
  /-- Debug-halted (R342): `st` is the state held before. -/
  halted : Bool
  pc : BitVec 48
  priv : BitVec 2
  g : Tab Word
  sr : Tab Word
  hint : Hint
  late : List Late
  /-- Token registers marked pending, each with its footprint entry (R280). -/
  tokens : List (BitVec 5 × Nat)
  wait : Option Wait
  waitCount : Nat
  boost : Nat
  /-- The clock at which the boost of a HINT.PRI ends; a debug halt puts it off by its length (R50, R343). -/
  boostEnd : Nat
  /-- Live cycles counted up to `liveFrom`, and the clock when counting last resumed (R26). -/
  liveBefore : Nat
  liveFrom : Nat
  retired : Nat
  /-- The phaser of a PHNEXT whose signal has taken effect (R129). -/
  signalled : Option Nat
  /-- Elements that a VSCAT waiting for store-buffer entries has appended (R169). -/
  appended : Nat
  /-- What `retired` stood at when the slot was last started: it goes on counting over the helpers of a slot (R254). -/
  born : Nat
  /-- Engine instructions of the context accepted so far: twins pair their transfers by it (R327). -/
  sends : Nat
deriving DecidableEq, Repr

/-- A context with nothing in it: a FREE slot, or the control context at core reset when STOPPED (R35, R121). -/
def Ctx.empty (st : CtxSt) : Ctx :=
  { st := st, halted := false, pc := 0, priv := 0, g := [], sr := [], hint := Hint.none, late := [], tokens := [],
    wait := none, waitCount := 0, boost := 0, boostEnd := 0, liveBefore := 0, liveFrom := 0, retired := 0,
    signalled := none, appended := 0, born := 0, sends := 0 }

/-! ## The parts of a core -/

/-- Vector state (R158, R159): v0 to v31, q0 to q7, h0, h1, m1 to m7. -/
structure VecState where
  v : Tab VReg
  q : Tab VReg
  h0 : VReg
  h1 : VReg
  m : Tab (BitVec 256)
deriving DecidableEq, Repr

/-- What a matrix instruction takes from registers and memory at issue (R187, R202): a scalar, a vector register, the bytes
of a vector group with its format, a tile descriptor with its footprint bytes, bytes at an address, or a destination descriptor
with its frames and the six thresholds it names. -/
inductive MatSrc where
  | none
  | scalar (x : Word)
  | vec (x : BitVec 2048)
  | group (bytes : BitVec 16384) (fmt : BitVec 4)
  | tile (w0 w1 : Word) (bytes : List Byte)
  | block (ea : Word) (bytes : List Byte)
  | dest (w0 w1 : Word) (frames : Tab Nat) (th : List (BitVec 32))
deriving DecidableEq, Repr

/-- An instruction accepted into the matrix engine's queue and not performed (R186). -/
structure MatOp where
  i : Instr
  /-- How many younger instructions may still issue before it completes. -/
  left : Nat
  rm : BitVec 2
  /-- Its place in the order of stores and footprints. -/
  seq : Nat
  /-- The address of the instruction. -/
  pc : BitVec 48
  /-- A drain that has written some of its words: the free choice that says which (R45). -/
  split : Option Nat
  /-- Steps that the governor has admitted (R200). -/
  steps : Nat
  a : MatSrc
  b : MatSrc
deriving DecidableEq, Repr

/-- Matrix engine state (R104, R189, R190): accumulator elements at 4096 k + 64 i + j, tags, chunk counters, codebooks. -/
structure MatState where
  el : Tab (BitVec 32)
  tag : Tab (BitVec 16)
  kc : Tab (BitVec 10)
  code : Tab Byte
  codeFmt : BitVec 8
  queue : List MatOp
  /-- The governor's remaining budget of the window, and ccount of the control context at its start (R200). -/
  rem : Int
  winAt : Nat
deriving DecidableEq, Repr

/-- A vector the stream binder has ready (R292, R293). -/
structure Ready where
  vec : VReg
  flags : BitVec 5
  /-- Address of the first out-of-range byte of its row, if any (R291). -/
  oor : Option Word
deriving DecidableEq, Repr

/-- A bound stream slot (R290 to R292). -/
structure Stream where
  record : List Byte
  scale : List (BitVec 32)
  rm : BitVec 2
  tile : Nat
  row : Nat
  ready : List Ready
  /-- Popped past its end since it was bound. -/
  past : Bool
  /-- The old bytes, by home, that drained stores of the core have overwritten since it was bound (R294). -/
  olds : Tab Byte
deriving DecidableEq, Repr

/-- The heap-window result recorded with a store (R253). -/
structure HeapHit where
  pa : BitVec 56
  rd : Bool
  wr : Bool
deriving DecidableEq, Repr

/-- A store-buffer entry (R253). -/
structure SbEntry where
  ctx : Nat
  /-- 0 ST, 1 VST, 2 VSCAT element. -/
  kind : Nat
  ea : Word
  size : Nat
  data : BitVec 2048
  mask : BitVec 256
  asid : BitVec 10
  /-- The address space was bound at append and its ASID has not been retired since (R244). -/
  bound : Bool
  priv : BitVec 2
  heap : Option HeapHit
  pc : BitVec 48
  retired : Nat
  grp : Word
  ss : Word
  seq : Nat
deriving DecidableEq, Repr

/-- A store-fault record (R242, R253): the six register images, the storing context, and its count of retired instructions. -/
structure SfRec where
  va : Word
  data : Word
  info : Word
  pc : Word
  grp : Word
  ss : Word
  ctx : Nat
  retired : Nat
  seq : Nat
deriving DecidableEq, Repr

/-- An imprecise store-fault trap that waits for delivery to a context (R254). -/
structure StoreTrap where
  ctx : Nat
  va : BitVec 48
  seq : Nat
deriving DecidableEq, Repr

/-- A trap of a suspended helper that waits for the control context (R127). -/
structure HelperTrap where
  h : Nat
  cause : BitVec 8
  info : Word
  ep : BitVec 48
  imp : Bool
deriving DecidableEq, Repr

/-- A first-level TLB entry (R245): leaf bits <6:0> are PN, GR, FZ, X, W, RD, P. -/
structure TlbEnt where
  part : Nat
  asid : BitVec 10
  vpn : BitVec 30
  ppn : BitVec 38
  leaf : BitVec 7
deriving DecidableEq, Repr

/-- A mailbox slot that waits for the belfry, or holds its answer: true is KILL (R251, R252). -/
structure Mail where
  seq : Nat
  va : BitVec 48
  kind : Nat
  asid : BitVec 10
  answer : Option Bool
  /-- The clock when the fault agent wrote its record for the host (R413). -/
  asked : Option Nat
deriving DecidableEq, Repr

/-- The remote half of an exchange instruction (R63, R295). -/
structure Remote where
  cap : Word
  addr : Word
deriving DecidableEq, Repr

/-- Why a transfer failed (R281, R282): the magnitude of its status, REASON, ADDR. -/
structure Failure where
  stat : Nat
  reason : Nat
  addr : Nat
deriving DecidableEq, Repr

/-- What an engine was asked to do (R277). The regions of a CPYV are those whose checks and translations succeeded, with the
failure that ends it after them, if any (R289). -/
inductive EngineOp where
  | cpy (dst src : Word) (n : Nat)
  | cpyv (regions : List (Word × Word × Nat)) (last : Option Failure)
  | fill (dst src : Word) (n : Nat)
  | sbind (k : Nat)
  | xput (r : Remote) (src : Word) (n : Nat)
  | xget (r : Remote) (dst : Word) (n : Nat)
  | xcomb (r : Remote) (op ty : BitVec 2) (v : Word)
  | xcas (r : Remote) (ty : BitVec 2) (expect : Word) (v : Word)
  | xflag (r : Remote) (v : Word)
  | xtask (r : Remote) (record : Word)
deriving DecidableEq, Repr

/-- How far a transfer has come (R280, R285, R324): accepted, accesses begun, stopped by an uncorrectable error at a physical
address, or ended with a final value not yet written. -/
inductive Stage where
  | accepted
  | begun
  | lost (pa : Nat)
  | ended (v : Word) (fail : Option Failure)
deriving DecidableEq, Repr

/-- One leg of a packet's way over a mesh (R373, R375): its place in the order of injection, its class, the YX mesh or the XY
one, the towers it runs between; a relay's first leg runs to the waypoint. -/
structure Leg where
  order : Nat
  cls : Nat
  yx : Bool
  src : Nat
  dst : Nat
  relay : Bool
deriving DecidableEq, Repr

/-- An entry of the footprint scheduler (R284 to R286): byte ranges by physical address, first and length. -/
structure Fp where
  id : Nat
  ctx : Nat
  tok : BitVec 5
  op : EngineOp
  stage : Stage
  rd : List (Nat × Nat)
  wr : List (Nat × Nat)
  /-- Remote byte ranges by physical address (R295). -/
  far : List (Nat × Nat)
  /-- Packets of an XPUT that have performed. -/
  packets : List Nat
  /-- Sequence of the newest store appended before its issue (R285). -/
  after : Nat
  rel : Bool
  acq : Bool
  /-- Its ordinal among the engine instructions of its context (R327). -/
  nth : Nat
  /-- The leg that its request, or the last packet of it injected, is on or has ended (R373). -/
  leg : Option Leg
deriving DecidableEq, Repr

/-- A combining line (R271): home line address, operation and type codes, partials by byte offset in the line. A core's lines
stand in the order in which they were allocated. -/
structure CombLine where
  home : Nat
  target : BitVec 12
  gen : BitVec 16
  op : BitVec 2
  ty : BitVec 2
  words : Tab Word
deriving DecidableEq, Repr

/-- A stop trigger of a core (R341): TK, NUM, the address where it has one, AH, ALCN, and whether it stops the gang. -/
structure Trigger where
  tk : Nat
  num : Nat
  addr : Option Nat
  ah : Bool
  alcn : Nat
  gang : Bool
deriving DecidableEq, Repr

/-- A stop broadcast that holds a core, or is about to (R341): scope 0 domain, 1 gang, 2 module, 3 a precise stop; TLCN; the
sstep at T; the instructions each context had retired at T. -/
structure Stop where
  scope : Nat
  tlcn : Nat
  ss : Word
  rets : List Nat
deriving DecidableEq, Repr

/-- Debug state of a core beside its registers (R341, R349). -/
structure Dbg where
  /-- The core is held by a debug halt. -/
  halt : Bool
  trigger : Option Trigger
  stop : Option Stop
  /-- A step in progress: contexts released, and the count of issues at which it ends (R349). -/
  step : Option (BitVec 11 × Nat)
  issued : Nat
  /-- The instructions each context had retired before the issue that ended the step (R349). -/
  rets : List Nat
  /-- The clock when a precise stop was last requested (R345). -/
  preqAt : Nat
deriving DecidableEq, Repr

/-- Trace state of a core beside its registers (R353 to R357). -/
structure TraceSt where
  dropped : Bool
  /-- Records formed and not yet written to the buffer, oldest first. -/
  queue : List (List Byte)
  /-- Counted values latched at the last start of a compute phase (R356). -/
  latched : Tab Word
  /-- Records of the operator stream, oldest first. -/
  operator : List (List Byte)
  /-- Groups opened in the phase; instructions retired and live cycles of the control context at its start. -/
  groups : Nat
  retiredAt : Nat
  liveAt : Nat
  /-- Sums over the supersteps of the four words of kind 5 (R356). -/
  sums : List Nat
  /-- ccount of the control context at its last counter sample (R354). -/
  sampleAt : Nat
deriving DecidableEq, Repr

/-- Traps and waits of a core that are pending (R33, R127, R254, R312). -/
structure Pending where
  /-- Imprecise causes other than 0x06, with their tinfo. -/
  causes : Tab Word
  stores : List StoreTrap
  helpers : List HelperTrap
  /-- A double trap: its cause and the address of the instruction that raised it. -/
  double : Option (BitVec 8 × BitVec 48)
  /-- cause 0x0E with FATAL has been entered (R313). -/
  fatal : Bool
  /-- Flags raised on this core and not yet in flagu (R110). -/
  flags : BitVec 5
deriving DecidableEq, Repr

/-- The open group and the domain registers of a core (R123, R139, R142). -/
structure Member where
  gang : Nat
  /-- The gang whose registers the core shows: its own, or the last it was a member of. -/
  shown : Nat
  opened : Bool
  task : Bool
  ident : BitVec 48
  killed : BitVec 8
  /-- The group was opened by a task record whose slot is still held (R305). -/
  holdsTask : Bool
  dmem : Word
  drect : Tab Word
  arrived : Option Nat
  /-- The core is held from issuing until its domain's next phase (R145). -/
  held : Bool
  /-- The count that a GRID has proposed (R136). -/
  proposal : Option Nat
  /-- What GNEXT and GRAISE have given the other twin of the core and it has not executed yet (R326). -/
  ahead : List Word
  gmis : Bool
deriving DecidableEq, Repr

/-- One core (R3, R120): the control context is slot 0. Control-context and core-scope system registers stand in `sr`. -/
structure Core where
  ctxs : Tab Ctx
  ta : Bool
  sr : Tab Word
  /-- The context that issued most recently (R134). -/
  lastIssue : Nat
  vec : VecState
  mat : MatState
  streams : Tab Stream
  /-- The streams as they stood when the context record of the last checkpoint was taken (R224, R320; log entry 85). -/
  kept : Tab Stream
  hq : Tab (List Word)
  sb : List SbEntry
  hold : Bool
  sfq : List SfRec
  tlb : List TlbEnt
  mail : Tab Mail
  mailSeq : Nat
  fps : List Fp
  comb : List CombLine
  combSeq : Nat
  pend : Pending
  mem : Member
  dbg : Dbg
  trace : TraceSt
  /-- Home blocks journalled in this superstep (R320): PA / 256 of own scratchpad blocks. -/
  blocks : List Nat
  nsRef : Bool
  count : Nat
deriving DecidableEq, Repr

/-! ## The parts of a tower -/

/-- A member of a phaser (R151): mode 0 signal-only, 1 wait-only, 2 signal-and-wait. -/
structure PhMember where
  lcn : Nat
  k : Nat
  mode : Nat
  sigma : Nat
  w : Nat
deriving DecidableEq, Repr

/-- A phaser (R151, R153): owner 0 is none, otherwise the gang. -/
structure Phaser where
  p : Nat
  owner : Nat
  members : List PhMember
  /-- A signalling member left by a drop while the current phase was current (R151). -/
  dropped : Bool
deriving DecidableEq, Repr

/-- A phaser after module reset (R153). -/
def Phaser.fresh : Phaser := { p := 0, owner := 0, members := [], dropped := false }

/-- A walk-cache entry (R245): level 0 root, 1 intermediate; the index bits of the VA above that level. -/
structure WalkEnt where
  part : Nat
  asid : BitVec 10
  level : Nat
  index : Nat
  entry : Word
deriving DecidableEq, Repr

/-- A message the event arbiter has posted to the belfry core (R33, R96, R251, R413). -/
inductive BelfryMsg where
  | notPresent (lcn slot kind : Nat) (va : BitVec 48) (asid : BitVec 10) (part : Nat) (ss : Word) (seq : Nat)
  | doubleTrap (lcn : Nat) (cause : BitVec 8) (ep : BitVec 48)
  | halt (lcn : Nat) (pc : BitVec 48)
deriving DecidableEq, Repr

/-- What a ring packet is (R368, R371): a test packet; a TLB probe, with its source stop and the flits of its reply; or a reply,
or traffic with the mesh interface. -/
inductive RingKind where
  | test
  | probe (src reply : Nat)
  | other
deriving DecidableEq, Repr

/-- A flit in a slot of a stop's input (R369, R370): its packet, whether it is the first or the last of it, where it goes, the
channel on which it came, and whether it holds that channel's escape slot. -/
structure RingFlit where
  pkt : Nat
  kind : RingKind
  head : Bool
  last : Bool
  dest : Nat
  vc1 : Bool
  esc : Bool
deriving DecidableEq, Repr

/-- A packet that a stop injects (R371): `sent` of its `len` flits have left; it enters the arbitration in the cycle after it was
handed over, and `waited` counts the cycles it has been in it without a flit sent. -/
structure RingInj where
  pkt : Nat
  kind : RingKind
  stop : Nat
  ccw : Bool
  dest : Nat
  len : Nat
  sent : Nat
  entered : Bool
  waited : Nat
deriving DecidableEq, Repr

/-- The ring of a spire (R368 to R372): packets being injected, oldest first; the flits in the input of each stop and direction
at 2 stop + direction, clockwise 0, in the order of arrival; the packet that holds an output link, numbered alike; stops at which a
test flit has been delivered and not counted. -/
structure Ring where
  next : Nat
  inj : List RingInj
  inputs : Tab (List RingFlit)
  held : Tab Nat
  landed : List Nat
deriving DecidableEq, Repr

/-- Nothing on the ring. -/
def Ring.idle : Ring := { next := 0, inj := [], inputs := [], held := [], landed := [] }

/-- One logical tower (R3). -/
structure Tower where
  part : Option Nat
  phasers : Tab Phaser
  flagu : BitVec 40
  pmdome : Word
  /-- The dome range in force: a later SETS of pmdome takes effect at the next compute-phase start (R318). -/
  pmdomeNow : Word
  thr : Bool
  /-- Network-select entries written since the last layout, at 512 class + destination, in the layout of nsval (R375). -/
  ns : Tab (BitVec 26)
  walk : List WalkEnt
  belfry : List BelfryMsg
  ring : Ring
  /-- Dome blocks journalled in this superstep (R320): PA / 256. -/
  blocks : List Nat
deriving DecidableEq, Repr

/-! ## Domains, gangs and windows -/

/-- An imbalance record (R154). -/
structure Imbal where
  early : Nat
  late : Nat
  sum : Nat
  k : Bool
  ncore : Nat
  ss : Nat
  last : Nat
deriving DecidableEq, Repr

/-- A domain (R123, R135, R141 to R150). -/
structure Domain where
  key : DomKey
  /-- 0 compute, 1 compute arrived, 2 exchange, 3 exchange arrived. -/
  dph : Nat
  scnt : Nat
  ovr : Bool
  sstep : Nat
  count : Nat
  /-- The grid's count at the start of the compute phase, raises excluded (R136). -/
  startCount : Nat
  /-- The lowest index not returned. -/
  next : Nat
  phaseStart : Nat
  /-- Where the count of the current budget starts; while the domain is parked, the cycles already counted (R148, R343). -/
  since : Nat
  spent : Bool
  /-- Entered the exchange window now open (R149). -/
  entered : Bool
  /-- Parked by a debug halt or a precise stop (R343, R345). -/
  parked : Bool
  /-- Waiting for a compute window to open: resumed in its compute phase, `since` still holding the cycles counted, or about to
  begin one at the next window and not in the one now open (R330, R331, R343, R345). -/
  carried : Bool
  /-- Its exchange phase is over, or it has never started: it waits for a compute phase to begin. -/
  done : Bool
  record : Imbal
  /-- The record to be written when the next phase begins (R154). -/
  formed : Option Imbal
  /-- The clock when its last exchange barrier completed: the last STEP.C, or the close of the window for one missing (R329,
  R345). -/
  barrierAt : Nat
  overrun : Bool
deriving DecidableEq, Repr

/-- Pre-emption and recovery state of a gang (R318, R325, R329). -/
structure GangRec where
  req : Bool
  area : BitVec 32
  reqAt : Nat
  st : BitVec 3
  err : BitVec 4
  mapchg : Bool
  /-- Context-area slots written or loaded so far. -/
  progress : Nat
  nrg : Bool
  tmis : Nat
  rb : Nat
  /-- Rollbacks of the superstep now running (R325). -/
  rbHere : Nat
  /-- An uncorrectable error reported and not yet handled: its core, context, SRC and address. -/
  report : Option (Nat × Nat × BitVec 3 × BitVec 56)
deriving DecidableEq, Repr

/-- A gang (R141, R405): `record` is the launch record as dispatched. -/
structure Gang where
  id : Nat
  part : Nat
  d0 : Nat
  x0 : Nat
  y0 : Nat
  x1 : Nat
  y1 : Nat
  mask : BitVec 8
  record : List Byte
  /-- Shadow rectangle's lowest corner, in twin mode (R326). -/
  shadow : Option (Nat × Nat)
  slim : Nat
  cbud : Nat
  xbud : Nat
  queue : Nat
  seq : Word
  cpl : Word
  killed : Nat
  /-- Started, and not ended or pre-empted: in the set of active domains (R148). -/
  active : Bool
  /-- Ended: it stays listed only for the registers that its cores still show. -/
  ended : Bool
  status : Nat
  gr : GangRec
deriving DecidableEq, Repr

/-- The window states of R150. -/
inductive Win where
  | compute | turnX | exchange | turnC
deriving DecidableEq, Repr

/-- Sent partials of a combining line (R271): the sender's LCN and send sequence; arrived at the home's stage or not. -/
structure SentLine where
  lcn : Nat
  seq : Nat
  line : CombLine
  leg : Option Leg
  arrived : Bool
deriving DecidableEq, Repr

/-- A stream as it stood when a pre-emption saved its record, by partition, context area, core and stream (R224, R331). -/
structure SavedStream where
  part : Nat
  area : Nat
  lcn : Nat
  sm : Nat
  stream : Stream
deriving DecidableEq, Repr

/-- The phase arbiter and what it orders (R147 to R157). -/
structure Arbiter where
  clock : Nat
  win : Win
  winAt : Nat
  phase : Nat
  stopped : Bool
  gangs : List Gang
  doms : List Domain
  sent : List SentLine
  saved : List SavedStream
  nextGang : Nat
deriving DecidableEq, Repr

/-! ## Fabric -/

/-- A site (R2, R377, R388): map STATE and LT, bring-up state, wavefront source, bonds. -/
structure Site where
  st : Nat
  lt : Nat
  bs : Nat
  step : Nat
  side : Nat
  turret : Nat
  /-- Bonds decided and bonds absent: bit 0 west, 1 south, 2 east, 3 north. -/
  decided : BitVec 4
  absent : BitVec 4
  /-- Wavefronts that arrive in a step: step, side, turret. -/
  waves : List (Nat × Nat × Nat)
  /-- The step in which the last bond was decided, and in which SELF_TESTED was entered. -/
  decidedAt : Nat
  testedAt : Nat
  /-- The test package last applied passed (R380). -/
  passed : Bool
deriving DecidableEq, Repr

/-- A page migration (R256): lines 0 … copied - 1 have their copied bit set. -/
structure Migration where
  id : Nat
  part : Nat
  asid : BitVec 10
  leaf : BitVec 56
  old : BitVec 38
  new : BitVec 38
  copied : Nat
deriving DecidableEq, Repr

/-- Where a proxied atomic stands (R274): message at the proxy, request sent, performed at its target, response returned
to the context; the old value, or none where the target refused it. -/
inductive ProxySt where
  | queued
  | sent
  | performed (old : Option Word)
  | answered (old : Option Word)
deriving DecidableEq, Repr

/-- A proxied atomic (R91, R274): `op` codes the seven operations of R90, `size` 4 or 8. -/
structure ProxyOp where
  id : Nat
  lcn : Nat
  k : Nat
  pa : BitVec 56
  va : BitVec 48
  op : Nat
  size : Nat
  operand : Word
  expect : Word
  st : ProxySt
  /-- The leg that its request, once sent, is on (R373). -/
  leg : Option Leg
deriving DecidableEq, Repr

/-- A link window (R418): memory of a peer module backed for a partition. -/
structure LinkWin where
  part : Nat
  module : Nat
  base : BitVec 52
  len : Nat
deriving DecidableEq, Repr

/-- An invalidation whose entries are dropped and which has not completed (R249, R250): the issuing core and context (11
where the context is gone), its partition, the ASID of a TLBRETIRE, and the transfers, proxied operations and queued drains it
waits for. -/
structure Flush where
  lcn : Nat
  k : Nat
  part : Nat
  asid : Option (BitVec 10)
  fps : List (Nat × Nat)
  ops : List Nat
  drains : List (Nat × Nat)
deriving DecidableEq, Repr

/-- The fabric and its firmware state (R366 to R392, R418, R419). -/
structure Fabric where
  sites : Tab Site
  mapgen : BitVec 16
  rows : Nat
  /-- Map changes of the generation issued and not yet in effect (R379). -/
  pendingMap : List SiteChange
  /-- The sites as they stood when the layout in force was made: the network-select entries follow them (R376). None before
the first tower serves. -/
  laid : Option (Tab Site)
  /-- A map generation has taken effect since reset: the boot generation's layout no longer follows bring-up (log entry 6). -/
  turned : Bool
  bstep : Nat
  full : Bool
  raisePending : Bool
  pwcap : BitVec 16
  migs : List Migration
  proxies : List ProxyOp
  links : List LinkWin
  downLinks : List Nat
  modnum : Nat
  gsz : Nat
  gpos : Nat
  newGroup : Option (Nat × Nat)
  /-- Round numbers of the tokens that have arrived and not been used, and how many rounds of its own the module has sent at
the close under way (R419). -/
  tokens : List Nat
  sentRounds : Nat
  /-- Modules that are partners in the window group and whose link is down (R419). -/
  lost : List Nat
  /-- Why root firmware refused the feature token at the last reset: 0 where it took it (R384). -/
  tokenWhy : Nat
  /-- Legs injected into the meshes so far (R373). -/
  injected : Nat
  flushing : List Flush
deriving DecidableEq, Repr

/-! ## The host side -/

/-- A registered image range (R417): first byte, length, and the hash of the bytes registered. -/
structure Image where
  base : Nat
  len : Nat
  hash : BitVec 384
deriving DecidableEq, Repr

/-- A partition (R381, R399 to R401, R412 to R417): profile and caps in `sr`. -/
structure Part where
  key : BitVec 256
  sr : Tab Word
  timeout : Nat
  tenant : Nat
  vfs : List Nat
  images : List Image
  /-- The policy in force, and one bound that takes effect at the next compute phase (R358). -/
  dpol : BitVec 64
  newPol : BitVec 64
  policy : List Byte
deriving DecidableEq, Repr

/-- An entry accepted from a queue and not started (R403); at the head, a launch or restore has passed its checks (R405). -/
structure HEntry where
  bytes : List Byte
  passed : Bool
deriving DecidableEq, Repr

/-- A hardware queue (R402). -/
structure HQueue where
  vf : Option Nat
  base : Word
  size : BitVec 8
  err : BitVec 8
  tail : BitVec 32
  accept : BitVec 32
  held : List HEntry
deriving DecidableEq, Repr

/-- A virtual function's event queue (R413). -/
structure EventQ where
  base : Word
  size : BitVec 8
  err : BitVec 8
  head : BitVec 32
  tail : BitVec 32
  ans : Word
deriving DecidableEq, Repr

/-- The last answer of firmware or the debug port to the outside (R334, R337, R412, R416, R417, R420): a status (0 done)
and bytes by offset. -/
structure Reply where
  status : Nat
  bytes : Tab Byte
deriving DecidableEq, Repr

/-- The host side of the module (R397 to R417). -/
structure HostSide where
  parts : Tab Part
  queues : Tab HQueue
  events : Tab EventQ
  /-- The serial of the policy last bound to a tenant's keys (R415). -/
  serials : Tab Nat
  reply : Reply
deriving DecidableEq, Repr

/-! ## The machine -/

/-- A turn of the agenda (DESIGN CHOICE, log entry 3): an event of the opcode table, or the next instruction of a core. -/
inductive Turn where
  | event (i : Instr)
  | core (lcn : Nat)
deriving DecidableEq, Repr

/-- The module. `lcn` and `k` name the core and context whose turn it is; `late` says whether a long-latency result with a
lookahead count stays pending (log entry 9); `tick` numbers the free values (log entry 2). -/
structure State where
  lcn : Nat
  k : Nat
  late : Bool
  tick : Nat
  agenda : List Turn
  mem : List Host.Cell
  cores : Tab Core
  towers : Tab Tower
  arb : Arbiter
  fab : Fabric
  host : HostSide
deriving DecidableEq, Repr

/-- Why the machine stops. -/
inductive Fault where
  /-- Raised by step when the focus names no core of the largest array or no context slot, a state no run from reset
  reaches. Safe: the machine stops where it has no meaning to give. -/
  | noSuchContext
deriving DecidableEq, Repr

/-- Why an instruction has no meaning. -/
inductive Refusal where
  /-- Raised by exec for an instruction the model gives no meaning yet. Safe. -/
  | notModelled (mnemonic : String)
deriving DecidableEq, Repr

/-! ## Reset -/

/-- A core after core reset (R35); the registers with nonzero Reset values are ctxs.LIVE (computed), rgst (computed) and
mgcap. -/
def Core.reset : Core :=
  { ctxs := [(0, Ctx.empty .stopped)], ta := false, sr := [(0x198, 0x10000), (0x1198, 0x10000)], lastIssue := 0,
    vec := { v := [], q := [], h0 := VReg.zero, h1 := VReg.zero, m := [] },
    mat := { el := [], tag := [], kc := [], code := [], codeFmt := 0, queue := [], rem := 0, winAt := 0 },
    streams := [], kept := [], hq := [], sb := [], hold := false, sfq := [], tlb := [], mail := [], mailSeq := 0, fps := [], comb := [],
    combSeq := 0,
    pend := { causes := [], stores := [], helpers := [], double := none, fatal := false, flags := 0 },
    mem := { gang := 0, shown := 0, opened := false, task := false, ident := 0, killed := 0, holdsTask := false, dmem := 0, drect := [],
             arrived := none, held := false, proposal := none, ahead := [], gmis := false },
    dbg := { halt := false, trigger := none, stop := none, step := none, issued := 0, rets := [], preqAt := 0 },
    trace := { dropped := false, queue := [], latched := [], operator := [], groups := 0, retiredAt := 0, liveAt := 0,
               sums := [0, 0, 0, 0], sampleAt := 0 },
    blocks := [], nsRef := false, count := 0 }

/-- A tower after module reset (R153, R388): no partition, every phaser unowned, every network-select entry XY
(DESIGN CHOICE, log entry 6). -/
def Tower.reset : Tower :=
  { part := none, phasers := [], flagu := 0, pmdome := 0, pmdomeNow := 0, thr := false, ns := [], walk := [], belfry := [], ring := .idle,
    blocks := [] }

/-- A site after module reset: DARK (R388). The wafer map places logical tower (tx, ty) at site (tx, ty) and leaves the
other sites spare (DESIGN CHOICE, log entry 6). -/
def Site.initial (n : Nat) : Site :=
  { st := if n % 18 < 16 ∧ n / 18 < 16 then 0 else 1, lt := if n % 18 < 16 ∧ n / 18 < 16 then n / 18 * 16 + n % 18 else 0,
    bs := 0, step := 0, side := 0, turret := 0, decided := 0, absent := 0, waves := [], decidedAt := 0, testedAt := 0,
    passed := false }

/-- A partition that root firmware has not created. -/
def Part.none : Part :=
  { key := 0, sr := [], timeout := 0, tenant := 0, vfs := [], images := [], dpol := 0, newPol := 0, policy := [] }

/-- A queue after module reset. -/
def HQueue.reset : HQueue := { vf := none, base := 0, size := 0, err := 0, tail := 0, accept := 0, held := [] }

/-- An event queue after module reset. -/
def EventQ.reset : EventQ := { base := 0, size := 0, err := 0, head := 0, tail := 0, ans := 0 }

/-- The phase arbiter after module reset: no domain is active, so the compute window stays open (R147). -/
def Arbiter.reset : Arbiter :=
  { clock := 0, win := .compute, winAt := 0, phase := 0, stopped := false, gangs := [], doms := [], sent := [], saved := [], nextGang := 1 }

/-- The fabric after module reset; the boot values are named in log entry 6. -/
def Fabric.reset : Fabric :=
  { sites := [], mapgen := 0, rows := 0, pendingMap := [], laid := none, turned := false, bstep := 0, full := false, raisePending := false, pwcap := 18000,
    migs := [], proxies := [], links := [], downLinks := [], modnum := 0, gsz := 1, gpos := 0, newGroup := none, tokens := [], sentRounds := 0, lost := [],
    tokenWhy := 0, injected := 0, flushing := [] }

/-- The machine right after module reset (R35, R388): every control context STOPPED, memory with nothing listed. -/
def State.reset : State :=
  { lcn := 0, k := 0, late := false, tick := 0, agenda := [], mem := [], cores := [], towers := [], arb := Arbiter.reset,
    fab := Fabric.reset, host := { parts := [], queues := [], events := [], serials := [], reply := { status := 0, bytes := [] } } }

end Sys2Proof.Machine
end

