-- ==== Sys2Proof/Machine/Ops.lean ====
section
/-!
DEFINITION. The named operations over the state: bit fields, the core and context whose turn it is, general registers, raw
system registers, the clock of a context, taking an exception and returning from one, retiring an instruction.
-/

namespace Sys2Proof.Machine

/-- What a meaning answers. -/
abbrev Out := Host.Outcome State Fault Refusal

/-! ## Bit fields of registers (R9) -/

/-- Bits lo to lo + len - 1 of a register, as a number. -/
def bits (w : Word) (lo len : Nat) : Nat := w.toNat / 2 ^ lo % 2 ^ len

/-- One bit of a register. -/
def bit (w : Word) (n : Nat) : Bool := w.getLsbD n

/-- A register with bits lo to lo + len - 1 replaced by the low bits of a number. -/
def withBits (w : Word) (lo len v : Nat) : Word :=
  let m : Word := BitVec.ofNat 64 ((2 ^ len - 1) * 2 ^ lo)
  (w &&& ~~~m) ||| BitVec.ofNat 64 (v % 2 ^ len * 2 ^ lo)

/-- The low w bits of a value, zero-extended. -/
def zextTo (w : Nat) (x : Word) : Word := BitVec.ofNat 64 (x.toNat % 2 ^ w)

/-- The low w bits of a value as a signed number. -/
def sintOf (w : Nat) (x : Nat) : Int :=
  let m := x % 2 ^ w
  if m < 2 ^ (w - 1) then (m : Int) else (m : Int) - 2 ^ w

/-- The low w bits of a value, sign-extended. -/
def sextTo (w : Nat) (x : Word) : Word := BitVec.ofInt 64 (sintOf w x.toNat)

/-- A flag as a number. -/
def b2n (b : Bool) : Nat := if b then 1 else 0

/-- A flag as a register value. -/
def ofBool (b : Bool) : Word := if b then 1 else 0

/-- Sat of R11 for natural numbers below a bound. -/
def satNat (n top : Nat) : Nat := if n ≤ top then n else top

/-- The entry of a list at a position, or a default. -/
def nth {α : Type} (dflt : α) : List α → Nat → α
  | [], _ => dflt
  | x :: _, 0 => x
  | _ :: t, n + 1 => nth dflt t n

/-- A list with the elements that satisfy a test changed. -/
def mapIf {α : Type} (p : α → Bool) (f : α → α) : List α → List α
  | [] => []
  | x :: t => (if p x then f x else x) :: mapIf p f t

/-- The least number of a nonempty list. -/
def leastOf : List Nat → Option Nat
  | [] => none
  | x :: t => match leastOf t with
    | none => some x
    | some y => some (min x y)

/-- Bytes of a number, lowest first (R14). -/
def leBytes : Nat → Nat → List Byte
  | 0, _ => []
  | n + 1, v => BitVec.ofNat 8 v :: leBytes n (v / 256)

/-- The number that bytes stand for, lowest first (R14). -/
def ofLeBytes : List Byte → Nat
  | [] => 0
  | b :: t => b.toNat + 256 * ofLeBytes t

/-! ## Contexts, cores and towers -/

/-- A context of a core; an unlisted slot is FREE. -/
def Core.ctx (c : Core) (k : Nat) : Ctx := Tab.get (Ctx.empty .free) c.ctxs k

/-- A core with a context replaced. -/
def Core.setCtx (c : Core) (k : Nat) (x : Ctx) : Core := { c with ctxs := Tab.put c.ctxs k x }

/-- A core with a context changed. -/
def Core.updCtx (c : Core) (k : Nat) (f : Ctx → Ctx) : Core := c.setCtx k (f (c.ctx k))

/-- A raw control-context or core-scope register. -/
def Core.reg (c : Core) (n : Nat) : Word := Tab.get 0 c.sr n

/-- A core with a raw register replaced. -/
def Core.setReg (c : Core) (n : Nat) (v : Word) : Core := { c with sr := Tab.set 0 c.sr n v }

/-- A raw per-context register. -/
def Ctx.reg (x : Ctx) (n : Nat) : Word := Tab.get 0 x.sr n

/-- A context with a raw per-context register replaced. -/
def Ctx.setReg (x : Ctx) (n : Nat) (v : Word) : Ctx := { x with sr := Tab.set 0 x.sr n v }

/-- A core of the module. -/
def State.coreAt (s : State) (lcn : Nat) : Core := Tab.get Core.reset s.cores lcn

/-- The module with a core replaced. -/
def State.setCoreAt (s : State) (lcn : Nat) (c : Core) : State := { s with cores := Tab.put s.cores lcn c }

/-- The module with a core changed. -/
def State.updCoreAt (s : State) (lcn : Nat) (f : Core → Core) : State := s.setCoreAt lcn (f (s.coreAt lcn))

/-- The core whose turn it is. -/
def State.core (s : State) : Core := s.coreAt s.lcn

/-- The module with the core whose turn it is replaced. -/
def State.setCore (s : State) (c : Core) : State := s.setCoreAt s.lcn c

/-- The module with the core whose turn it is changed. -/
def State.updCore (s : State) (f : Core → Core) : State := s.setCore (f s.core)

/-- The context whose turn it is. -/
def State.cx (s : State) : Ctx := s.core.ctx s.k

/-- The module with the context whose turn it is replaced. -/
def State.setCx (s : State) (x : Ctx) : State := s.setCore (s.core.setCtx s.k x)

/-- The module with the context whose turn it is changed. -/
def State.updCx (s : State) (f : Ctx → Ctx) : State := s.setCx (f s.cx)

/-- A tower of the module by logical tower index (R5). -/
def State.towerAt (s : State) (n : Nat) : Tower := Tab.get Tower.reset s.towers n

/-- The module with a tower changed. -/
def State.updTowerAt (s : State) (n : Nat) (f : Tower → Tower) : State :=
  { s with towers := Tab.put s.towers n (f (s.towerAt n)) }

/-- The logical tower of a core: LCN = 8 tower + core index (R6). -/
def towerOf (lcn : Nat) : Nat := lcn / 8

/-- The tower of the core whose turn it is. -/
def State.tower (s : State) : Tower := s.towerAt (towerOf s.lcn)

/-- Its change. -/
def State.updTower (s : State) (f : Tower → Tower) : State := s.updTowerAt (towerOf s.lcn) f

/-- A site of the module. -/
def State.site (s : State) (n : Nat) : Site := (Tab.find? s.fab.sites n).getD (Site.initial n)

/-- A function of the state run with another core and context in focus. -/
def State.at (s : State) (lcn k : Nat) (f : State → State) : State :=
  { f { s with lcn := lcn, k := k } with lcn := s.lcn, k := s.k }

/-- The partition of a core: that of its tower (R421); 0 where no partition holds it. -/
def State.partOf (s : State) (lcn : Nat) : Nat := (s.towerAt (towerOf lcn)).part.getD 0

/-- A partition. -/
def State.partAt (s : State) (p : Nat) : Part := Tab.get Part.none s.host.parts p

/-- The module with a partition changed. -/
def State.updPartAt (s : State) (p : Nat) (f : Part → Part) : State :=
  { s with host := { s.host with parts := Tab.put s.host.parts p (f (s.partAt p)) } }

/-- A fresh number for a free value: the counter advances (log entry 2). -/
def State.fresh (s : State) : Nat × State := (s.tick, { s with tick := s.tick + 1 })

/-! ## General registers (R12) -/

/-- A general register of a context; g0 reads as zero. -/
def Ctx.gr (x : Ctx) (r : BitVec 5) : Word := if r = 0 then 0 else Tab.get 0 x.g r.toNat

/-- A context with a general register written; a write of g0 is discarded. -/
def Ctx.setGr (x : Ctx) (r : BitVec 5) (v : Word) : Ctx :=
  if r = 0 then x else { x with g := Tab.set 0 x.g r.toNat v }

/-- A general register of the context whose turn it is. -/
def State.g (s : State) (r : BitVec 5) : Word := s.cx.gr r

/-- A general register written. -/
def State.setG (s : State) (r : BitVec 5) (v : Word) : State := s.updCx (·.setGr r v)

/-- The g register that a 6-bit field names. -/
def g6 (x : BitVec 6) : BitVec 5 := BitVec.ofNat 5 x.toNat

/-- The second register of a pair whose even index is given (R62, R63). -/
def pairHi (r : BitVec 5) : BitVec 5 := r + 1

/-! ## Time of a context (R26, R343) -/

/-- The context is live: not FREE and not STOPPED. -/
def Ctx.live (x : Ctx) : Bool := decide (x.st ≠ .free) && decide (x.st ≠ .stopped)

/-- Live cycles counted so far: ccount. -/
def Ctx.cycles (x : Ctx) (clock : Nat) : Nat :=
  if x.live && !x.halted then x.liveBefore + (clock - x.liveFrom) else x.liveBefore

/-- The context with its count stopped. -/
def Ctx.stopClock (x : Ctx) (clock : Nat) : Ctx := { x with liveBefore := x.cycles clock, liveFrom := clock }

/-- The context in another state, its count going on or stopping with it. -/
def Ctx.become (x : Ctx) (st : CtxSt) (clock : Nat) : Ctx := { x.stopClock clock with st := st }

/-- The module clock. -/
def State.clock (s : State) : Nat := s.arb.clock

/-! ## Floating-point mode (R24) and flags (R109, R110) -/

/-- fpm of the context whose turn it is. -/
def State.fpm (s : State) : Word := s.cx.reg 0x001

/-- fpm.RM. -/
def State.rm (s : State) : BitVec 2 := BitVec.ofNat 2 s.fpm.toNat

/-- fpm.EN, one bit per flag in the order of FLG. -/
def State.en (s : State) : BitVec 5 := BitVec.ofNat 5 (bits s.fpm 7 5)

/-- Flags ORed into fpm.FLG, and noted for flagu. -/
def State.raise (s : State) (f : BitVec 5) : State :=
  if f = 0 then s
  else
    let t := s.updCx fun x => x.setReg 0x001 (x.reg 0x001 ||| BitVec.ofNat 64 (f.toNat * 4))
    t.updCore fun c => { c with pend := { c.pend with flags := c.pend.flags ||| f } }

/-! ## Event counters (R350, R352) -/

/-- Counter j adds n events of a kind when its select names the kind and, for context k, its mask holds k. -/
def Core.countOne (evt : Nat) (k : Option Nat) (n : Nat) (c : Core) (j : Nat) : Core :=
  let sel := c.reg (0x160 + j)
  if bits sel 0 8 = evt ∧ (match k with | some k => bit sel (8 + k) | none => true) = true then
    c.setReg (0x158 + j) (c.reg (0x158 + j) + BitVec.ofNat 64 n)
  else c

/-- An event counted by the eight counters of a core. -/
def Core.countEvent (c : Core) (evt : Nat) (k : Option Nat) (n : Nat) : Core :=
  (List.range 8).foldl (Core.countOne evt k n) c

/-! ## Domains and gangs (R141) -/

/-- The gang with an identifier of the model's own. -/
def State.gang? (s : State) (id : Nat) : Option Gang := s.arb.gangs.find? (fun g => g.id == id)

/-- The module with a gang changed. -/
def State.updGang (s : State) (id : Nat) (f : Gang → Gang) : State :=
  { s with arb := { s.arb with gangs := mapIf (fun g => g.id == id) f s.arb.gangs } }

/-- Identity Dk of dmem, k = 0 to 3. -/
def domIdent (dmem : Word) (k : Nat) : Nat := bits dmem (8 * k) 8

/-- The synchronising level: the greatest k ≤ dmem.SL whose identity is nonzero, or 0, the gang. -/
def syncLevel (dmem : Word) : Nat :=
  let sl := bits dmem 32 2
  if sl ≥ 3 ∧ domIdent dmem 3 ≠ 0 then 3
  else if sl ≥ 2 ∧ domIdent dmem 2 ≠ 0 then 2
  else if sl ≥ 1 ∧ domIdent dmem 1 ≠ 0 then 1
  else 0

/-- The synchronising domain of a core, by the dmem in force (R141, R142). -/
def Core.domKey (c : Core) : DomKey :=
  let l := syncLevel c.mem.dmem
  { gang := c.mem.shown, level := l, ident := if l = 0 then 0 else domIdent c.mem.dmem l }

/-- A domain in which nothing has happened yet. -/
def Domain.fresh (key : DomKey) : Domain :=
  { key := key, dph := 0, scnt := 0, ovr := false, sstep := 0, count := 0, startCount := 0, next := 0, phaseStart := 0,
    since := 0, spent := false, entered := false, parked := false, carried := false, done := false,
    record := { early := 0, late := 0, sum := 0, k := false, ncore := 0, ss := 0, last := 0 }, formed := none,
    barrierAt := 0, overrun := false }

/-- The domain with a key. -/
def State.dom (s : State) (key : DomKey) : Domain :=
  (s.arb.doms.find? (fun d => d.key == key)).getD (Domain.fresh key)

/-- The module with a domain changed; a domain not listed yet is listed. -/
def State.updDom (s : State) (key : DomKey) (f : Domain → Domain) : State :=
  if s.arb.doms.any (fun d => d.key == key) then
    { s with arb := { s.arb with doms := mapIf (fun d => d.key == key) f s.arb.doms } }
  else { s with arb := { s.arb with doms := s.arb.doms ++ [f (Domain.fresh key)] } }

/-- The synchronising domain of a core. -/
def State.domOf (s : State) (lcn : Nat) : Domain := s.dom (s.coreAt lcn).domKey

/-- The core is in the exchange phase of its synchronising domain (R144, R150). -/
def State.inExchange (s : State) (lcn : Nat) : Bool := 2 ≤ (s.domOf lcn).dph

/-- The core's domain is in its exchange phase in the exchange window now open, and is not parked (R144, R296, R343). -/
def State.openTo (s : State) (lcn : Nat) : Bool :=
  let d := s.domOf lcn
  2 ≤ d.dph && (d.entered && (!d.parked && s.arb.win == .exchange))

/-- The physical core that stands for a member core of a gang on a primary tower, shifted to the shadow (R326). -/
def Gang.shadowOf (g : Gang) (lcn : Nat) : Option Nat :=
  match g.shadow with
  | none => none
  | some (sx, sy) =>
    let tx := lcn / 8 % 16
    let ty := lcn / 128
    some (((sy + (ty - g.y0)) * 16 + (sx + (tx - g.x0))) * 8 + lcn % 8)

/-- The core lies in the gang's rectangle and mask (R141). -/
def Gang.covers (g : Gang) (lcn : Nat) : Bool :=
  let tx := lcn / 8 % 16
  let ty := lcn / 128
  g.x0 ≤ tx && (tx ≤ g.x1 && (g.y0 ≤ ty && (ty ≤ g.y1 && g.mask.getLsbD (lcn % 8))))

/-- The member cores of a gang in ascending LCN. -/
def Gang.members (g : Gang) : List Nat := (List.range Config.cores).filter g.covers

/-- The shadow cores of a twinned gang, in the order of their primaries. -/
def Gang.shadows (g : Gang) : List Nat := g.members.filterMap g.shadowOf

/-- Every core the gang occupies. -/
def Gang.occupied (g : Gang) : List Nat := g.members ++ g.shadows

/-- The primary LCN that a core shows in coreid: its own, or its primary's where it is a shadow (R326). -/
def State.lcnShown (s : State) (lcn : Nat) : Nat :=
  match s.gang? (s.coreAt lcn).mem.shown with
  | none => lcn
  | some g => if g.covers lcn then lcn else (g.members.find? (fun m => g.shadowOf m == some lcn)).getD lcn

/-- Members of a domain: cores of its gang whose synchronising domain it is. -/
def State.domMembers (s : State) (key : DomKey) : List Nat :=
  match s.gang? key.gang with
  | none => []
  | some g => g.members.filter fun l => decide ((s.coreAt l).domKey = key)

/-- A core's tower lies in a rectangle of the scope layout y1 : x1 : y0 : x0 (R123). -/
def inRect (w : Word) (lcn : Nat) : Bool :=
  let tx := lcn / 8 % 16
  let ty := lcn / 128
  bits w 0 8 ≤ tx && (tx ≤ bits w 16 8 && (bits w 8 8 ≤ ty && ty ≤ bits w 24 8))

/-- Core m has the identity, rectangle and SL that core l has at level k, as they are in force. -/
def State.sameDomain (s : State) (k l m : Nat) : Bool :=
  let a := (s.coreAt l).mem
  let b := (s.coreAt m).mem
  domIdent a.dmem k == domIdent b.dmem k && (bits a.dmem 32 2 == bits b.dmem 32 2 && Tab.get 0 a.drect k == Tab.get 0 b.drect k)

/-- The members of a nested domain agree (R142): every core of the gang in the rectangle of one that synchronises in it has its
identity, rectangle and SL. The gang's own domain has both from the dispatcher (DEDUCED, log entry 81). -/
def State.agrees (s : State) (key : DomKey) : Bool :=
  key.level == 0 || (s.domMembers key).all fun l =>
    (match s.gang? key.gang with | some g => g.members | none => []).all fun m =>
      !inRect (Tab.get 0 (s.coreAt l).mem.drect key.level) m || s.sameDomain key.level l m

/-! ## Trace records (R353, R354) -/

/-- A 64-byte trace record of a core. -/
def State.traceRecord (s : State) (lcn k kind : Nat) (payload : List Word) : List Byte :=
  leBytes 1 kind ++ leBytes 1 k ++ leBytes 2 (s.lcnShown lcn) ++ leBytes 4 0 ++ leBytes 8 (s.domOf lcn).sstep ++
  leBytes 8 s.arb.phase ++ leBytes 8 (((s.coreAt lcn).ctx k).cycles s.clock) ++
  payload.flatMap (fun w => leBytes 8 w.toNat)

/-- A record is formed when tracing is on and its kind is enabled; the trace unit writes it out in order. -/
def State.trace (s : State) (lcn k kind : Nat) (payload : List Word) : State :=
  let c := s.coreAt lcn
  if bit (c.reg 0x16A) 63 && bit (c.reg 0x16A) kind then
    s.setCoreAt lcn { c with trace := { c.trace with queue := c.trace.queue ++ [s.traceRecord lcn k kind payload] } }
  else s

/-! ## Phasers of a context that leaves (R151 to R153) -/

/-- Phase P completes when its condition holds: every signalling member has σ > P, and there was at least one; a member that
registers during phase P has joined at phase P with σ = P + 1 (R151, R152; DEDUCED, log entry 13). -/
def Phaser.settle (p : Phaser) : Phaser :=
  let due := p.members.filter fun m => m.mode ≠ 1 && m.sigma ≤ p.p
  let had := p.dropped || p.members.any fun m => m.mode ≠ 1
  if due.isEmpty && had then
    { p with p := p.p + 1, dropped := false }
  else p

/-- A member leaves; a signalling member counts for the current phase as one that has signalled it (R151, R152). -/
def Phaser.drop (p : Phaser) (lcn k : Nat) : Phaser :=
  match p.members.find? (fun m => m.lcn == lcn && m.k == k) with
  | none => p
  | some m =>
    let rest := p.members.filter fun m => !(m.lcn == lcn && m.k == k)
    Phaser.settle { p with members := rest, dropped := p.dropped || m.mode ≠ 1 }

/-- Every registration of a context in a tower dropped. -/
def Tower.dropPhasers (t : Tower) (lcn k : Nat) : Tower :=
  { t with phasers := Tab.mapEntries (fun _ p => p.drop lcn k) t.phasers }

/-! ## Kill of a helper (R126) -/

/-- Helper h of a core is killed: its slot becomes FREE; results, tokens and answers still due to it are discarded (an atomic
at the proxy or an invalidation goes on for no context: slot 11), and a store-fault trap of its goes to the control context
(R254). The boost of a HINT.PRI belongs to the context number and stays (R50). -/
def State.killHelper (s : State) (lcn h : Nat) : State :=
  let c := s.coreAt lcn
  if h = 0 ∨ 10 < h ∨ (c.ctx h).st = .free then s
  else
    let u := s.updTowerAt (towerOf lcn) (·.dropPhasers lcn h)
    let gone := fun (o : ProxyOp) => o.lcn == lcn && o.k == h
    let t := { u with fab := { u.fab with
      proxies := mapIf gone (fun o => { o with k := 11 }) u.fab.proxies
      flushing := mapIf (fun f => f.lcn == lcn && f.k == h) (fun f => { f with k := 11 }) u.fab.flushing } }
    t.updCoreAt lcn fun c =>
      { c.setCtx h { Ctx.empty .free with retired := (c.ctx h).retired, boost := (c.ctx h).boost, boostEnd := (c.ctx h).boostEnd } with
        fps := mapIf (fun f => f.ctx == h) (fun f => { f with tok := 0 }) c.fps
        mail := Tab.erase c.mail h
        pend := { c.pend with helpers := c.pend.helpers.filter (fun t => t.h ≠ h)
                              stores := mapIf (fun t => t.ctx == h) (fun t => { t with ctx := 0 }) c.pend.stores } }

/-- Every helper of a core killed. -/
def State.killHelpers (s : State) (lcn : Nat) : State :=
  (List.range 11).foldl (fun s h => s.killHelper lcn h) s

/-! ## Taking an exception (R31, R33, R127, R310 to R313) -/

/-- A message posted to the belfry core of a core's tower (R33, R96, R251). -/
def State.postBelfry (s : State) (lcn : Nat) (m : BelfryMsg) : State :=
  s.updTowerAt (towerOf lcn) fun t => { t with belfry := t.belfry ++ [m] }

/-- The trap registers, level and pc that trap entry sets (R31). `ctxno` and `ppriv` go to tstat; `ep` is the return
address of the trapping instruction. A wait on mailbox slot 0 is abandoned: a later answer is discarded (R129). A step of the
debugger goes no further in the context (R349). -/
def Core.enterTrap (c : Core) (cause : BitVec 8) (info : Word) (ctxno : Nat) (ppriv : BitVec 2) (imp : Bool)
    (ep : BitVec 48) : Core :=
  let c1 := (c.setReg 0x00A (withBits (ep.setWidth 64) 0 2 0)).setReg 0x009 (cause.setWidth 64)
  let c2 := (c1.setReg 0x00B info).setReg 0x00C
    (BitVec.ofNat 64 (ctxno % 16 * 4096 + ppriv.toNat * 256 + b2n imp))
  let c3 := c2.updCtx 0 fun x =>
    { x with priv := 1, pc := BitVec.ofNat 48 (bits (c.reg 0x008) 2 46 * 4), hint := Hint.none, wait := none, appended := 0,
             st := if x.st = .blocked then .running else x.st }
  { c3 with ta := true, mail := Tab.erase c3.mail 0, pend := { c3.pend with fatal := cause == 0x0E && bit info 63 }
            dbg := { c3.dbg with step := c3.dbg.step.map fun t => (t.1 &&& 0x7FE, t.2) } }

/-- Trap entry of the control context of a core with its trace record (R31, R353). -/
def State.enterControl (s : State) (lcn : Nat) (cause : BitVec 8) (info : Word) (ctxno : Nat) (ppriv : BitVec 2)
    (imp : Bool) (ep : BitVec 48) : State :=
  let t := s.updCoreAt lcn fun c => c.enterTrap cause info ctxno ppriv imp ep
  let c := t.coreAt lcn
  t.trace lcn ctxno 2 [c.reg 0x009, c.reg 0x00A, c.reg 0x00B, c.reg 0x00C]

/-- A trap raised while TA = 1: the control context stops, its helpers are killed, and the event arbiter posts the new cause
and address; the trap registers keep the first trap (R33, R314). -/
def State.doubleTrap (s : State) (lcn : Nat) (cause : BitVec 8) (ep : BitVec 48) : State :=
  let t := s.updCoreAt lcn fun c =>
    { c.updCtx 0 (fun x => { x.become .stopped s.clock with wait := none, hint := Hint.none }) with
      pend := { c.pend with double := some (cause, ep) } }
  (t.killHelpers lcn).postBelfry lcn (.doubleTrap lcn cause ep)

/-- A helper traps: it is SUSPENDED and its trap waits for the control context (R127). -/
def State.suspendHelper (s : State) (lcn h : Nat) (cause : BitVec 8) (info : Word) (ep : BitVec 48) (imp : Bool) : State :=
  s.updCoreAt lcn fun c =>
    { c.updCtx h (fun x => { x with st := .suspended, wait := none, hint := Hint.none, pc := ep }) with
      mail := Tab.erase c.mail h
      pend := { c.pend with helpers := c.pend.helpers ++ [{ h := h, cause := cause, info := info, ep := ep, imp := imp }] } }

/-- The trap of context k of a core, at return address ep: R31, R33 or R127. A double trap's message carries the address of the
instruction that raised it, not the address it would return to. -/
def State.trapAt (s : State) (lcn k : Nat) (cause : BitVec 8) (info : Word) (imp : Bool) (ep : BitVec 48) : State :=
  if k ≠ 0 then s.suspendHelper lcn k cause info ep imp
  else if (s.coreAt lcn).ta then s.doubleTrap lcn cause ((s.coreAt lcn).ctx 0).pc
  else s.enterControl lcn cause info 0 ((s.coreAt lcn).ctx 0).priv imp ep

/-- A hint is bound to the instruction that the context stands at (R51). -/
def Ctx.hinted (x : Ctx) : Bool := decide (x.hint ≠ Hint.none) && decide (x.hint.next = x.pc)

/-- The address a precise trap of the current instruction returns to: the earliest hint bound to it, or its own (R51). -/
def Ctx.faultPc (x : Ctx) : BitVec 48 := if x.hinted then x.hint.first else x.pc

/-- An instruction that waits so has not been issued (R44, R186, R253). -/
def Wait.unissued : Wait → Bool
  | .scoreboard | .older | .storeBuffer | .drain | .engine | .footprint | .matrix => true
  | _ => false

/-- The instruction that the context is at has not been issued: it is not waiting, or waits to be, and has appended nothing. -/
def Ctx.unissued (x : Ctx) : Bool := x.wait.all Wait.unissued && x.appended == 0

/-- The context stands between a hint and its instruction, which has not been issued and is not waiting to be (R51). -/
def Ctx.amidPair (x : Ctx) : Bool := x.hinted && x.wait.isNone

/-- A context whose hinted instruction has not been issued stands before the pair: nothing lands between the two (R51). -/
def Ctx.beforePair (x : Ctx) : Ctx :=
  if x.hint ≠ Hint.none ∧ x.unissued = true then { x with pc := x.faultPc, hint := Hint.none, wait := none } else x

/-- The context does not advance: its instruction waits and is tried again at its next turn (log entry 8). -/
def State.stall (s : State) (w : Wait) : State :=
  s.updCx fun x =>
    { x with wait := some w,
             st := match w with
               | .queueFull _ | .queueEmpty _ | .phaser _ | .index | .mailbox | .turn | .landing | .proxy => .blocked
               | _ => x.st }

/-- The context has older instructions that have not completed: long-latency results, or the matrix queue (R31, R188). -/
def State.olderPending (s : State) : Bool := !s.cx.late.isEmpty || (s.k == 0 && !s.core.mat.queue.isEmpty)

/-- Trap(cause) of R10 for the instruction of the context whose turn it is: precise, after older instructions completed. -/
def State.trap (s : State) (cause : BitVec 8) (info : Word) : State :=
  if s.olderPending then s.stall .older else s.trapAt s.lcn s.k cause info false s.cx.faultPc

/-- A trap whose tinfo is the instruction word (R30). -/
def State.trapWord (s : State) (cause : BitVec 8) (i : Instr) : State := s.trap cause ((encode i).setWidth 64)

/-- A trap whose return address is the next instruction: cause 0x11 (R31, R95). -/
def State.trapNext (s : State) (cause : BitVec 8) (info : Word) : State :=
  if s.olderPending then s.stall .older else s.trapAt s.lcn s.k cause info false (s.cx.pc + 4)

/-- A cause becomes pending for the control context of a core; one already pending is not posted again (R312). -/
def State.postCause (s : State) (lcn : Nat) (cause : Nat) (info : Word) : State :=
  s.updCoreAt lcn fun c =>
    if (Tab.find? c.pend.causes cause).isSome then c
    else { c with pend := { c.pend with causes := Tab.put c.pend.causes cause info } }

/-! ## Return from an exception (R32, R128) -/

/-- The control context returns through tepc and tstat (R32). -/
def Core.returnControl (c : Core) : Core :=
  { c.updCtx 0 (fun x =>
      { x with pc := BitVec.ofNat 48 (bits (c.reg 0x00A) 2 46 * 4), priv := BitVec.ofNat 2 (bits (c.reg 0x00C) 8 2),
               wait := none, hint := Hint.none, st := .running, retired := x.retired + 1 }) with ta := false }

/-- Return from a helper's trap: the helper resumes through tepc where it is SUSPENDED, the control context through tcpc
(R128). -/
def Core.returnHelper (c : Core) (h : Nat) : Core :=
  let c1 := if 1 ≤ h ∧ h ≤ 10 ∧ (c.ctx h).st = .suspended then
      c.updCtx h fun x =>
        { x with pc := BitVec.ofNat 48 (bits (c.reg 0x00A) 2 46 * 4), priv := BitVec.ofNat 2 (bits (c.reg 0x00C) 8 2),
                 st := .running, wait := none }
    else c
  { c1.updCtx 0 (fun x =>
      { x with pc := BitVec.ofNat 48 (bits (c.reg 0x046) 2 46 * 4), priv := BitVec.ofNat 2 (bits (c.reg 0x046) 48 2),
               wait := none, hint := Hint.none, st := .running, retired := x.retired + 1 }) with ta := false }

/-- The return that tstat.CTX selects. -/
def Core.returnTrap (c : Core) : Core :=
  let h := bits (c.reg 0x00C) 12 4
  if h = 0 then c.returnControl else c.returnHelper h

/-! ## Retiring an instruction (R12, R85) -/

/-- Loop k ends at address e for the level of the context (R85). -/
def Ctx.endsAt (x : Ctx) (e : BitVec 48) (k : Nat) : Bool :=
  let lc := x.reg (0x07A + k)
  let lcb := x.reg (0x07D + k)
  decide (lc ≠ 0) && (decide (b2n (bit lcb 48) = x.priv.toNat) &&
    decide ((bits lcb 2 46 * 4 + 4 * bits lcb 56 8) % 2 ^ 48 = e.toNat))

/-- START of loop k. -/
def Ctx.loopStart (x : Ctx) (k : Nat) : Nat := bits (x.reg (0x07D + k)) 2 46 * 4

/-- The candidate with the greatest START, equal STARTs in the order lc2, lc1, lc0. -/
def Ctx.innermost (x : Ctx) : List Nat → Option Nat
  | [] => none
  | k :: t => match x.innermost t with
    | none => some k
    | some j => if x.loopStart j > x.loopStart k then some j else some k

/-- Loop ends evaluated over the candidates, innermost first: the counters left and the next pc (R85). -/
def Ctx.loopEnds (x : Ctx) (next : BitVec 48) : Nat → List Nat → Ctx × BitVec 48
  | 0, _ => (x, next)
  | n + 1, cands =>
    match x.innermost cands with
    | none => (x, next)
    | some k =>
      let lc := x.reg (0x07A + k)
      if lc.toNat > 1 then (x.setReg (0x07A + k) (lc - 1), BitVec.ofNat 48 (x.loopStart k))
      else (x.setReg (0x07A + k) 0).loopEnds next n (cands.filter (· ≠ k))

/-- The context after its instruction completed without transferring control: loop ends, pc, hints, counts (R12, R85). -/
def Ctx.retire (x : Ctx) : Ctx :=
  let r := x.loopEnds (x.pc + 4) 3 ([2, 1, 0].filter (x.endsAt x.pc))
  { r.1 with pc := r.2, hint := Hint.none, wait := none, appended := 0, retired := x.retired + 1,
             st := if x.st = .blocked then .running else x.st }

/-- The context after its instruction transferred control. -/
def Ctx.jump (x : Ctx) (target : BitVec 48) : Ctx :=
  { x with pc := target, hint := Hint.none, wait := none, retired := x.retired + 1,
           st := if x.st = .blocked then .running else x.st }

/-- The instruction of the context whose turn it is completes without a transfer of control. -/
def State.retire (s : State) : State :=
  s.updCore fun c => (c.updCtx s.k Ctx.retire).countEvent 2 (some s.k) 1

/-- It completes with a transfer of control. -/
def State.jump (s : State) (target : BitVec 48) : State :=
  s.updCore fun c => (c.updCtx s.k (·.jump target)).countEvent 2 (some s.k) 1

end Sys2Proof.Machine
end

