-- ==== Sys2Proof/Machine/Checks.lean ====
section
/-!
DEFINITION. What the checks of an issued instruction look at: its format, privilege, contexts and phase class (R43, R64,
R144), whether HINT.IMM can widen it (R48), whether reduced service withholds it (R390), and the registers it names for the
scoreboard (R44, R45, R280).
-/

namespace Sys2Proof.Machine

/-- The phase classes of R144. -/
inductive PhaseClass where
  | compute | exchange | any
deriving DecidableEq, Repr

/-- What R43, R48, R64 and R144 say of a form. -/
structure Traits where
  /-- Belongs to the control context alone (R43). -/
  controlOnly : Bool
  /-- Needs supervisor level (R64). -/
  supervisor : Bool
  phase : PhaseClass
  /-- HINT.IMM can widen it (R48). -/
  widens : Bool
deriving DecidableEq, Repr

/-- A form legal in every context, at every level and in both phases. -/
def Traits.plain : Traits := { controlOnly := false, supervisor := false, phase := .any, widens := false }

/-- The traits of each instruction; events have none to check. -/
def traits : Instr → Traits
  | .add _ _ _ => Traits.plain
  | .sub _ _ _ => Traits.plain
  | .mul _ _ _ => Traits.plain
  | .mulhS64 _ _ _ => Traits.plain
  | .mulhB64 _ _ _ => Traits.plain
  | .and _ _ _ => Traits.plain
  | .or _ _ _ => Traits.plain
  | .xor _ _ _ => Traits.plain
  | .andn _ _ _ => Traits.plain
  | .shl _ _ _ => Traits.plain
  | .shr _ _ _ => Traits.plain
  | .sar _ _ _ => Traits.plain
  | .slt _ _ _ => Traits.plain
  | .sltb _ _ _ => Traits.plain
  | .minS64 _ _ _ => Traits.plain
  | .minB64 _ _ _ => Traits.plain
  | .maxS64 _ _ _ => Traits.plain
  | .maxB64 _ _ _ => Traits.plain
  | .clz _ _ _ => Traits.plain
  | .ffs _ _ _ => Traits.plain
  | .popcnt _ _ _ => Traits.plain
  | .sel _ _ _ _ => Traits.plain
  | .div _ _ _ _ _ _ => Traits.plain
  | .rem _ _ _ _ _ _ => Traits.plain
  | .addi _ _ _ => { Traits.plain with widens := true }
  | .andi _ _ _ => { Traits.plain with widens := true }
  | .ori _ _ _ => { Traits.plain with widens := true }
  | .xori _ _ _ => { Traits.plain with widens := true }
  | .slti _ _ _ => { Traits.plain with widens := true }
  | .sltbi _ _ _ => { Traits.plain with widens := true }
  | .ldhi _ _ _ => { Traits.plain with widens := true }
  | .shli _ _ _ => Traits.plain
  | .shri _ _ _ => Traits.plain
  | .sari _ _ _ => Traits.plain
  | .fence => Traits.plain
  | .fenceR _ => Traits.plain
  | .fenceA _ => Traits.plain
  | .fenceAr _ => Traits.plain
  | .ldB8 _ _ _ _ => { Traits.plain with widens := true }
  | .ldS8 _ _ _ _ => { Traits.plain with widens := true }
  | .ldB16 _ _ _ _ => { Traits.plain with widens := true }
  | .ldS16 _ _ _ _ => { Traits.plain with widens := true }
  | .ldB32 _ _ _ _ => { Traits.plain with widens := true }
  | .ldS32 _ _ _ _ => { Traits.plain with widens := true }
  | .ldD _ _ _ _ => { Traits.plain with widens := true }
  | .st _ _ _ _ => { Traits.plain with widens := true }
  | .amoadd _ _ _ _ => Traits.plain
  | .amoswap _ _ _ _ => Traits.plain
  | .amocas _ _ _ _ => Traits.plain
  | .amominS _ _ _ _ => Traits.plain
  | .amominB _ _ _ _ => Traits.plain
  | .amomaxS _ _ _ _ => Traits.plain
  | .amomaxB _ _ _ _ => Traits.plain
  | .beq _ _ _ => { Traits.plain with widens := true }
  | .bne _ _ _ => { Traits.plain with widens := true }
  | .blt _ _ _ => { Traits.plain with widens := true }
  | .bge _ _ _ => { Traits.plain with widens := true }
  | .bltb _ _ _ => { Traits.plain with widens := true }
  | .bgeb _ _ _ => { Traits.plain with widens := true }
  | .jal _ => Traits.plain
  | .jr _ _ => Traits.plain
  | .loop _ _ _ => Traits.plain
  | .vld _ _ _ _ _ _ => { Traits.plain with controlOnly := true, phase := .compute }
  | .vst _ _ _ _ => { Traits.plain with controlOnly := true, phase := .compute }
  | .vlds _ _ _ _ _ _ _ => { Traits.plain with controlOnly := true, phase := .compute }
  | .vgath _ _ _ _ _ _ _ => { Traits.plain with controlOnly := true, phase := .compute }
  | .vscat _ _ _ _ _ => { Traits.plain with controlOnly := true, phase := .compute }
  | .vaddInt _ _ _ _ _ _ => { Traits.plain with controlOnly := true, phase := .compute }
  | .vsubInt _ _ _ _ _ _ => { Traits.plain with controlOnly := true, phase := .compute }
  | .vmulInt _ _ _ _ _ _ => { Traits.plain with controlOnly := true, phase := .compute }
  | .vnegInt _ _ _ _ _ => { Traits.plain with controlOnly := true, phase := .compute }
  | .vminS _ _ _ _ _ _ => { Traits.plain with controlOnly := true, phase := .compute }
  | .vminB _ _ _ _ _ _ => { Traits.plain with controlOnly := true, phase := .compute }
  | .vmaxS _ _ _ _ _ _ => { Traits.plain with controlOnly := true, phase := .compute }
  | .vmaxB _ _ _ _ _ _ => { Traits.plain with controlOnly := true, phase := .compute }
  | .vabsInt _ _ _ _ _ => { Traits.plain with controlOnly := true, phase := .compute }
  | .vshl _ _ _ _ _ _ => { Traits.plain with controlOnly := true, phase := .compute }
  | .vshr _ _ _ _ _ _ => { Traits.plain with controlOnly := true, phase := .compute }
  | .vsar _ _ _ _ _ _ => { Traits.plain with controlOnly := true, phase := .compute }
  | .vclz _ _ _ _ _ => { Traits.plain with controlOnly := true, phase := .compute }
  | .vffs _ _ _ _ _ => { Traits.plain with controlOnly := true, phase := .compute }
  | .vpop _ _ _ _ _ => { Traits.plain with controlOnly := true, phase := .compute }
  | .vand _ _ _ _ _ => { Traits.plain with controlOnly := true, phase := .compute }
  | .vor _ _ _ _ _ => { Traits.plain with controlOnly := true, phase := .compute }
  | .vxor _ _ _ _ _ => { Traits.plain with controlOnly := true, phase := .compute }
  | .vandn _ _ _ _ _ => { Traits.plain with controlOnly := true, phase := .compute }
  | .vdivS _ _ _ _ _ _ => { Traits.plain with controlOnly := true, phase := .compute }
  | .vdivB _ _ _ _ _ _ => { Traits.plain with controlOnly := true, phase := .compute }
  | .vremS _ _ _ _ _ _ => { Traits.plain with controlOnly := true, phase := .compute }
  | .vremB _ _ _ _ _ _ => { Traits.plain with controlOnly := true, phase := .compute }
  | .vaddF _ _ _ _ _ _ => { Traits.plain with controlOnly := true, phase := .compute }
  | .vsubF _ _ _ _ _ _ => { Traits.plain with controlOnly := true, phase := .compute }
  | .vmulF _ _ _ _ _ _ => { Traits.plain with controlOnly := true, phase := .compute }
  | .vfma _ _ _ _ _ _ => { Traits.plain with controlOnly := true, phase := .compute }
  | .vminF _ _ _ _ _ _ => { Traits.plain with controlOnly := true, phase := .compute }
  | .vmaxF _ _ _ _ _ _ => { Traits.plain with controlOnly := true, phase := .compute }
  | .vabsF _ _ _ _ _ => { Traits.plain with controlOnly := true, phase := .compute }
  | .vnegF _ _ _ _ _ => { Traits.plain with controlOnly := true, phase := .compute }
  | .vcmpS _ _ _ _ _ _ _ => { Traits.plain with controlOnly := true, phase := .compute }
  | .vcmpB _ _ _ _ _ _ _ => { Traits.plain with controlOnly := true, phase := .compute }
  | .vcmpF _ _ _ _ _ _ _ => { Traits.plain with controlOnly := true, phase := .compute }
  | .vsel _ _ _ _ => { Traits.plain with controlOnly := true, phase := .compute }
  | .vexp2 _ _ _ _ _ _ => { Traits.plain with controlOnly := true, phase := .compute }
  | .vlog2 _ _ _ _ _ _ => { Traits.plain with controlOnly := true, phase := .compute }
  | .vrcp _ _ _ _ _ _ => { Traits.plain with controlOnly := true, phase := .compute }
  | .vrsq _ _ _ _ _ _ => { Traits.plain with controlOnly := true, phase := .compute }
  | .vtanh _ _ _ _ _ _ => { Traits.plain with controlOnly := true, phase := .compute }
  | .vgelu _ _ _ _ _ _ => { Traits.plain with controlOnly := true, phase := .compute }
  | .vcvt _ _ _ _ _ _ _ => { Traits.plain with controlOnly := true, phase := .compute }
  | .vpack _ _ _ => { Traits.plain with controlOnly := true, phase := .compute }
  | .vunpack _ _ _ => { Traits.plain with controlOnly := true, phase := .compute }
  | .vdot _ _ _ _ _ _ => { Traits.plain with controlOnly := true, phase := .compute }
  | .vperm _ _ _ _ _ => { Traits.plain with controlOnly := true, phase := .compute }
  | .vred _ _ _ _ _ => { Traits.plain with controlOnly := true, phase := .compute }
  | .vmatchB32 _ _ _ => { Traits.plain with controlOnly := true, phase := .compute }
  | .vmatchB64 _ _ _ => { Traits.plain with controlOnly := true, phase := .compute }
  | .vhaarF _ _ _ _ => { Traits.plain with controlOnly := true, phase := .compute }
  | .vhaarFL _ _ _ => { Traits.plain with controlOnly := true, phase := .compute }
  | .vhaarI _ _ _ _ => { Traits.plain with controlOnly := true, phase := .compute }
  | .vhaarIL _ _ _ => { Traits.plain with controlOnly := true, phase := .compute }
  | .vsca _ _ _ _ => { Traits.plain with controlOnly := true, phase := .compute }
  | .vtag _ _ _ => { Traits.plain with controlOnly := true, phase := .compute }
  | .vbcast _ _ _ _ => { Traits.plain with controlOnly := true, phase := .compute }
  | .vext _ _ _ => { Traits.plain with controlOnly := true, phase := .compute }
  | .vwhile _ _ _ _ => { Traits.plain with controlOnly := true, phase := .compute }
  | .vlq _ => { Traits.plain with controlOnly := true, phase := .compute }
  | .mma _ _ _ _ _ _ _ _ => { Traits.plain with controlOnly := true, phase := .compute }
  | .mmaz _ _ _ _ _ _ _ _ => { Traits.plain with controlOnly := true, phase := .compute }
  | .msca _ _ _ _ _ _ => { Traits.plain with controlOnly := true, phase := .compute }
  | .mdrain _ _ _ _ _ => { Traits.plain with controlOnly := true, phase := .compute }
  | .mldacc _ _ _ => { Traits.plain with controlOnly := true, phase := .compute }
  | .mzero _ _ => { Traits.plain with controlOnly := true, phase := .compute }
  | .mmovvToV _ _ _ _ => { Traits.plain with controlOnly := true, phase := .compute }
  | .mmovvToAcc _ _ _ _ => { Traits.plain with controlOnly := true, phase := .compute }
  | .mtag _ _ _ => { Traits.plain with controlOnly := true, phase := .compute }
  | .cbload _ _ _ _ => { Traits.plain with controlOnly := true, phase := .compute }
  | .cpy _ _ _ _ => { Traits.plain with phase := .compute }
  | .cpyv _ _ _ => { Traits.plain with phase := .compute }
  | .fill _ _ _ _ => { Traits.plain with phase := .compute }
  | .sbind _ _ _ => { Traits.plain with controlOnly := true, phase := .compute }
  | .sunbind _ => { Traits.plain with controlOnly := true, phase := .compute }
  | .xput _ _ _ _ _ => { Traits.plain with phase := .exchange }
  | .xget _ _ _ _ _ => { Traits.plain with phase := .exchange }
  | .xadd _ _ _ _ _ _ => { Traits.plain with phase := .exchange }
  | .xmin _ _ _ _ _ _ => { Traits.plain with phase := .exchange }
  | .xmax _ _ _ _ _ _ => { Traits.plain with phase := .exchange }
  | .xcas _ _ _ _ _ _ => { Traits.plain with phase := .exchange }
  | .xflag _ _ _ _ => { Traits.plain with phase := .exchange }
  | .xtask _ _ _ _ => { Traits.plain with phase := .exchange }
  | .xexpect _ _ => Traits.plain
  | .xwait _ => { Traits.plain with phase := .exchange }
  | .gets _ _ => Traits.plain
  | .sets _ _ => Traits.plain
  | .callsv _ => Traits.plain
  | .rett => { Traits.plain with controlOnly := true, supervisor := true }
  | .halt => { Traits.plain with supervisor := true }
  | .hstart _ _ _ => { Traits.plain with controlOnly := true }
  | .hexit => Traits.plain
  | .grid _ => { Traits.plain with controlOnly := true, phase := .exchange }
  | .gnext _ => { Traits.plain with controlOnly := true, phase := .compute }
  | .graise _ _ => { Traits.plain with phase := .compute }
  | .gkill => { Traits.plain with controlOnly := true, supervisor := true, phase := .compute }
  | .stepX => { Traits.plain with controlOnly := true, phase := .compute }
  | .stepC => { Traits.plain with controlOnly := true, phase := .exchange }
  | .phreg _ _ => { Traits.plain with phase := .compute }
  | .phdrop _ => { Traits.plain with phase := .compute }
  | .phsig _ => { Traits.plain with phase := .compute }
  | .phwait _ => { Traits.plain with phase := .compute }
  | .phnext _ => { Traits.plain with phase := .compute }
  | .qpush _ _ => Traits.plain
  | .qpop _ _ => Traits.plain
  | .sdrain => Traits.plain
  | .tlbinvVa _ _ => { Traits.plain with supervisor := true }
  | .tlbinvAsid _ => { Traits.plain with supervisor := true }
  | .tlbinvPart => { Traits.plain with supervisor := true }
  | .tlbretire _ => { Traits.plain with supervisor := true }
  | .capmint _ _ => { Traits.plain with supervisor := true }
  | .hintImm _ => Traits.plain
  | .hintMod _ => Traits.plain
  | .hintPri _ _ _ => Traits.plain
  | .trapEntry _ _ _ _ => Traits.plain
  | .helperTrapEntry _ => Traits.plain
  | .impreciseTrapTaken _ => Traits.plain
  | .flaguUpdate _ => Traits.plain
  | .hintPriExpiry _ _ => Traits.plain
  | .coreReset _ => Traits.plain
  | .moduleReset => Traits.plain
  | .helperKill _ _ => Traits.plain
  | .queueOverflowOrUnderflow _ _ => Traits.plain
  | .drectWrite _ _ _ => Traits.plain
  | .dmemWrite _ _ => Traits.plain
  | .computeBudgetSpent _ => Traits.plain
  | .exchangeBudgetSpent _ => Traits.plain
  | .exchangeWindowOpen => Traits.plain
  | .computeWindowOpen => Traits.plain
  | .gangEnd _ => Traits.plain
  | .matrixQueuePerform _ => Traits.plain
  | .governorWindowStart _ => Traits.plain
  | .mgovWrite _ _ => Traits.plain
  | .pageWalk _ _ => Traits.plain
  | .belfryReply _ _ _ _ => Traits.plain
  | .storeDrain _ => Traits.plain
  | .sfqPop _ => Traits.plain
  | .sbstHoldClear _ => Traits.plain
  | .xlatWrite _ _ => Traits.plain
  | .pspaceWrite _ _ => Traits.plain
  | .migrationStart _ _ _ _ _ => Traits.plain
  | .migrationLineCopy _ => Traits.plain
  | .migrationRemove _ => Traits.plain
  | .combiningLineArrival _ => Traits.plain
  | .xputPacketArrival _ _ _ => Traits.plain
  | .xgetRequestArrival _ _ => Traits.plain
  | .xcasArrival _ _ => Traits.plain
  | .xflagArrival _ _ => Traits.plain
  | .taskArrival _ _ => Traits.plain
  | .transferEnd _ _ => Traits.plain
  | .engineTransferBegin _ _ => Traits.plain
  | .streamFetch _ _ => Traits.plain
  | .lndWrite _ _ _ => Traits.plain
  | .proxyRequest _ => Traits.plain
  | .proxyHomeOperation _ => Traits.plain
  | .proxyResponse _ => Traits.plain
  | .relayReinject _ _ => Traits.plain
  | .twinPairMatch _ _ => Traits.plain
  | .uncorrectableErrorConsumed _ _ _ _ => Traits.plain
  | .rollback _ => Traits.plain
  | .preemptRequest _ _ => Traits.plain
  | .preemptSave _ => Traits.plain
  | .preemptRestore _ => Traits.plain
  | .towerRetire _ => Traits.plain
  | .mapGenerationIssue _ => Traits.plain
  | .dump _ _ => Traits.plain
  | .testPackage _ => Traits.plain
  | .registerWrite _ _ _ _ _ => Traits.plain
  | .stopDomainRequest _ => Traits.plain
  | .stopGangRequest _ => Traits.plain
  | .preciseStopRequest _ _ => Traits.plain
  | .resume _ => Traits.plain
  | .singleStep _ _ _ => Traits.plain
  | .stepEnd _ => Traits.plain
  | .stopTrigger _ => Traits.plain
  | .debugHalt _ => Traits.plain
  | .moduleStop => Traits.plain
  | .moduleStopEnd => Traits.plain
  | .counterSample _ => Traits.plain
  | .ringTestInject _ _ => Traits.plain
  | .nsvalWrite _ _ _ => Traits.plain
  | .turretSeedStart _ => Traits.plain
  | .wavefrontArrival _ => Traits.plain
  | .clockLock _ _ => Traits.plain
  | .configurationArrival _ => Traits.plain
  | .selfTestEnd _ _ => Traits.plain
  | .bondDecision _ _ _ => Traits.plain
  | .bondTimeout _ _ => Traits.plain
  | .enterLinked _ => Traits.plain
  | .enterServingReduced _ => Traits.plain
  | .fullServiceDecision => Traits.plain
  | .fullServiceRaise => Traits.plain
  | .powerCapSet _ => Traits.plain
  | .rateLowering _ _ => Traits.plain
  | .thermalThrottle _ _ _ => Traits.plain
  | .doorbellTailWrite _ _ => Traits.plain
  | .doorbellSizeWrite _ _ _ => Traits.plain
  | .queueEntryAccept _ => Traits.plain
  | .launchStart _ => Traits.plain
  | .hostCopy _ => Traits.plain
  | .gcbPreempt _ => Traits.plain
  | .gcbRestore _ => Traits.plain
  | .gcbKill _ => Traits.plain
  | .faultAgentMessage _ => Traits.plain
  | .eventAnswer _ _ _ => Traits.plain
  | .faultTimeout _ _ => Traits.plain
  | .partitionCreate _ => Traits.plain
  | .partitionDestroy _ => Traits.plain
  | .towerAssign _ _ _ => Traits.plain
  | .imageRegister _ _ _ => Traits.plain
  | .attest _ _ => Traits.plain
  | .windowGroupToken _ => Traits.plain
  | .groupMemberRemove _ _ => Traits.plain
  | .longLatencyCompletion _ _ => Traits.plain
  | .ringTestFlitDelivery _ => Traits.plain
  | .moduleLinkDown _ => Traits.plain
  | .linkWindowSetup _ _ _ _ => Traits.plain

/-- The g registers an instruction names as source or destination. -/
def gUses : Instr → List (BitVec 5)
  | .add d a b => [d, a, b]
  | .sub d a b => [d, a, b]
  | .mul d a b => [d, a, b]
  | .mulhS64 d a b => [d, a, b]
  | .mulhB64 d a b => [d, a, b]
  | .and d a b => [d, a, b]
  | .or d a b => [d, a, b]
  | .xor d a b => [d, a, b]
  | .andn d a b => [d, a, b]
  | .shl d a b => [d, a, b]
  | .shr d a b => [d, a, b]
  | .sar d a b => [d, a, b]
  | .slt d a b => [d, a, b]
  | .sltb d a b => [d, a, b]
  | .minS64 d a b => [d, a, b]
  | .minB64 d a b => [d, a, b]
  | .maxS64 d a b => [d, a, b]
  | .maxB64 d a b => [d, a, b]
  | .clz d a _ => [d, a]
  | .ffs d a _ => [d, a]
  | .popcnt d a _ => [d, a]
  | .sel d a b c => [d, a, b, c]
  | .div d a b _ _ _ => [d, a, b]
  | .rem d a b _ _ _ => [d, a, b]
  | .addi d a _ => [d, a]
  | .andi d a _ => [d, a]
  | .ori d a _ => [d, a]
  | .xori d a _ => [d, a]
  | .slti d a _ => [d, a]
  | .sltbi d a _ => [d, a]
  | .ldhi d a _ => [d, a]
  | .shli d a _ => [d, a]
  | .shri d a _ => [d, a]
  | .sari d a _ => [d, a]
  | .fence => []
  | .fenceR a => [a]
  | .fenceA a => [a]
  | .fenceAr a => [a]
  | .ldB8 d a _ _ => [d, a]
  | .ldS8 d a _ _ => [d, a]
  | .ldB16 d a _ _ => [d, a]
  | .ldS16 d a _ _ => [d, a]
  | .ldB32 d a _ _ => [d, a]
  | .ldS32 d a _ _ => [d, a]
  | .ldD d a _ _ => [d, a]
  | .st d a _ _ => [d, a]
  | .amoadd d a _ b => [d, a, b]
  | .amoswap d a _ b => [d, a, b]
  | .amocas d a _ b => [d, a, b]
  | .amominS d a _ b => [d, a, b]
  | .amominB d a _ b => [d, a, b]
  | .amomaxS d a _ b => [d, a, b]
  | .amomaxB d a _ b => [d, a, b]
  | .beq a b _ => [a, b]
  | .bne a b _ => [a, b]
  | .blt a b _ => [a, b]
  | .bge a b _ => [a, b]
  | .bltb a b _ => [a, b]
  | .bgeb a b _ => [a, b]
  | .jal _ => [31#5]
  | .jr d a => [d, a]
  | .loop _ a _ => [a]
  | .vld _ a _ _ _ _ => [g6 a]
  | .vst _ a _ _ => [g6 a]
  | .vlds _ a b _ _ _ _ => [g6 a, g6 b]
  | .vgath _ a _ _ _ _ _ => [g6 a]
  | .vscat _ a _ _ _ => [g6 a]
  | .vaddInt _ _ _ _ _ _ => []
  | .vsubInt _ _ _ _ _ _ => []
  | .vmulInt _ _ _ _ _ _ => []
  | .vnegInt _ _ _ _ _ => []
  | .vminS _ _ _ _ _ _ => []
  | .vminB _ _ _ _ _ _ => []
  | .vmaxS _ _ _ _ _ _ => []
  | .vmaxB _ _ _ _ _ _ => []
  | .vabsInt _ _ _ _ _ => []
  | .vshl _ _ _ _ _ _ => []
  | .vshr _ _ _ _ _ _ => []
  | .vsar _ _ _ _ _ _ => []
  | .vclz _ _ _ _ _ => []
  | .vffs _ _ _ _ _ => []
  | .vpop _ _ _ _ _ => []
  | .vand _ _ _ _ _ => []
  | .vor _ _ _ _ _ => []
  | .vxor _ _ _ _ _ => []
  | .vandn _ _ _ _ _ => []
  | .vdivS _ _ _ _ _ _ => []
  | .vdivB _ _ _ _ _ _ => []
  | .vremS _ _ _ _ _ _ => []
  | .vremB _ _ _ _ _ _ => []
  | .vaddF _ _ _ _ _ _ => []
  | .vsubF _ _ _ _ _ _ => []
  | .vmulF _ _ _ _ _ _ => []
  | .vfma _ _ _ _ _ _ => []
  | .vminF _ _ _ _ _ _ => []
  | .vmaxF _ _ _ _ _ _ => []
  | .vabsF _ _ _ _ _ => []
  | .vnegF _ _ _ _ _ => []
  | .vcmpS _ _ _ _ _ _ _ => []
  | .vcmpB _ _ _ _ _ _ _ => []
  | .vcmpF _ _ _ _ _ _ _ => []
  | .vsel _ _ _ _ => []
  | .vexp2 _ _ _ _ _ _ => []
  | .vlog2 _ _ _ _ _ _ => []
  | .vrcp _ _ _ _ _ _ => []
  | .vrsq _ _ _ _ _ _ => []
  | .vtanh _ _ _ _ _ _ => []
  | .vgelu _ _ _ _ _ _ => []
  | .vcvt _ _ _ _ _ _ _ => []
  | .vpack _ _ _ => []
  | .vunpack _ _ _ => []
  | .vdot _ _ _ _ _ _ => []
  | .vperm _ _ _ _ _ => []
  | .vred _ _ _ _ _ => []
  | .vmatchB32 _ _ _ => []
  | .vmatchB64 _ _ _ => []
  | .vhaarF _ _ _ _ => []
  | .vhaarFL _ _ _ => []
  | .vhaarI _ _ _ _ => []
  | .vhaarIL _ _ _ => []
  | .vsca _ _ _ _ => []
  | .vtag _ _ _ => []
  | .vbcast _ a _ _ => [g6 a]
  | .vext d _ _ => [g6 d]
  | .vwhile _ a b _ => [g6 a, g6 b]
  | .vlq d => [g6 d]
  | .mma _ _ a b g h _ _ => (if g = 1 then [] else [a, pairHi a]) ++ (if h = 1 then [] else [b, pairHi b])
  | .mmaz _ _ a b g h _ _ => (if g = 1 then [] else [a, pairHi a]) ++ (if h = 1 then [] else [b, pairHi b])
  | .msca _ _ a _ k _ => if k = 0 then [a] else []
  | .mdrain _ _ a b _ => [a, pairHi a, b]
  | .mldacc _ _ a => [a, pairHi a]
  | .mzero _ _ => []
  | .mmovvToV _ _ _ b => [b]
  | .mmovvToAcc _ _ _ b => [b]
  | .mtag _ _ a => [a]
  | .cbload _ a _ _ => [a]
  | .cpy _ t a b => [t, a, b]
  | .cpyv _ t a => [t, a]
  | .fill _ t a b => [t, a, b]
  | .sbind _ _ a => [a]
  | .sunbind _ => []
  | .xput _ t a b _ => [t, a, pairHi a, b]
  | .xget _ t a b _ => [t, a, pairHi a, b]
  | .xadd _ t a b _ _ => [t, a, pairHi a, b]
  | .xmin _ t a b _ _ => [t, a, pairHi a, b]
  | .xmax _ t a b _ _ => [t, a, pairHi a, b]
  | .xcas _ t a b _ _ => [t, a, pairHi a, b]
  | .xflag _ t a b => [t, a, pairHi a, b]
  | .xtask _ t a b => [t, a, pairHi a, b]
  | .xexpect a _ => [a]
  | .xwait _ => []
  | .gets d _ => [d]
  | .sets d _ => [d]
  | .callsv _ => []
  | .rett => []
  | .halt => []
  | .hstart d a b => [d, a, b]
  | .hexit => []
  | .grid a => [a]
  | .gnext d => [d]
  | .graise d a => [d, a]
  | .gkill => []
  | .stepX => []
  | .stepC => []
  | .phreg _ _ => []
  | .phdrop _ => []
  | .phsig _ => []
  | .phwait _ => []
  | .phnext _ => []
  | .qpush a _ => [a]
  | .qpop d _ => [d]
  | .sdrain => []
  | .tlbinvVa a b => [a, b]
  | .tlbinvAsid b => [b]
  | .tlbinvPart => []
  | .tlbretire a => [a]
  | .capmint d a => [d, a]
  | .hintImm _ => []
  | .hintMod _ => []
  | .hintPri _ _ _ => []
  | .trapEntry _ _ _ _ => []
  | .helperTrapEntry _ => []
  | .impreciseTrapTaken _ => []
  | .flaguUpdate _ => []
  | .hintPriExpiry _ _ => []
  | .coreReset _ => []
  | .moduleReset => []
  | .helperKill _ _ => []
  | .queueOverflowOrUnderflow _ _ => []
  | .drectWrite _ _ _ => []
  | .dmemWrite _ _ => []
  | .computeBudgetSpent _ => []
  | .exchangeBudgetSpent _ => []
  | .exchangeWindowOpen => []
  | .computeWindowOpen => []
  | .gangEnd _ => []
  | .matrixQueuePerform _ => []
  | .governorWindowStart _ => []
  | .mgovWrite _ _ => []
  | .pageWalk _ _ => []
  | .belfryReply _ _ _ _ => []
  | .storeDrain _ => []
  | .sfqPop _ => []
  | .sbstHoldClear _ => []
  | .xlatWrite _ _ => []
  | .pspaceWrite _ _ => []
  | .migrationStart _ _ _ _ _ => []
  | .migrationLineCopy _ => []
  | .migrationRemove _ => []
  | .combiningLineArrival _ => []
  | .xputPacketArrival _ _ _ => []
  | .xgetRequestArrival _ _ => []
  | .xcasArrival _ _ => []
  | .xflagArrival _ _ => []
  | .taskArrival _ _ => []
  | .transferEnd _ _ => []
  | .engineTransferBegin _ _ => []
  | .streamFetch _ _ => []
  | .lndWrite _ _ _ => []
  | .proxyRequest _ => []
  | .proxyHomeOperation _ => []
  | .proxyResponse _ => []
  | .relayReinject _ _ => []
  | .twinPairMatch _ _ => []
  | .uncorrectableErrorConsumed _ _ _ _ => []
  | .rollback _ => []
  | .preemptRequest _ _ => []
  | .preemptSave _ => []
  | .preemptRestore _ => []
  | .towerRetire _ => []
  | .mapGenerationIssue _ => []
  | .dump _ _ => []
  | .testPackage _ => []
  | .registerWrite _ _ _ _ _ => []
  | .stopDomainRequest _ => []
  | .stopGangRequest _ => []
  | .preciseStopRequest _ _ => []
  | .resume _ => []
  | .singleStep _ _ _ => []
  | .stepEnd _ => []
  | .stopTrigger _ => []
  | .debugHalt _ => []
  | .moduleStop => []
  | .moduleStopEnd => []
  | .counterSample _ => []
  | .ringTestInject _ _ => []
  | .nsvalWrite _ _ _ => []
  | .turretSeedStart _ => []
  | .wavefrontArrival _ => []
  | .clockLock _ _ => []
  | .configurationArrival _ => []
  | .selfTestEnd _ _ => []
  | .bondDecision _ _ _ => []
  | .bondTimeout _ _ => []
  | .enterLinked _ => []
  | .enterServingReduced _ => []
  | .fullServiceDecision => []
  | .fullServiceRaise => []
  | .powerCapSet _ => []
  | .rateLowering _ _ => []
  | .thermalThrottle _ _ _ => []
  | .doorbellTailWrite _ _ => []
  | .doorbellSizeWrite _ _ _ => []
  | .queueEntryAccept _ => []
  | .launchStart _ => []
  | .hostCopy _ => []
  | .gcbPreempt _ => []
  | .gcbRestore _ => []
  | .gcbKill _ => []
  | .faultAgentMessage _ => []
  | .eventAnswer _ _ _ => []
  | .faultTimeout _ _ => []
  | .partitionCreate _ => []
  | .partitionDestroy _ => []
  | .towerAssign _ _ _ => []
  | .imageRegister _ _ _ => []
  | .attest _ _ => []
  | .windowGroupToken _ => []
  | .groupMemberRemove _ _ => []
  | .longLatencyCompletion _ _ => []
  | .ringTestFlitDelivery _ => []
  | .moduleLinkDown _ => []
  | .linkWindowSetup _ _ _ _ => []

/-- The registers of a vector group (R192). -/
def groupRegs (r : BitVec 5) : List (BitVec 6) := (List.range 8).map fun j => BitVec.ofNat 6 (r.toNat + j)

/-- The vector operand numbers an instruction names as source or destination. -/
def vUses : Instr → List (BitVec 6)
  | .add _ _ _ => []
  | .sub _ _ _ => []
  | .mul _ _ _ => []
  | .mulhS64 _ _ _ => []
  | .mulhB64 _ _ _ => []
  | .and _ _ _ => []
  | .or _ _ _ => []
  | .xor _ _ _ => []
  | .andn _ _ _ => []
  | .shl _ _ _ => []
  | .shr _ _ _ => []
  | .sar _ _ _ => []
  | .slt _ _ _ => []
  | .sltb _ _ _ => []
  | .minS64 _ _ _ => []
  | .minB64 _ _ _ => []
  | .maxS64 _ _ _ => []
  | .maxB64 _ _ _ => []
  | .clz _ _ _ => []
  | .ffs _ _ _ => []
  | .popcnt _ _ _ => []
  | .sel _ _ _ _ => []
  | .div _ _ _ _ _ _ => []
  | .rem _ _ _ _ _ _ => []
  | .addi _ _ _ => []
  | .andi _ _ _ => []
  | .ori _ _ _ => []
  | .xori _ _ _ => []
  | .slti _ _ _ => []
  | .sltbi _ _ _ => []
  | .ldhi _ _ _ => []
  | .shli _ _ _ => []
  | .shri _ _ _ => []
  | .sari _ _ _ => []
  | .fence => []
  | .fenceR _ => []
  | .fenceA _ => []
  | .fenceAr _ => []
  | .ldB8 _ _ _ _ => []
  | .ldS8 _ _ _ _ => []
  | .ldB16 _ _ _ _ => []
  | .ldS16 _ _ _ _ => []
  | .ldB32 _ _ _ _ => []
  | .ldS32 _ _ _ _ => []
  | .ldD _ _ _ _ => []
  | .st _ _ _ _ => []
  | .amoadd _ _ _ _ => []
  | .amoswap _ _ _ _ => []
  | .amocas _ _ _ _ => []
  | .amominS _ _ _ _ => []
  | .amominB _ _ _ _ => []
  | .amomaxS _ _ _ _ => []
  | .amomaxB _ _ _ _ => []
  | .beq _ _ _ => []
  | .bne _ _ _ => []
  | .blt _ _ _ => []
  | .bge _ _ _ => []
  | .bltb _ _ _ => []
  | .bgeb _ _ _ => []
  | .jal _ => []
  | .jr _ _ => []
  | .loop _ _ _ => []
  | .vld d _ b _ _ _ => [d, b]
  | .vst d _ b _ => [d, b]
  | .vlds d _ _ _ _ _ _ => [d]
  | .vgath d _ b _ _ _ _ => [d, b]
  | .vscat d _ b _ _ => [d, b]
  | .vaddInt d a b _ _ _ => [d, a, b]
  | .vsubInt d a b _ _ _ => [d, a, b]
  | .vmulInt d a b _ _ _ => [d, a, b]
  | .vnegInt d a _ _ _ => [d, a]
  | .vminS d a b _ _ _ => [d, a, b]
  | .vminB d a b _ _ _ => [d, a, b]
  | .vmaxS d a b _ _ _ => [d, a, b]
  | .vmaxB d a b _ _ _ => [d, a, b]
  | .vabsInt d a _ _ _ => [d, a]
  | .vshl d a b _ _ _ => [d, a, b]
  | .vshr d a b _ _ _ => [d, a, b]
  | .vsar d a b _ _ _ => [d, a, b]
  | .vclz d a _ _ _ => [d, a]
  | .vffs d a _ _ _ => [d, a]
  | .vpop d a _ _ _ => [d, a]
  | .vand d a b _ _ => [d, a, b]
  | .vor d a b _ _ => [d, a, b]
  | .vxor d a b _ _ => [d, a, b]
  | .vandn d a b _ _ => [d, a, b]
  | .vdivS d a _ _ _ _ => [d, a]
  | .vdivB d a _ _ _ _ => [d, a]
  | .vremS d a _ _ _ _ => [d, a]
  | .vremB d a _ _ _ _ => [d, a]
  | .vaddF d a b _ _ _ => [d, a, b]
  | .vsubF d a b _ _ _ => [d, a, b]
  | .vmulF d a b _ _ _ => [d, a, b]
  | .vfma d a b _ _ _ => [d, a, b]
  | .vminF d a b _ _ _ => [d, a, b]
  | .vmaxF d a b _ _ _ => [d, a, b]
  | .vabsF d a _ _ _ => [d, a]
  | .vnegF d a _ _ _ => [d, a]
  | .vcmpS _ _ a b _ _ _ => [a, b]
  | .vcmpB _ _ a b _ _ _ => [a, b]
  | .vcmpF _ _ a b _ _ _ => [a, b]
  | .vsel d a b _ => [d, a, b]
  | .vexp2 d a _ _ _ _ => [d, a]
  | .vlog2 d a _ _ _ _ => [d, a]
  | .vrcp d a _ _ _ _ => [d, a]
  | .vrsq d a _ _ _ _ => [d, a]
  | .vtanh d a _ _ _ _ => [d, a]
  | .vgelu d a _ _ _ _ => [d, a]
  | .vcvt d a _ _ _ _ _ => [d, a]
  | .vpack d a _ => [d, a]
  | .vunpack d a _ => [d, a]
  | .vdot d a b _ _ _ => [d, a, b]
  | .vperm d a b _ _ => [d, a, b]
  | .vred d a _ _ _ => [d, a]
  | .vmatchB32 d a _ => [d, a]
  | .vmatchB64 d a _ => [d, a]
  | .vhaarF d a b _ => [d, (d + 1), a, b]
  | .vhaarFL d a _ => [d, a]
  | .vhaarI d a b _ => [d, (d + 1), a, b]
  | .vhaarIL d a _ => [d, a]
  | .vsca d a b _ => [d, a, b]
  | .vtag d a _ => [d, a]
  | .vbcast d _ _ _ => [d]
  | .vext _ a _ => [a]
  | .vwhile _ _ _ _ => []
  | .vlq _ => []
  | .mma _ _ a b g h _ _ => (if g = 1 then groupRegs a else []) ++ (if h = 1 then groupRegs b else [])
  | .mmaz _ _ a b g h _ _ => (if g = 1 then groupRegs a else []) ++ (if h = 1 then groupRegs b else [])
  | .msca _ _ a b k _ => if k = 0 then [] else if k = 3 then [a.setWidth 6, b.setWidth 6] else [a.setWidth 6]
  | .mdrain _ _ _ _ _ => []
  | .mldacc _ _ _ => []
  | .mzero _ _ => []
  | .mmovvToV _ _ a _ => [a.setWidth 6]
  | .mmovvToAcc _ _ a _ => [a.setWidth 6]
  | .mtag _ _ _ => []
  | .cbload _ _ _ _ => []
  | .cpy _ _ _ _ => []
  | .cpyv _ _ _ => []
  | .fill _ _ _ _ => []
  | .sbind _ _ _ => []
  | .sunbind _ => []
  | .xput _ _ _ _ _ => []
  | .xget _ _ _ _ _ => []
  | .xadd _ _ _ _ _ _ => []
  | .xmin _ _ _ _ _ _ => []
  | .xmax _ _ _ _ _ _ => []
  | .xcas _ _ _ _ _ _ => []
  | .xflag _ _ _ _ => []
  | .xtask _ _ _ _ => []
  | .xexpect _ _ => []
  | .xwait _ => []
  | .gets _ _ => []
  | .sets _ _ => []
  | .callsv _ => []
  | .rett => []
  | .halt => []
  | .hstart _ _ _ => []
  | .hexit => []
  | .grid _ => []
  | .gnext _ => []
  | .graise _ _ => []
  | .gkill => []
  | .stepX => []
  | .stepC => []
  | .phreg _ _ => []
  | .phdrop _ => []
  | .phsig _ => []
  | .phwait _ => []
  | .phnext _ => []
  | .qpush _ _ => []
  | .qpop _ _ => []
  | .sdrain => []
  | .tlbinvVa _ _ => []
  | .tlbinvAsid _ => []
  | .tlbinvPart => []
  | .tlbretire _ => []
  | .capmint _ _ => []
  | .hintImm _ => []
  | .hintMod _ => []
  | .hintPri _ _ _ => []
  | .trapEntry _ _ _ _ => []
  | .helperTrapEntry _ => []
  | .impreciseTrapTaken _ => []
  | .flaguUpdate _ => []
  | .hintPriExpiry _ _ => []
  | .coreReset _ => []
  | .moduleReset => []
  | .helperKill _ _ => []
  | .queueOverflowOrUnderflow _ _ => []
  | .drectWrite _ _ _ => []
  | .dmemWrite _ _ => []
  | .computeBudgetSpent _ => []
  | .exchangeBudgetSpent _ => []
  | .exchangeWindowOpen => []
  | .computeWindowOpen => []
  | .gangEnd _ => []
  | .matrixQueuePerform _ => []
  | .governorWindowStart _ => []
  | .mgovWrite _ _ => []
  | .pageWalk _ _ => []
  | .belfryReply _ _ _ _ => []
  | .storeDrain _ => []
  | .sfqPop _ => []
  | .sbstHoldClear _ => []
  | .xlatWrite _ _ => []
  | .pspaceWrite _ _ => []
  | .migrationStart _ _ _ _ _ => []
  | .migrationLineCopy _ => []
  | .migrationRemove _ => []
  | .combiningLineArrival _ => []
  | .xputPacketArrival _ _ _ => []
  | .xgetRequestArrival _ _ => []
  | .xcasArrival _ _ => []
  | .xflagArrival _ _ => []
  | .taskArrival _ _ => []
  | .transferEnd _ _ => []
  | .engineTransferBegin _ _ => []
  | .streamFetch _ _ => []
  | .lndWrite _ _ _ => []
  | .proxyRequest _ => []
  | .proxyHomeOperation _ => []
  | .proxyResponse _ => []
  | .relayReinject _ _ => []
  | .twinPairMatch _ _ => []
  | .uncorrectableErrorConsumed _ _ _ _ => []
  | .rollback _ => []
  | .preemptRequest _ _ => []
  | .preemptSave _ => []
  | .preemptRestore _ => []
  | .towerRetire _ => []
  | .mapGenerationIssue _ => []
  | .dump _ _ => []
  | .testPackage _ => []
  | .registerWrite _ _ _ _ _ => []
  | .stopDomainRequest _ => []
  | .stopGangRequest _ => []
  | .preciseStopRequest _ _ => []
  | .resume _ => []
  | .singleStep _ _ _ => []
  | .stepEnd _ => []
  | .stopTrigger _ => []
  | .debugHalt _ => []
  | .moduleStop => []
  | .moduleStopEnd => []
  | .counterSample _ => []
  | .ringTestInject _ _ => []
  | .nsvalWrite _ _ _ => []
  | .turretSeedStart _ => []
  | .wavefrontArrival _ => []
  | .clockLock _ _ => []
  | .configurationArrival _ => []
  | .selfTestEnd _ _ => []
  | .bondDecision _ _ _ => []
  | .bondTimeout _ _ => []
  | .enterLinked _ => []
  | .enterServingReduced _ => []
  | .fullServiceDecision => []
  | .fullServiceRaise => []
  | .powerCapSet _ => []
  | .rateLowering _ _ => []
  | .thermalThrottle _ _ _ => []
  | .doorbellTailWrite _ _ => []
  | .doorbellSizeWrite _ _ _ => []
  | .queueEntryAccept _ => []
  | .launchStart _ => []
  | .hostCopy _ => []
  | .gcbPreempt _ => []
  | .gcbRestore _ => []
  | .gcbKill _ => []
  | .faultAgentMessage _ => []
  | .eventAnswer _ _ _ => []
  | .faultTimeout _ _ => []
  | .partitionCreate _ => []
  | .partitionDestroy _ => []
  | .towerAssign _ _ _ => []
  | .imageRegister _ _ _ => []
  | .attest _ _ => []
  | .windowGroupToken _ => []
  | .groupMemberRemove _ _ => []
  | .longLatencyCompletion _ _ => []
  | .ringTestFlitDelivery _ => []
  | .moduleLinkDown _ => []
  | .linkWindowSetup _ _ _ _ => []

/-- Forms that reduced service withholds at check 4 of R53 (R390). -/
def withheld : Instr → Bool
  | .vaddF _ _ _ _ _ t | .vsubF _ _ _ _ _ t | .vmulF _ _ _ _ _ t | .vfma _ _ _ _ _ t => t == 0
  | .vminF _ _ _ _ _ t | .vmaxF _ _ _ _ _ t | .vabsF _ _ _ _ t | .vnegF _ _ _ _ t => t == 0
  | .vcmpF _ _ _ _ _ _ t => t == 0
  | .vexp2 _ _ _ t _ _ | .vlog2 _ _ _ t _ _ | .vrcp _ _ _ t _ _ | .vrsq _ _ _ t _ _ => t == 0
  | .vtanh _ _ _ t _ _ | .vgelu _ _ _ t _ _ => t == 0
  | .vred _ _ o t _ => (o == 1 || (o == 6 || o == 7)) && t == 0
  | .vcvt _ _ e s _ _ u => e == 2 || (s == 0 && u == 2)
  | .vpack _ _ _ | .vunpack _ _ _ => true
  | .vdot _ _ _ _ _ f => f == 0 || f == 3
  | .mma _ _ _ _ g h e f | .mmaz _ _ _ _ g h e f =>
    (g == 1 && !(e == 0 || (e == 1 || e == 3))) || (h == 1 && !(f == 0 || (f == 1 || f == 3)))
  | .cbload _ _ _ _ => true
  | _ => false

/-- A helper context may not issue it: control-context forms, and HINT.MOD with a vector or matrix modifier (R43). -/
def helperIllegal : Instr → Bool
  | .hintMod p => p.toNat / 2 ≠ 0
  | i => (traits i).controlOnly

/-- Some tower is in reduced service (R390). -/
def State.reduced (s : State) : Bool := s.fab.sites.any fun e => e.2.bs = 6

/-- A bound HINT.IMM cannot widen the instruction, or a second hint of one kind precedes the hinted instruction
(R48, R51); a HINT.MOD between HINT.IMM and the instruction passes the binding on. -/
def State.hintClash (s : State) : Instr → Bool
  | .hintMod _ => s.cx.hint.mod.isSome
  | i => s.cx.hint.imm.isSome && !(traits i).widens

/-- The first failing check of R53 from check 4 on, and of R144: the cause it takes. -/
def State.refusal (s : State) (i : Instr) : Option (BitVec 8) :=
  if !i.wf || (s.hintClash i || (s.reduced && withheld i)) then some 0x01
  else if (if s.k = 0 then i == .hexit else helperIllegal i) then some 0x01
  else if (traits i).supervisor && s.cx.priv == 0 then some 0x02
  else
    match (traits i).phase with
    | .any => none
    | .compute => if s.inExchange s.lcn then some 0x03 else none
    | .exchange => if s.inExchange s.lcn then none else some 0x03

/-- A queued MDRAIN has a count register to write that is named (R45). -/
def MatOp.awaits (o : MatOp) (gs : List (BitVec 5)) : Bool :=
  match o.i with
  | .mdrain _ _ _ b _ => b != 0 && gs.any (· == b)
  | _ => false

/-- A queued instruction is an MDRAIN. -/
def MatOp.drains (o : MatOp) : Bool :=
  match o.i with
  | .mdrain _ _ _ _ _ => true
  | _ => false

/-- The instruction accesses memory itself, or has an engine do so (R258). -/
def makesAccess : Instr → Bool
  | .ldB8 _ _ _ _ | .ldS8 _ _ _ _ | .ldB16 _ _ _ _ | .ldS16 _ _ _ _ | .ldB32 _ _ _ _ | .ldS32 _ _ _ _ | .ldD _ _ _ _ => true
  | .st _ _ _ _ | .vld _ _ _ _ _ _ | .vst _ _ _ _ | .vlds _ _ _ _ _ _ _ | .vgath _ _ _ _ _ _ _ | .vscat _ _ _ _ _ => true
  | .amoadd _ _ _ _ | .amoswap _ _ _ _ | .amocas _ _ _ _ | .amominS _ _ _ _ | .amominB _ _ _ _ => true
  | .amomaxS _ _ _ _ | .amomaxB _ _ _ _ => true
  | .mma _ _ _ _ g h _ _ | .mmaz _ _ _ _ g h _ _ => g == 0 || h == 0
  | .mdrain _ _ _ _ _ | .mldacc _ _ _ | .cbload _ _ _ _ | .sbind _ _ _ => true
  | .cpy _ _ _ _ | .cpyv _ _ _ | .fill _ _ _ _ => true
  | .xput _ _ _ _ _ | .xget _ _ _ _ _ | .xadd _ _ _ _ _ _ | .xmin _ _ _ _ _ _ | .xmax _ _ _ _ _ _ => true
  | .xcas _ _ _ _ _ _ | .xflag _ _ _ _ | .xtask _ _ _ _ => true
  | _ => false

/-- An .acq transfer of the context has not written its token (R268). -/
def State.acquiring (s : State) : Bool := s.core.fps.any fun f => f.acq && f.ctx == s.k

/-- The scoreboard or a lookahead bound holds the instruction: a register it names awaits a token or a long-latency result,
or a window is used up (R44, R45, R280); or an .acq transfer holds its accesses (R268). -/
def State.mustWait (s : State) (i : Instr) : Bool :=
  let x := s.cx
  (makesAccess i && s.acquiring) ||
  x.late.any (fun l => l.left == 0) ||
  (s.k == 0 && s.core.mat.queue.any (fun o => o.left == 0 || o.awaits (gUses i))) ||
  (x.tokens.any (fun t => (gUses i).any (· == t.1)) ||
  x.late.any (fun l => l.gdest.any (fun e => (gUses i).any (· == e.1)) || (!l.vdest.isEmpty && !(vUses i).isEmpty)))

/-- A pending hint whose bound address is not the one issued now is dropped (R51). -/
def State.dropStaleHint (s : State) : State :=
  if s.cx.hint = Hint.none ∨ s.cx.hint.next = s.cx.pc then s else s.updCx fun x => { x with hint := Hint.none }

/-- Breakpoint k of the core matches the instruction at the pc of the context (R346). -/
def State.bpMatches (s : State) (k : Nat) : Bool :=
  let b := s.core.reg (0x148 + k)
  bit b 63 && (bit b (50 + s.k) && decide (bits b 2 46 * 4 = s.cx.pc.toNat))

/-- A stop trigger of a core waits for its event arbiter; one on a core that is halted is taken only where its target is the gang
(R341). -/
def Core.setTrigger (c : Core) (t : Trigger) : Core :=
  if (c.dbg.halt && (c.dbg.step.isNone && !t.gang)) || c.dbg.trigger.isSome then c
  else { c with dbg := { c.dbg with trigger := some t } }

/-- A step of the debugger ends with the issues made so far (R349). -/
def Core.strike (c : Core) : Core :=
  { c with dbg := { c.dbg with step := c.dbg.step.map fun t => (t.1, min t.2 c.dbg.issued) } }

/-- The breakpoints of the core that an issue matches: none at supervisor level (R346). -/
def State.bpHits (s : State) : List Nat := if s.cx.priv = 0 then (List.range 4).filter s.bpMatches else []

/-- The stop trigger that they make, the lowest of those with the wider target (R341). -/
def State.bpTrigger (s : State) : Option Trigger :=
  let act := fun a => s.bpHits.find? fun k => bits (s.core.reg (0x148 + k)) 61 2 == a
  let tr := fun (gang : Bool) (k : Nat) =>
    ({ tk := 1, num := k, addr := some s.cx.pc.toNat, ah := false, alcn := 0, gang := gang } : Trigger)
  match act 2 with
  | some k => some (tr true k)
  | none => (act 1).map (tr false)

/-- A younger instruction uses up one place of each lookahead window (R44). -/
def State.noteIssue (s : State) : State :=
  let t := if s.cx.late.isEmpty then s
    else s.updCx fun x => { x with late := x.late.map fun l => { l with left := l.left - 1 } }
  if s.k = 0 && !s.core.mat.queue.isEmpty then
    t.updCore fun c => { c with mat := { c.mat with queue := c.mat.queue.map fun o => { o with left := o.left - 1 } } }
  else t

/-- The state in which an instruction that may issue takes effect. -/
def State.begin (s : State) : State :=
  let s := s.dropStaleHint
  if s.cx.wait = none ∨ s.cx.wait = some .scoreboard then s.noteIssue else s

/-- An instruction of the context whose turn it is: the checks of R53 and R144, the waits of the scoreboard, its effect. -/
def State.attempt (s : State) (i : Instr) (f : State → State) : State :=
  let s := s.dropStaleHint
  match s.refusal i with
  | some cause => s.trapWord cause i
  | none => if s.mustWait i then s.stall .scoreboard else f s.begin

/-- The meaning of an instruction from its effect. -/
def issue (i : Instr) (s : State) (f : State → State) : Out := .next (s.attempt i f)

/-- The context may issue the instruction at once: no check refuses it and nothing holds it. -/
def State.ready (s : State) (i : Instr) : Bool :=
  (s.dropStaleHint.refusal i).isNone && !s.dropStaleHint.mustWait i

end Sys2Proof.Machine
end

