-- ==== Sys2Proof/Machine/Float.lean ====
section
/-!
DEFINITION. Number formats, rounding and summation (R97 to R119): FP32, FP16 and BF16 as bit patterns, exact dyadic
arithmetic, the rounding helpers with their flags, NaN selection, exact sums, Haar steps and TB blocks.
A floating-point value is the natural number of its bits; a result pairs it with the flags it raises, in the order of
fpm.FLG: NV 16, DZ 8, OF 4, UF 2, NX 1 (R24).
-/

namespace Sys2Proof.Machine

/-- The flags of fpm.FLG. -/
abbrev Flags := BitVec 5

def fNV : Flags := 16
def fDZ : Flags := 8
def fOF : Flags := 4
def fUF : Flags := 2
def fNX : Flags := 1

/-- A floating-point result: bits and flags. -/
abbrev FRes := Nat × Flags

/-- A floating format: precision p, exponent field width, bias (R97). -/
structure Fmt where
  p : Nat
  w : Nat
  bias : Nat
deriving DecidableEq, Repr

def fp32 : Fmt := { p := 24, w := 8, bias := 127 }
def fp16 : Fmt := { p := 11, w := 5, bias := 15 }
def bf16 : Fmt := { p := 8, w := 8, bias := 127 }

/-- The format of a type code Tf (R58): 0 FP16, 1 BF16, 2 FP32. -/
def fmtOfTf (t : BitVec 2) : Fmt := if t = 0 then fp16 else if t = 1 then bf16 else fp32

namespace Fmt

/-- The width of the format in bits. -/
def width (f : Fmt) : Nat := f.p + f.w

/-- The sign bit's weight. -/
def signBit (f : Fmt) : Nat := 2 ^ (f.p + f.w - 1)

/-- The exponent of the lowest bit of the smallest subnormal: emin - p + 1. -/
def eLow (f : Fmt) : Int := 2 - (f.bias : Int) - (f.p : Int)

/-- The largest exponent of a finite value. -/
def eMax (f : Fmt) : Int := f.bias

/-- The bits of +∞. -/
def infBits (f : Fmt) : Nat := (2 ^ f.w - 1) * 2 ^ (f.p - 1)

/-- The bits of the largest finite value. -/
def maxBits (f : Fmt) : Nat := f.infBits - 1

/-- The default NaN (R98). -/
def nan (f : Fmt) : Nat := f.infBits + 2 ^ (f.p - 2)

def neg (f : Fmt) (x : Nat) : Bool := x / f.signBit % 2 = 1
def expField (f : Fmt) (x : Nat) : Nat := x / 2 ^ (f.p - 1) % 2 ^ f.w
def frac (f : Fmt) (x : Nat) : Nat := x % 2 ^ (f.p - 1)
def isNaN (f : Fmt) (x : Nat) : Bool := f.expField x = 2 ^ f.w - 1 && f.frac x ≠ 0
def isInf (f : Fmt) (x : Nat) : Bool := f.expField x = 2 ^ f.w - 1 && f.frac x = 0
def isZero (f : Fmt) (x : Nat) : Bool := x % f.signBit = 0
def isSNaN (f : Fmt) (x : Nat) : Bool := f.isNaN x && x / 2 ^ (f.p - 2) % 2 = 0
def finite (f : Fmt) (x : Nat) : Bool := f.expField x ≠ 2 ^ f.w - 1

/-- A NaN quieted (R98). -/
def quiet (f : Fmt) (x : Nat) : Nat := x ||| 2 ^ (f.p - 2)

/-- The bits with a sign put on a magnitude. -/
def signed (f : Fmt) (n : Bool) (mag : Nat) : Nat := if n then f.signBit + mag else mag

/-- The magnitude of a finite value as mantissa and exponent: |x| = m × 2^e. -/
def mant (f : Fmt) (x : Nat) : Nat := if f.expField x = 0 then f.frac x else f.frac x + 2 ^ (f.p - 1)
def exp (f : Fmt) (x : Nat) : Int := if f.expField x = 0 then f.eLow else f.eLow + (f.expField x : Int) - 1

end Fmt

/-- An exact dyadic real: m × 2^e. -/
structure Dyadic' where
  m : Int
  e : Int
deriving DecidableEq, Repr

namespace Dyadic'

def zero : Dyadic' := { m := 0, e := 0 }

/-- The mantissa of x over a lower or equal exponent. -/
def scaled (x : Dyadic') (e : Int) : Int := x.m * 2 ^ (x.e - e).toNat

def add (x y : Dyadic') : Dyadic' :=
  let e := min x.e y.e
  { m := x.scaled e + y.scaled e, e := e }

def mul (x y : Dyadic') : Dyadic' := { m := x.m * y.m, e := x.e + y.e }
def neg (x : Dyadic') : Dyadic' := { m := -x.m, e := x.e }
def half (x : Dyadic') : Dyadic' := { m := x.m, e := x.e - 1 }
def lt (x y : Dyadic') : Bool := let e := min x.e y.e; x.scaled e < y.scaled e
def eq (x y : Dyadic') : Bool := let e := min x.e y.e; x.scaled e = y.scaled e
def ofInt (n : Int) : Dyadic' := { m := n, e := 0 }

end Dyadic'

/-- The exact value of a finite pattern. -/
def Fmt.val (f : Fmt) (x : Nat) : Dyadic' :=
  { m := if f.neg x then -(f.mant x : Int) else (f.mant x : Int), e := f.exp x }

/-! ## Rounding (R106) -/

/-- A magnitude m / 2^sh rounded to an integer by a mode of fpm.RM, on the side of its sign: 0 nearest-even, 1 toward zero,
2 up, 3 down. -/
def roundShift (mode : BitVec 2) (n : Bool) (m sh : Nat) : Nat :=
  let q := m / 2 ^ sh
  let r := m % 2 ^ sh
  let up : Bool :=
    if mode = 0 then 2 * r > 2 ^ sh || (2 * r = 2 ^ sh && q % 2 = 1)
    else if mode = 1 then false
    else if mode = 2 then !n && r ≠ 0
    else n && r ≠ 0
  if up then q + 1 else q

/-- m × 2^e over the unit 2^u, rounded to an integer by mode. -/
def roundAt (mode : BitVec 2) (n : Bool) (m : Nat) (e u : Int) : Nat :=
  if u ≤ e then m * 2 ^ (e - u).toNat else roundShift mode n m (u - e).toNat

/-- The rounding to unit 2^u is inexact. -/
def inexactAt (m : Nat) (e u : Int) : Bool := u > e && m % 2 ^ (u - e).toNat ≠ 0

/-- Round of R106 for a nonzero magnitude m × 2^e with a sign. -/
def roundMag (f : Fmt) (mode : BitVec 2) (n : Bool) (m : Nat) (e : Int) : FRes :=
  let top : Int := (Nat.log2 m : Int) + e
  let free : Int := top - (f.p : Int) + 1
  let u := max free f.eLow
  let k := roundAt mode n m e u
  let inexact := inexactAt m e u
  let kFree := roundAt mode n m e free
  let tiny := (Nat.log2 kFree : Int) + free < f.eLow + (f.p : Int) - 1
  if k ≠ 0 ∧ (Nat.log2 k : Int) + u > f.eMax then
    let y := if mode = 0 then f.infBits
      else if mode = 1 then f.maxBits
      else if mode = 2 then (if n then f.maxBits else f.infBits)
      else (if n then f.infBits else f.maxBits)
    (f.signed n y, fOF ||| fNX)
  else
    (f.signed n ((u - f.eLow).toNat * 2 ^ (f.p - 1) + k),
     if inexact then (if tiny then fNX ||| fUF else fNX) else 0)

/-- Round of R106 for an exact dyadic; a zero takes the sign given. -/
def roundDy (f : Fmt) (mode : BitVec 2) (zeroNeg : Bool) (x : Dyadic') : FRes :=
  if x.m = 0 then (f.signed zeroNeg 0, 0) else roundMag f mode (x.m < 0) x.m.natAbs x.e

/-- An exact dyadic rounded to an integer by mode. -/
def roundToInt (mode : BitVec 2) (x : Dyadic') : Int :=
  let k := roundAt mode (x.m < 0) x.m.natAbs x.e 0
  if x.m < 0 then -(k : Int) else k

/-- RoundInt of R106 on a pattern of a format. -/
def roundInt (f : Fmt) (x : Nat) (lo hi : Int) (mode : BitVec 2) : Int × Flags :=
  if f.isNaN x then (0, fNV)
  else if f.isInf x then (if f.neg x then lo else hi, fNV)
  else
    let v := f.val x
    let n := roundToInt mode v
    if n < lo then (lo, fNV) else if n > hi then (hi, fNV)
    else (n, if Dyadic'.eq (Dyadic'.ofInt n) v then 0 else fNX)

/-! ## NaNs (R98, R115, R117) -/

/-- NaNPick: the first NaN of the list, quieted, or the default NaN. -/
def nanPick (f : Fmt) : List Nat → Nat
  | [] => f.nan
  | x :: t => if f.isNaN x then f.quiet x else nanPick f t

/-- Some value of the list is a signalling NaN. -/
def anySNaN (f : Fmt) (l : List Nat) : Bool := l.any f.isSNaN

/-- Some value of the list is a NaN. -/
def anyNaN (f : Fmt) (l : List Nat) : Bool := l.any f.isNaN

/-- LowerNaN of two FP32 NaNs, by bits <21:0>; the first when they are equal; quieted. -/
def lowerNaN (x y : Nat) : Nat := if y % 2 ^ 22 < x % 2 ^ 22 then fp32.quiet y else fp32.quiet x

/-- A NaN of one format in another, widened or narrowed, and quieted (R99, R115). -/
def convNaN (a b : Fmt) (x : Nat) : Nat :=
  let fr := if a.p ≤ b.p then a.frac x * 2 ^ (b.p - a.p) else a.frac x / 2 ^ (a.p - b.p)
  b.quiet (b.signed (a.neg x) (b.infBits + fr))

/-! ## Element arithmetic (R107, R108, R172) -/

/-- The sign of an exact zero sum (R107). -/
def zeroSumNeg (mode : BitVec 2) (n1 z1 n2 z2 : Bool) : Bool :=
  if z1 && z2 && n1 == n2 then n1 else mode == 3

/-- A NaN result: NaNPick of the operands, NV where one signals. -/
def nanRes (f : Fmt) (l : List Nat) : FRes := (nanPick f l, if anySNaN f l then fNV else 0)

/-- Round(a + b). -/
def fAdd (f : Fmt) (mode : BitVec 2) (a b : Nat) : FRes :=
  if anyNaN f [a, b] then nanRes f [a, b]
  else if f.isInf a && f.isInf b && f.neg a != f.neg b then (f.nan, fNV)
  else if f.isInf a then (a, 0) else if f.isInf b then (b, 0)
  else roundDy f mode (zeroSumNeg mode (f.neg a) (f.isZero a) (f.neg b) (f.isZero b)) ((f.val a).add (f.val b))

/-- A pattern with its sign inverted. -/
def fFlip (f : Fmt) (x : Nat) : Nat := if f.neg x then x - f.signBit else x + f.signBit

/-- Round(a - b); a NaN operand is picked as it stands. -/
def fSub (f : Fmt) (mode : BitVec 2) (a b : Nat) : FRes :=
  if anyNaN f [a, b] then nanRes f [a, b] else fAdd f mode a (fFlip f b)

/-- Round(a × b). -/
def fMul (f : Fmt) (mode : BitVec 2) (a b : Nat) : FRes :=
  let n := f.neg a != f.neg b
  if anyNaN f [a, b] then nanRes f [a, b]
  else if (f.isInf a && f.isZero b) || (f.isZero a && f.isInf b) then (f.nan, fNV)
  else if f.isInf a || f.isInf b then (f.signed n f.infBits, 0)
  else roundDy f mode n ((f.val a).mul (f.val b))

/-- Round(d + a × b), exact before the one rounding; 0 × ∞ raises NV whatever d holds (R108, R172). -/
def fFma (f : Fmt) (mode : BitVec 2) (a b d : Nat) : FRes :=
  let n := f.neg a != f.neg b
  let bad := (f.isInf a && f.isZero b) || (f.isZero a && f.isInf b)
  if anyNaN f [a, b, d] || bad then (nanPick f [a, b, d], if anySNaN f [a, b, d] || bad then fNV else 0)
  else if f.isInf a || f.isInf b then
    if f.isInf d && f.neg d != n then (f.nan, fNV) else (f.signed n f.infBits, 0)
  else if f.isInf d then (d, 0)
  else
    roundDy f mode (zeroSumNeg mode (f.neg d) (f.isZero d) n (f.isZero a || f.isZero b))
      ((f.val d).add ((f.val a).mul (f.val b)))

/-- The order of two patterns that are no NaN, with -0 below +0: a is below b. -/
def fBelow (f : Fmt) (a b : Nat) : Bool :=
  match f.neg a, f.neg b with
  | true, false => true
  | false, true => false
  | false, false => a < b
  | true, true => b < a

/-- The lesser of two patterns that are no NaN, -0 below +0. -/
def fLesser (f : Fmt) (a b : Nat) : Nat := if fBelow f b a then b else a

/-- The greater of two patterns that are no NaN, -0 below +0. -/
def fGreater (f : Fmt) (a b : Nat) : Nat := if fBelow f a b then b else a

/-- VMIN and VMAX of R172. -/
def fMinMax (f : Fmt) (maxi : Bool) (a b : Nat) : FRes :=
  if anyNaN f [a, b] then nanRes f [a, b] else (if maxi then fGreater f a b else fLesser f a b, 0)

/-- IEEE less-than of two patterns that are no NaN: -0 equals +0. -/
def fLt (f : Fmt) (a b : Nat) : Bool := fBelow f a b && !(f.isZero a && f.isZero b)

/-- IEEE equality of two patterns that are no NaN. -/
def fEq (f : Fmt) (a b : Nat) : Bool := a = b || (f.isZero a && f.isZero b)

/-- VCMP.f: condition codes 0 EQ, 1 NE, 2 LT, 3 LE, 4 GT, 5 GE, 6 UO (R61, R108, R173). -/
def fCmp (f : Fmt) (cond : Nat) (a b : Nat) : Bool × Flags :=
  if anyNaN f [a, b] then
    (cond = 1 || cond = 6, if anySNaN f [a, b] || (2 ≤ cond && cond ≤ 5) then fNV else 0)
  else
    (match cond with
     | 0 => fEq f a b
     | 1 => !fEq f a b
     | 2 => fLt f a b
     | 3 => fLt f a b || fEq f a b
     | 4 => fLt f b a
     | 5 => fLt f b a || fEq f a b
     | _ => false, 0)

/-- Float to float (R99, R115, R175). `sat` is the saturating modifier. -/
def fConv (a b : Fmt) (mode : BitVec 2) (sat : Bool) (x : Nat) : FRes :=
  if a.isNaN x then
    (if a = b then a.quiet x else convNaN a b x, if a.isSNaN x then fNV else 0)
  else if a = b then (x, 0)
  else if a.isInf x then (b.signed (a.neg x) b.infBits, 0)
  else
    let r := roundDy b mode (a.neg x) (a.val x)
    if sat && r.2 &&& fOF != 0 then (b.signed (a.neg x) b.maxBits, r.2) else r

/-- Integer to float (R175): an exact zero is +0. -/
def intToF (b : Fmt) (mode : BitVec 2) (n : Int) : FRes := roundDy b mode false (Dyadic'.ofInt n)

/-! ## Exact sums (R111) -/

/-- The sum of a list of exact values. -/
def sumDy : List Dyadic' → Dyadic'
  | [] => Dyadic'.zero
  | x :: t => x.add (sumDy t)

/-- The factors of a product: patterns, each with its own format. -/
structure Prod' where
  factors : List (Fmt × Nat)
deriving DecidableEq, Repr

namespace Prod'

/-- Some factor is a zero, an infinity, a NaN, a signalling NaN. -/
def anyZero (p : Prod') : Bool := p.factors.any fun x => x.1.isZero x.2
def anyInf (p : Prod') : Bool := p.factors.any fun x => x.1.isInf x.2
def hasNaN (p : Prod') : Bool := p.factors.any fun x => x.1.isNaN x.2
def hasSNaN (p : Prod') : Bool := p.factors.any fun x => x.1.isSNaN x.2

/-- 0 × ∞. -/
def bad (p : Prod') : Bool := p.anyZero && p.anyInf
def neg (p : Prod') : Bool := p.factors.foldl (fun n x => n != x.1.neg x.2) false
def isInf (p : Prod') : Bool := !p.hasNaN && (!p.bad && p.anyInf)
def isZero (p : Prod') : Bool := !p.hasNaN && (!p.bad && p.anyZero)
def val (p : Prod') : Dyadic' := p.factors.foldl (fun v x => v.mul (x.1.val x.2)) (Dyadic'.ofInt 1)

/-- The factors for NaNPick, in the accumulator's format. -/
def operands (p : Prod') (f : Fmt) : List Nat :=
  p.factors.map fun x => if x.1 = f then x.2 else if x.1.isNaN x.2 then convNaN x.1 f x.2 else 0

end Prod'

/-- ExactSum of R111. `prov` is the payload of a NaN the matrix engine makes, or none. -/
def exactSum (f : Fmt) (mode : BitVec 2) (acc : Nat) (ps : List Prod') (prov : Option Nat) : FRes :=
  let made := ps.any Prod'.bad || (ps.any (fun p => p.isInf && p.neg) && ps.any (fun p => p.isInf && !p.neg))
  let opS := ps.any Prod'.hasSNaN
  let opN := ps.any Prod'.hasNaN
  match prov, f.isNaN acc with
  | some pv, true =>
    let fl := if opS || made then fNV else 0
    if opN || made then (lowerNaN acc (0x7FC00000 + pv), fl) else (acc, fl)
  | _, accNaN =>
    let pos := (f.isInf acc && !f.neg acc) || ps.any (fun p => p.isInf && !p.neg)
    let ngt := (f.isInf acc && f.neg acc) || ps.any (fun p => p.isInf && p.neg)
    let fl : Flags := if f.isSNaN acc || opS || ps.any Prod'.bad || (pos && ngt) then fNV else 0
    if accNaN || opN || ps.any Prod'.bad || (pos && ngt) then
      match prov with
      | none => (nanPick f (acc :: ps.flatMap (fun p => p.operands f)), fl)
      | some pv => (0x7FC00000 + pv, fl)
    else if pos then (f.infBits, fl)
    else if ngt then (f.signed true f.infBits, fl)
    else if ps.all Prod'.isZero then (acc, fl)
    else
      let sum := (f.val acc).add (sumDy (ps.map Prod'.val))
      let r := roundDy f mode (mode == 3) sum
      (r.1, fl ||| r.2)

/-! ## Haar steps (R118) -/

/-- Round((a ± b) / 2) or Round(a ± b) with the rules of R118. -/
def haarHalf (f : Fmt) (mode : BitVec 2) (halve : Bool) (a b : Nat) : FRes :=
  if f.isInf a || f.isInf b then fAdd f mode a b
  else
    let x := (f.val a).add (f.val b)
    roundDy f mode (zeroSumNeg mode (f.neg a) (f.isZero a) (f.neg b) (f.isZero b)) (if halve then x.half else x)

/-- Both outputs of HaarF (halve) or HaarI, each with the flags of its own rounding. -/
def haarEach (f : Fmt) (mode : BitVec 2) (halve : Bool) (a b : Nat) : FRes × FRes :=
  if anyNaN f [a, b] then (nanRes f [a, b], nanRes f [a, b])
  else (haarHalf f mode halve a b, haarHalf f mode halve a (fFlip f b))

/-- Both outputs with the union of their flags. -/
def haar (f : Fmt) (mode : BitVec 2) (halve : Bool) (a b : Nat) : Nat × Nat × Flags :=
  let r := haarEach f mode halve a b
  (r.1.1, r.2.1, r.1.2 ||| r.2.2)

/-- HaarF(x0, x1): average and detail. -/
def haarF (mode : BitVec 2) (a b : Nat) : Nat × Nat × Flags := haar fp32 mode true a b

/-- HaarI(a, d): x0 and x1. -/
def haarI (mode : BitVec 2) (a b : Nat) : Nat × Nat × Flags := haar fp32 mode false a b

/-! ## TB blocks (R101 to R103) -/

/-- M of a TB format code: 0 TB2, 1 TB4, 2 TB7. -/
def tbM (fmt : Nat) : Nat := if fmt = 0 then 2 else if fmt = 1 then 4 else 7

/-- Bytes of a block. -/
def tbBytes (fmt : Nat) : Nat := if fmt = 0 then 8 else if fmt = 1 then 12 else 18

/-- TBDecode of element i of a block, as an FP32 pattern: every non-NaN TB value is exact in FP32. -/
def tbDecode (fmt : Nat) (block : Nat) (i : Nat) : Nat :=
  let m := tbM fmt
  let e := block % 256
  if e = 255 then 0x7FC00000 + block / 2 ^ 16 % 2 ^ 22
  else
    let field := block / 2 ^ (16 + (m + 1) * i)
    let mi := field % 2 ^ m
    let n := field / 2 ^ m % 2 = 1
    let mu := block / 2 ^ (8 + i / 2) % 2
    (roundDy fp32 0 n { m := if n then -(mi : Int) else mi, e := (e : Int) - 127 - (mu : Int) - ((m : Int) - 1) }).1

/-- RNEInt(|x| / 2^s) for an exact magnitude. -/
def rneOver (x : Dyadic') (s : Int) : Nat := roundAt 0 false x.m.natAbs x.e s

/-- The smallest E in 0 … 254 that fits the largest magnitude, searched upward with fuel. -/
def tbFitE (m : Nat) (amax : Dyadic') (e : Nat) : Nat → Nat
  | 0 => 254
  | n + 1 =>
    if rneOver amax ((e : Int) - 127 - ((m : Int) - 1)) ≤ 2 ^ m - 1 then e else tbFitE m amax (e + 1) n

/-- The larger of two magnitudes. -/
def dyMax (x y : Dyadic') : Dyadic' := if x.lt y then y else x

/-- The magnitude of an exact value. -/
def dyAbs (x : Dyadic') : Dyadic' := { m := x.m.natAbs, e := x.e }

/-- The element field of one value: mantissa, sign above it, and its flags (R103). -/
def tbElem (m : Nat) (E mu : Nat) (n : Bool) (x : Dyadic') : Nat × Flags :=
  let s : Int := (E : Int) - 127 - (mu : Int) - ((m : Int) - 1)
  let k := rneOver x s
  let top := 2 ^ m - 1
  let big := k > top
  let k' := if big then top else k
  let f1 : Flags := if big then fOF ||| fNX else 0
  let f2 : Flags := if Dyadic'.eq { m := k', e := s } (dyAbs x) then 0 else fNX
  let f3 : Flags := if k' = 0 && x.m ≠ 0 then fUF else 0
  (k' + (if n then 2 ^ m else 0), f1 ||| f2 ||| f3)

/-- The first NaN folded by LowerNaN over the NaNs of a list. -/
def lowestNaN : List Nat → Option Nat
  | [] => none
  | x :: t =>
    match fp32.isNaN x, lowestNaN t with
    | true, none => some (fp32.quiet x)
    | true, some y => some (lowerNaN x y)
    | false, r => r

/-- TBQuant of R103 on 16 FP32 patterns: the block and its flags. -/
def tbQuant (fmt : Nat) (xs : List Nat) : Nat × Flags :=
  let m := tbM fmt
  let nv : Flags := if anySNaN fp32 xs then fNV else 0
  match lowestNaN xs with
  | some n => (255 + n % 2 ^ 22 * 2 ^ 16, nv)
  | none =>
    let inf : Flags := if xs.any fp32.isInf then fOF ||| fNX else 0
    let top : Int := 2 ^ m - 1
    let vals := xs.map fun x =>
      ((fp32.neg x, if fp32.isInf x then Dyadic'.mk top (127 - ((m : Int) - 1)) else dyAbs (fp32.val x)) : Bool × Dyadic')
    let amax := vals.foldl (fun a v => dyMax a v.2) Dyadic'.zero
    let E := if amax.m = 0 then 0 else tbFitE m amax 0 255
    let fits (v : Bool × Dyadic') : Bool := rneOver v.2 ((E : Int) - 128 - ((m : Int) - 1)) ≤ 2 ^ m - 1
    let mus := (List.range 8).map fun j =>
      match vals.drop (2 * j) with
      | v :: w :: _ => if fits v && fits w then 1 else 0
      | _ => 0
    let elems := (List.range 16).map fun i =>
      match vals.drop i, mus.drop (i / 2) with
      | v :: _, mu :: _ => tbElem m E mu v.1 v.2
      | _, _ => (0, 0)
    let body := elems.foldr (fun e acc => e.1 + acc * 2 ^ (m + 1)) 0
    let muBits := mus.foldr (fun b acc => b + 2 * acc) 0
    (E + muBits * 2 ^ 8 + body * 2 ^ 16, inf ||| elems.foldl (fun a e => a ||| e.2) 0)

/-! ## Combining (R272) -/

/-- Comb of R272 on FP32 patterns: op 0 add, 1 min, 2 max. No flag is raised. -/
def combF (op : Nat) (x y : Nat) : Nat :=
  match fp32.isNaN x, fp32.isNaN y with
  | true, true => lowerNaN x y
  | true, false => fp32.quiet x
  | false, true => fp32.quiet y
  | false, false =>
    if op = 0 then (fAdd fp32 0 x y).1 else if op = 1 then fLesser fp32 x y else fGreater fp32 x y

end Sys2Proof.Machine
end

