-- ==== Sys2Proof/Machine/Ring.lean ====
section
/-!
DEFINITION. The ring of a spire (R368 to R372): directions and channels, room at an input, the arbitration of an output link, one
cycle of the ring, and the packets that the tower's units hand to it.
-/

namespace Sys2Proof.Machine

/-! ## Links and slots (R368 to R370) -/

/-- The stop after a stop in a direction. -/
def ringNext (stop : Nat) (ccw : Bool) : Nat := if ccw then (stop + 7) % 8 else (stop + 1) % 8

/-- The number of a stop's input from a direction, and of its output link in that direction. -/
def ringKey (stop : Nat) (ccw : Bool) : Nat := 2 * stop + b2n ccw

/-- Counter-clockwise is the shorter direction; at distance 4 a packet goes clockwise. -/
def ringShort (stop dest : Nat) : Bool := 4 < (dest + 8 - stop) % 8

/-- The output link of a stop crosses the dateline (R369). -/
def dateline (stop : Nat) (ccw : Bool) : Bool := stop == if ccw then 0 else 7

/-- The flits at a stop's input. -/
def Ring.input (r : Ring) (stop : Nat) (ccw : Bool) : List RingFlit := Tab.get [] r.inputs (ringKey stop ccw)

/-- Free slots of the shared pool of an input. -/
def freeShared (l : List RingFlit) : Nat := 8 - (l.filter fun f => !f.esc).length

/-- The escape slot of a channel is free at an input. -/
def escapeFree (l : List RingFlit) (vc1 : Bool) : Bool := !l.any fun f => f.esc && f.vc1 == vc1

/-- The slot that a flit of a channel takes at an input, if there is room: a shared one, else the channel's escape slot, shown
by `true`. -/
def slotFor (l : List RingFlit) (vc1 : Bool) : Option Bool :=
  if 0 < freeShared l then some false else if escapeFree l vc1 then some true else none

/-! ## The arbitration of an output link (R371) -/

/-- The next flit of a packet that a stop injects. -/
def RingInj.flit (j : RingInj) : RingFlit :=
  { pkt := j.pkt, kind := j.kind, head := j.sent == 0, last := j.sent + 1 == j.len, dest := j.dest, vc1 := false, esc := false }

/-- Flits that may use the output link of a stop, the first in order first, each with whether the stop injects it. While a packet
holds the link there is only its own next flit, if it is at the stop. -/
def Ring.contenders (r : Ring) (stop : Nat) (ccw : Bool) : List (Bool × RingFlit) :=
  let here := (r.input stop ccw).filter fun f => f.dest ≠ stop
  let own := (r.inj.filter fun j => j.stop == stop && (j.ccw == ccw && j.entered)).head?
  let inj := own.toList.map fun j => (true, j.flit)
  match Tab.find? r.held (ringKey stop ccw) with
  | some p => (((here.filter fun f => f.pkt == p).head?.toList.map fun f => (false, f)) ++ inj.filter fun f => f.2.pkt == p)
  | none =>
    let heads := here.filter (·.head)
    let through := (heads.filter (·.vc1) ++ heads.filter fun f => !f.vc1).map fun f => (false, f)
    if own.any fun j => 16 ≤ j.waited then inj ++ through else through ++ inj

/-- A flit on its way over a link in this cycle: the stop it leaves, whether the stop injects it, as it stood there, and as it
arrives. -/
structure RingMove where
  stop : Nat
  ccw : Bool
  own : Bool
  was : RingFlit
  now : RingFlit
deriving DecidableEq, Repr

/-- A flit moved over the output link of a stop, if the next input has room for it on the channel that it uses there. -/
def Ring.tryMove (r : Ring) (stop : Nat) (ccw : Bool) (c : Bool × RingFlit) : Option RingMove :=
  let vc1 := c.2.vc1 || dateline stop ccw
  (slotFor (r.input (ringNext stop ccw) ccw) vc1).map fun esc =>
    { stop := stop, ccw := ccw, own := c.1, was := c.2, now := { c.2 with vc1 := vc1, esc := esc } }

/-- What the output link of a stop carries in this cycle: the first contender that has room (DESIGN CHOICE, log entry 88). -/
def Ring.move (r : Ring) (stop : Nat) (ccw : Bool) : Option RingMove := (r.contenders stop ccw).findSome? (r.tryMove stop ccw)

/-- The sixteen links of the ring. -/
def ringLinks : List (Nat × Bool) := (List.range 8).flatMap fun c => [(c, false), (c, true)]

/-! ## A cycle (R371) -/

/-- A packet handed to a stop; it enters the arbitration in the next cycle. -/
def Ring.inject (r : Ring) (kind : RingKind) (stop : Nat) (ccw : Bool) (dest len : Nat) : Ring :=
  { r with
    next := r.next + 1
    inj := r.inj ++ [{ pkt := r.next, kind := kind, stop := stop, ccw := ccw, dest := dest, len := len, sent := 0,
                       entered := false, waited := 0 }] }

/-- The flits at their destination input. -/
def Ring.due (r : Ring) (l : Nat × Bool) : List RingFlit := (r.input l.1 l.2).filter fun f => f.dest == l.1

/-- A flit is delivered: a test flit is to be counted, the last flit of a probe is answered. -/
def Ring.deliver (r : Ring) (f : RingFlit) : Ring :=
  match f.kind with
  | .test => { r with landed := r.landed ++ [f.dest] }
  | .probe src reply => if f.last then r.inject .other f.dest (ringShort f.dest src) src reply else r
  | .other => r

/-- A stop's input with a function applied. -/
def Ring.updInput (r : Ring) (stop : Nat) (ccw : Bool) (f : List RingFlit → List RingFlit) : Ring :=
  { r with inputs := Tab.set [] r.inputs (ringKey stop ccw) (f (r.input stop ccw)) }

/-- A move takes effect: the flit leaves its slot or its stop and takes one at the next input, and its packet holds the link until
its last flit has been sent. -/
def Ring.apply (r : Ring) (m : RingMove) : Ring :=
  let key := ringKey m.stop m.ccw
  let r := if m.own then
      { r with inj := mapIf (fun j => j.pkt == m.was.pkt) (fun j => { j with sent := j.sent + 1 }) r.inj }
    else r.updInput m.stop m.ccw (·.erase m.was)
  let r := r.updInput (ringNext m.stop m.ccw) m.ccw (· ++ [m.now])
  { r with held := if m.was.last then Tab.erase r.held key else Tab.put r.held key m.was.pkt }

/-- Injections after a cycle: those wholly sent are gone, the others have entered the arbitration, or have waited in it where no
flit of theirs was sent. -/
def injAfter (moves : List RingMove) (l : List RingInj) : List RingInj :=
  (l.filter fun j => j.sent < j.len).map fun j =>
    if !j.entered then { j with entered := true }
    else if moves.any (fun m => m.was.pkt == j.pkt) then { j with waited := 0 }
    else { j with waited := j.waited + 1 }

/-- One cycle: what is due at its destination is delivered, and every link carries what its arbitration chose, all by the slots as
they stood when the cycle began. -/
def Ring.cycle (r : Ring) : Ring :=
  let moves := ringLinks.filterMap fun l => r.move l.1 l.2
  let r1 := ringLinks.foldl (fun t l => t.updInput l.1 l.2 (·.filter fun f => f.dest ≠ l.1)) r
  let r2 := moves.foldl Ring.apply r1
  let r3 := { r2 with inj := injAfter moves r2.inj }
  (ringLinks.flatMap r.due).foldl Ring.deliver r3

/-- Nothing is being injected and no slot is taken. -/
def Ring.quiet (r : Ring) : Bool := r.inj.isEmpty && r.inputs.isEmpty

/-- The ring after n cycles. -/
def Ring.run (r : Ring) : Nat → Ring
  | 0 => r
  | n + 1 => if r.quiet then r else r.cycle.run n

/-! ## What a stop shows (R367, R372) -/

/-- rgst at a stop: the free slots of the own inputs and of the inputs that its links lead to. -/
def Ring.shown (r : Ring) (c : Nat) : Nat :=
  let free := fun stop ccw => freeShared (r.input stop ccw)
  let esc := fun ccw vc1 => b2n (escapeFree (r.input c ccw) vc1)
  free c false + free c true * 2 ^ 4 + free (ringNext c false) false * 2 ^ 8 + free (ringNext c true) true * 2 ^ 12 +
    (esc false false + 2 * esc false true + 4 * esc true false + 8 * esc true true) * 2 ^ 36

/-- A test packet of a stop is still being injected: rdiag.BUSY. -/
def Ring.busy (r : Ring) (c : Nat) : Bool := r.inj.any fun j => j.kind == .test && j.stop == c

/-! ## Traffic (R368, R372) -/

/-- A packet of a tower's ring with a free number of flits (DESIGN CHOICE, log entry 88), none to its own stop. -/
def State.ringPacket (s : State) (tower : Nat) (kind : RingKind) (stop dest : Nat) : State :=
  if stop = dest then s
  else s.updTowerAt tower fun t =>
    { t with ring := t.ring.inject kind stop (ringShort stop dest) dest (1 + Config.ringFlits tower t.ring.next % 8) }

/-- A core's TLB probe goes to the other stops of its ring, and each answers (R245, R368). -/
def State.ringProbe (s : State) (lcn : Nat) : State :=
  let c := lcn % 8
  (List.range 8).foldl (fun s d =>
    s.ringPacket (towerOf lcn) (.probe c (1 + Config.ringFlits (towerOf lcn) ((s.towerAt (towerOf lcn)).ring.next + 2 ^ 32) % 8)) c d) s

/-- The stop of the mesh interface's port to a mesh: 0 to XY, 4 to YX. -/
def meshStop (yx : Bool) : Nat := if yx then 4 else 0

end Sys2Proof.Machine
end

