-- ==== Sys2Proof/Machine/Memory.lean ====
section
/-!
DEFINITION. Memory by physical address (R237, R238), translation (R244 to R250), what a write at its home brings with it
(partials held at the home R272, undo journal R320 to R323, image registrations R417, watchpoints R347, R348), the accesses
of contexts (R16, R29, R251), and the store buffer (R253, R254).
-/

namespace Sys2Proof.Machine

/-! ## Physical addresses (R238) -/

/-- What a physical address names. -/
inductive Place where
  | dome (tower off : Nat)
  | scratch (lcn off : Nat)
  | far (off : Nat)
  | host (addr : Nat)
  | peer (module off : Nat)
  | hole
deriving DecidableEq, Repr

/-- The place of a physical address on the module with number `m`. -/
def placeOf (m pa : Nat) : Place :=
  let off := pa % 2 ^ 52
  if pa / 2 ^ 52 % 16 ≠ m then .peer (pa / 2 ^ 52 % 16) off
  else if off < 0x480000000 then .dome (off / 0x4000000) (off % 0x4000000)
  else if 0x800000000 ≤ off ∧ off < 0x848000000 then .scratch ((off - 0x800000000) / 0x80000) (off % 0x80000)
  else if 0x10000000000 ≤ off ∧ off < 0x28000000000 then .far (off - 0x10000000000)
  else if 0x80000000000 ≤ off ∧ off < 0x100000000000 then .host (off - 0x80000000000)
  else .hole

/-- The place of a physical address. -/
def State.place (s : State) (pa : Nat) : Place := placeOf s.fab.modnum pa

/-- Physical address of offset x of a tower's dome. -/
def State.domePA (s : State) (t x : Nat) : Nat := s.fab.modnum * 2 ^ 52 + t * 0x4000000 + x

/-- Physical address of offset x of a core's scratchpad. -/
def State.scratchPA (s : State) (l x : Nat) : Nat := s.fab.modnum * 2 ^ 52 + 0x800000000 + l * 0x80000 + x

/-- Physical address of a host address in the host window (R398). -/
def State.hostPA (s : State) (h : Nat) : Nat := s.fab.modnum * 2 ^ 52 + 0x80000000000 + h % 2 ^ 43

/-- Rows of the array: 16 and the surplus rows enabled (R5, R384). -/
def State.rowsUp (s : State) : Nat := 16 + s.fab.rows

/-- An LCN names a logical core of the module (R6). -/
def State.isCore (s : State) (lcn : Nat) : Bool := lcn < 128 * s.rowsUp

/-- A physical address is backed for a partition (R238, R418). -/
def State.backed (s : State) (part pa : Nat) : Bool :=
  match s.place pa with
  | .dome t _ => t < 16 * s.rowsUp
  | .scratch l _ => s.isCore l
  | .far _ => true
  | .host _ => true
  | .peer m off => s.fab.links.any fun w =>
      w.part == part && (w.module == m && (w.base.toNat ≤ off && off < w.base.toNat + w.len))
  | .hole => false

/-- A physical address names memory of a peer module (R418). -/
def State.isPeer (s : State) (pa : Nat) : Bool := match s.place pa with | .peer _ _ => true | _ => false

/-- The link to a peer module is up (R411, R418, R419). -/
def State.linkUp (s : State) (m : Nat) : Bool := !s.fab.downLinks.any (· == m)

/-- No answer comes for an address outside the module: the host refuses it, or the link to its module is down (R398, R418). -/
def State.refuses (s : State) (pa : Nat) : Bool :=
  match s.place pa with
  | .host h => Config.hostRefuses s.tick (BitVec.ofNat 43 (h / 8 * 8))
  | .peer m _ => !s.linkUp m
  | _ => false

/-! ## The core view (R28) -/

/-- An effective address lies in the partition's virtual space. -/
def isVirtual (ea : Nat) : Bool := 0x100000000 ≤ ea && ea < 2 ^ 48

/-- An effective address is out of range: non-canonical or in the local region. -/
def outOfRange (ea : Nat) : Bool :=
  2 ^ 48 ≤ ea || (0x80000 ≤ ea && ea < 0x8000000) || (0xC000000 ≤ ea && ea < 0x100000000)

/-- The physical address that a core view address of a core names; none out of range or virtual. -/
def State.viewPA (s : State) (lcn ea : Nat) : Option Nat :=
  if ea < 0x80000 then some (s.scratchPA lcn ea)
  else if 0x8000000 ≤ ea ∧ ea < 0xC000000 then some (s.domePA (towerOf lcn) (ea - 0x8000000))
  else none

/-- The core view address by which a core names a physical address, if it does. -/
def State.viewOf (s : State) (lcn pa : Nat) : Option Nat :=
  match s.place pa with
  | .scratch l x => if l = lcn then some x else none
  | .dome t x => if t = towerOf lcn then some (0x8000000 + x) else none
  | _ => none

/-- The relocation of a shadow core: the scratchpad or dome of a primary member names that of its shadow (R326). -/
def State.relocate (s : State) (lcn pa : Nat) : Nat :=
  match s.gang? (s.coreAt lcn).mem.gang with
  | none => pa
  | some g =>
    if g.shadow.isNone ∨ g.covers lcn then pa
    else
      match s.place pa with
      | .scratch l x => if g.covers l then (match g.shadowOf l with | some m => s.scratchPA m x | none => pa) else pa
      | .dome t x =>
        match (List.range 8).find? (fun c => g.covers (8 * t + c)) with
        | some c => match g.shadowOf (8 * t + c) with | some m => s.domePA (towerOf m) x | none => pa
        | none => pa
      | _ => pa

/-- An access is local: own scratchpad or own tower's dome (R239). -/
def State.isLocal (s : State) (lcn pa : Nat) : Bool := (s.viewOf lcn pa).isSome

/-! ## Bytes at their home -/

/-- The canonical form of memory: addresses rise strictly, and no entry equals the 0 that an unlisted address reads as (log
entry 1). -/
def Memory.wf (m : List Host.Cell) : Bool := Tab.wf 0 m

/-- The home of a byte: a line that a migration has copied is served by the new frame (R256). -/
def State.homeOf (s : State) (pa : Nat) : Nat :=
  s.fab.migs.foldl (fun pa m =>
    if pa / 2 ^ 18 = m.old.toNat ∧ pa % 2 ^ 18 / 128 < m.copied then m.new.toNat * 2 ^ 18 + pa % 2 ^ 18 else pa) pa

/-- The byte at a physical address; a byte that nothing has written reads 0 (log entry 1). -/
def State.byteAt (s : State) (pa : Nat) : Byte := Tab.get 0 s.mem (s.homeOf pa)

/-- A byte written at its home, with nothing else. -/
def State.putByte (s : State) (pa : Nat) (b : Byte) : State := { s with mem := Tab.set 0 s.mem (s.homeOf pa) b }

/-- Bytes written at their homes, with nothing else. -/
def State.putCells (s : State) (cells : List (Nat × Byte)) : State := cells.foldl (fun s c => s.putByte c.1 c.2) s

/-- Bytes written at consecutive physical addresses, with nothing else. -/
def State.putBytes (s : State) : Nat → List Byte → State
  | _, [] => s
  | pa, b :: t => (s.putByte pa b).putBytes (pa + 1) t

/-- n bytes from a physical address. -/
def State.bytesAt (s : State) (pa : Nat) : Nat → List Byte
  | 0 => []
  | n + 1 => s.byteAt pa :: s.bytesAt (pa + 1) n

/-- The 8-byte word at a physical address. -/
def State.wordAt (s : State) (pa : Nat) : Word := BitVec.ofNat 64 (ofLeBytes (s.bytesAt pa 8))

/-- Zero bytes. -/
def zeros (n : Nat) : List Byte := List.replicate n 0

/-! ## The undo journal (R320 to R323) -/

/-- Keys under which a core keeps jbase and jlen as they are in force, and mgov likewise: a SETS of jbase or jlen takes
effect at the next compute-phase start (R318), one of mgov at the next governor window (R200). -/
def jbaseNow : Nat := 0x1183
def jlenNow : Nat := 0x1184
def mgovNow : Nat := 0x10C2

/-- Likewise for mgcap: a RATE counts from the next governor window (R392). -/
def mgcapNow : Nat := 0x1198

/-- First byte of a core's journal region in its core view. -/
def Core.journalBase (c : Core) : Nat := bits (c.reg jbaseNow) 16 32 * 65536

/-- Length of a core's journal region. -/
def Core.journalLen (c : Core) : Nat := bits (c.reg jlenNow) 0 16 * 65536

/-- The journal is on: at least 3 units, wholly in the own dome. -/
def Core.journalOn (c : Core) : Bool :=
  3 ≤ bits (c.reg jlenNow) 0 16 && (0x8000000 ≤ c.journalBase && c.journalBase + c.journalLen ≤ 0xC000000)

/-- A core makes the superstep non-rollbackable (R323): each condition sets NR and its WHY. -/
def State.nonRollbackable (s : State) (lcn why : Nat) : State :=
  let s := s.updCoreAt lcn fun c =>
    c.setReg 0x185 (withBits (withBits (c.reg 0x185) 63 1 1) 59 3 why)
  s.updGang (s.coreAt lcn).mem.gang fun g => { g with gr := { g.gr with nrg := true } }

/-- The party of an access (R258): the core and context that cause it; `ah`, applied at the home for another core; `owner`,
the core whose journal takes dome blocks (R320), none for an agent outside the cores. -/
structure Party where
  lcn : Nat
  ctx : Nat
  ah : Bool
  owner : Option Nat
deriving DecidableEq, Repr

/-- A core's own access. -/
def Party.own (lcn k : Nat) : Party := { lcn := lcn, ctx := k, ah := false, owner := some lcn }

/-- A remote access of core `lcn`, context k, to the target core its capability names. -/
def Party.remote (lcn k target : Nat) : Party := { lcn := lcn, ctx := k, ah := true, owner := some target }

/-- The host, or firmware for it: no core (its ALCN is 0xFFF; DESIGN CHOICE, log entry 14). -/
def Party.host : Party := { lcn := 0xFFF, ctx := 0, ah := true, owner := none }

/-! ## Watchpoints (R346 to R348) -/

/-- A byte of an access: its effective address, where it has one, and its home. -/
structure Spot where
  ea : Option Nat
  pa : Option Nat
deriving DecidableEq, Repr

/-- The address by which watchpoint register value `b` of core c covers a byte of an access, if it covers it. -/
def State.covers (s : State) (c : Nat) (p : Party) (b l : Word) (x : Spot) : Option Nat :=
  let at' : Option Nat :=
    if bit b 58 then
      match x.ea with
      | some e => if p.lcn = c ∧ isVirtual e = true then some e else none
      | none => none
    else
      match x.ea, x.pa with
      | some e, some a => if p.lcn = c ∧ !p.ah ∧ e < 0x100000000 then some e else s.viewOf c a
      | some e, none => if p.lcn = c ∧ !p.ah ∧ e < 0x100000000 then some e else none
      | none, some a => s.viewOf c a
      | none, none => none
  match at' with
  | some a => if bits b 0 48 ≤ a ∧ a < bits l 0 48 then some a else none
  | none => none

/-- Watchpoint k of core c matches an access: the lowest matching address (R347). -/
def State.wpHit (s : State) (c k : Nat) (p : Party) (rd wr : Bool) (xs : List Spot) : Option Nat :=
  let core := s.coreAt c
  let b := core.reg (0x150 + 2 * k)
  if bit b 63 && ((bit b 59 && rd) || (bit b 60 && wr)) then
    leastOf (xs.filterMap (s.covers c p b (core.reg (0x151 + 2 * k))))
  else none

/-- HITS of watchpoint k counts one access, with its event and its trace record. -/
def State.wpCount (s : State) (c k : Nat) (p : Party) (addr : Nat) : State :=
  let s := s.updCoreAt c fun co =>
    let l := co.reg (0x151 + 2 * k)
    (co.setReg (0x151 + 2 * k) (withBits l 48 16 (satNat (bits l 48 16 + 1) 65535))).countEvent 13 none 1
  let co := s.coreAt c
  s.trace c (if p.lcn = c ∧ !p.ah then p.ctx else 0) 7
    [co.reg (0x150 + 2 * k), co.reg (0x151 + 2 * k), BitVec.ofNat 64 addr,
     BitVec.ofNat 64 (s.lcnShown p.lcn % 4096 + b2n p.ah * 2 ^ 63)]

/-- What the matching watchpoints of one core do: every one counts, the lowest with the strongest action acts (R348). -/
def State.watchCore (s : State) (c : Nat) (p : Party) (rd wr : Bool) (xs : List Spot) : State :=
  let hits := (List.range 4).filterMap fun k => (s.wpHit c k p rd wr xs).map fun a => (k, a)
  let act := fun k => bits ((s.coreAt c).reg (0x150 + 2 * k)) 61 2
  let t := hits.foldl (fun s h => s.wpCount c h.1 p h.2) s
  let pick := fun a => hits.find? (fun h => act h.1 == a)
  let stop := fun (h : Nat × Nat) (gang : Bool) =>
    t.updCoreAt c (·.setTrigger { tk := 2, num := h.1, addr := some h.2, ah := p.ah, alcn := s.lcnShown p.lcn, gang := gang })
  match pick 2, pick 1, pick 3 with
  | some h, _, _ => stop h true
  | none, some h, _ => stop h false
  | none, none, some h =>
    (t.updCoreAt c (·.strike)).postCause c 0x0F (BitVec.ofNat 64 (b2n p.ah * 2 ^ 50 + h.1 * 2 ^ 48 + h.2))
  | none, none, none => t

/-- Some watchpoint of a core is enabled. -/
def Core.watches (c : Core) : Bool := (List.range 4).any fun k => bit (c.reg (0x150 + 2 * k)) 63

/-- Every watchpoint of the module sees an access. -/
def State.watch (s : State) (p : Party) (rd wr : Bool) (xs : List Spot) : State :=
  (s.cores.filter (fun e => e.2.watches)).foldl (fun s e => s.watchCore e.1 p rd wr xs) s

/-! ## Translation (R244 to R247) -/

/-- What a translation needs to know of the access. -/
structure Query where
  part : Nat
  /-- None where the address space is gone. -/
  asid : Option (BitVec 10)
  root : Nat
  group : Bool
  /-- The heap window: first byte, limit, offset, readable, writable. -/
  heap : Option (Nat × Nat × Nat × Bool × Bool)
  rd : Bool
  wr : Bool
  ex : Bool
  /-- Reason 5 applies: the access is ordinary. -/
  ordinary : Bool
  /-- The access may reach the memory of a peer module: XPUT, XGET and proxied atomics (R418). -/
  peer : Bool
deriving DecidableEq, Repr

/-- The outcome of a translation: the address with the leaf bits PN, GR, FZ, X, W, RD, P; a reason of R244; not present. -/
inductive Xl where
  | ok (pa : Nat) (leaf : BitVec 7)
  | fault (reason : Nat)
  | absent
deriving DecidableEq, Repr

/-- The outcome of a walk. -/
inductive WalkRes where
  | leaf (entry : Word)
  | absent
  | bad
deriving DecidableEq, Repr

/-- The entry of a node, from the walk cache of a tower or from memory; every present entry is cached, a malformed one too
(DESIGN CHOICE, log entry 73). -/
def State.nodeEntry (s : State) (tower : Option Nat) (part : Nat) (asid : BitVec 10) (level index addr : Nat) :
    Word × State :=
  match tower with
  | none => (s.wordAt addr, s)
  | some t =>
    let same := fun (w : WalkEnt) => w.part == part && (w.asid == asid && (w.level == level && w.index == index))
    let w := (s.towerAt t).walk
    match w.find? same with
    | some e => (e.entry, s.updTowerAt t fun tw => { tw with walk := e :: tw.walk.filter (fun x => !same x) })
    | none =>
      let v := s.wordAt addr
      if bit v 0 then
        (v, s.updTowerAt t fun tw =>
          { tw with walk := ({ part := part, asid := asid, level := level, index := index, entry := v } :: tw.walk).take 32 })
      else (v, s)

/-- A walker can read a table entry at an address: it is backed, on this module, and answered (R247; DEDUCED, log entry 86). -/
def State.tableBacked (s : State) (part addr : Nat) : Bool := s.backed part addr && !(s.isPeer addr || s.refuses addr)

/-- The leaf entry read at an address (R246, R247). -/
def State.leafEntry (s : State) (part addr : Nat) : WalkRes :=
  if !s.tableBacked part addr then .bad
  else
    let v := s.wordAt addr
    if !bit v 0 then .absent else if bits v 7 11 ≠ 0 then .bad else .leaf v

/-- The address of the leaf entry that a page's walk reads, with the walk up to it (R247). -/
def State.leafAddr (s : State) (tower : Option Nat) (part : Nat) (asid : BitVec 10) (root va : Nat) :
    (Except Bool Nat) × State :=
  let a0 := root * 2 ^ 15 + 8 * (va / 2 ^ 36)
  if !s.tableBacked part a0 then (.error false, s)
  else
    let (v, s) := s.nodeEntry tower part asid 0 (va / 2 ^ 36) a0
    if !bit v 0 then (.error true, s)
    else if bits v 2 10 ≠ 0 ∨ (bit v 1 = true ∧ bits v 12 9 ≠ 0) then (.error false, s)
    else
      let node := bits v 12 44 * 2 ^ 12
      if bit v 1 then (.ok (node + 8 * (va / 2 ^ 18 % 2 ^ 18)), s)
      else
        let a1 := node + 8 * (va / 2 ^ 27 % 2 ^ 9)
        if !s.tableBacked part a1 then (.error false, s)
        else
          let (u, s) := s.nodeEntry tower part asid 1 (va / 2 ^ 27) a1
          if !bit u 0 then (.error true, s)
          else if bits u 1 11 ≠ 0 then (.error false, s)
          else (.ok (bits u 12 44 * 2 ^ 12 + 8 * (va / 2 ^ 18 % 2 ^ 9)), s)

/-- The walk of R247. -/
def State.walk (s : State) (tower : Option Nat) (part : Nat) (asid : BitVec 10) (root va : Nat) : WalkRes × State :=
  match s.leafAddr tower part asid root va with
  | (.error true, s) => (.absent, s)
  | (.error false, s) => (.bad, s)
  | (.ok a, s) => (s.leafEntry part a, s)

/-- A TLB entry matches a page of a partition and ASID (R248). -/
def TlbEnt.isFor (e : TlbEnt) (part : Nat) (asid : BitVec 10) (vpn : Nat) : Bool :=
  e.part == part && (e.asid == asid && e.vpn.toNat == vpn)

/-- A TLB with an entry made the most recently used (R245). -/
def tlbFill (t : List TlbEnt) (e : TlbEnt) : List TlbEnt :=
  (e :: t.filter (fun x => !x.isFor e.part e.asid e.vpn.toNat)).take 32

/-- The TLB entry of a page for a core: own TLB, ring probe, walk (R244, R245). -/
def State.tlbFind (s : State) (lcn k part : Nat) (asid : BitVec 10) (root va : Nat) : (Except Xl TlbEnt) × State :=
  let vpn := va / 2 ^ 18
  let fill := fun (s : State) (e : TlbEnt) => s.updCoreAt lcn fun c => { c with tlb := tlbFill c.tlb e }
  match (s.coreAt lcn).tlb.find? (·.isFor part asid vpn) with
  | some e => (.ok e, fill s e)
  | none =>
    let s := (s.updCoreAt lcn fun c => c.countEvent 8 (some k) 1).ringProbe lcn
    let others := ((List.range 8).map (lcn / 8 * 8 + ·)).filter (· ≠ lcn)
    match others.findSome? (fun o => (s.coreAt o).tlb.find? (·.isFor part asid vpn)) with
    | some e => (.ok e, fill (s.updCoreAt lcn fun c => c.countEvent 9 (some k) 1) e)
    | none =>
      let s := s.updCoreAt lcn fun c => c.countEvent 10 (some k) 1
      match s.walk (some (towerOf lcn)) part asid root va with
      | (.absent, s) => (.error .absent, s)
      | (.bad, s) => (.error (.fault 9), s)
      | (.leaf v, s) =>
        let e : TlbEnt := { part := part, asid := asid, vpn := BitVec.ofNat 30 vpn, ppn := BitVec.ofNat 38 (bits v 18 38),
                            leaf := BitVec.ofNat 7 (bits v 0 7) }
        (.ok e, fill s e)

/-- The rights checks of R244 on an address with its leaf bits. Peer memory is not local to what may not reach it (R418; DEDUCED,
log entry 86). -/
def State.checkRights (s : State) (lcn : Nat) (q : Query) (pa : Nat) (leaf : BitVec 7) : Xl :=
  if q.group && !leaf.getLsbD 5 then .fault 4
  else if q.rd && !leaf.getLsbD 1 then .fault 1
  else if q.wr && !leaf.getLsbD 2 then .fault 2
  else if q.wr && leaf.getLsbD 4 then .fault 6
  else if q.ex && !leaf.getLsbD 3 then .fault 3
  else if !s.backed q.part pa then .fault 8
  else if (q.ordinary && !s.isLocal lcn pa) || (!q.peer && s.isPeer pa) then .fault 5
  else .ok pa leaf

/-- Leaf bits that a heap window gives: rights (RD, W, exec 0, group 1, FZ 0). -/
def heapLeaf (rd wr : Bool) : BitVec 7 := BitVec.ofNat 7 (0x21 + 2 * b2n rd + 4 * b2n wr)

/-- Translate of R244 for a core; `k` is the context whose events count. -/
def State.translate (s : State) (lcn k : Nat) (q : Query) (va : Nat) : Xl × State :=
  let page := fun (_ : Unit) =>
    match q.asid with
    | none => (Xl.fault 7, s)
    | some n =>
      match s.tlbFind lcn k q.part n q.root va with
      | (.error x, s) => (x, s)
      | (.ok e, s) => (s.checkRights lcn q (s.relocate lcn (e.ppn.toNat * 2 ^ 18 + va % 2 ^ 18)) e.leaf, s)
  match q.heap with
  | some (base, limit, off, rd, wr) =>
    if base ≤ va ∧ va < limit then
      (s.checkRights lcn q (s.relocate lcn ((va + off) % 2 ^ 56)) (heapLeaf rd wr), s)
    else page ()
  | none => page ()

/-- The heap window of a context, where it is enabled. -/
def Ctx.heap (x : Ctx) : Option (Nat × Nat × Nat × Bool × Bool) :=
  let b := x.reg 0x082
  if bit b 0 then
    some (bits b 6 42 * 64, bits (x.reg 0x083) 6 42 * 64, bits (x.reg 0x084) 6 58 * 64, bit b 1, bit b 2)
  else none

/-- A core's bound address space (R242). -/
def Core.bound (c : Core) : Option (BitVec 10) :=
  if bit (c.reg 0x080) 63 then some (BitVec.ofNat 10 (bits (c.reg 0x080) 0 10)) else none

/-- ptroot.ROOT. -/
def Core.root (c : Core) : Nat := bits (c.reg 0x081) 15 41

/-- The translation of an access that context k of a core makes now. -/
def State.query (s : State) (lcn k : Nat) (rd wr ex ordinary : Bool) : Query :=
  let c := s.coreAt lcn
  let x := c.ctx k
  { part := s.partOf lcn, asid := c.bound, root := c.root, group := x.priv == 0, heap := x.heap, rd := rd, wr := wr,
    ex := ex, ordinary := ordinary, peer := false }

/-! ## Writes at their homes -/

/-- Consecutive equal numbers once. -/
def distinct : List Nat → List Nat
  | [] => []
  | x :: t => if t.head? = some x then distinct t else x :: distinct t

/-- The pages that n bytes from an address reach into: none where there are no bytes, one more than the whole pages where a
part is left. -/
def pagesOf (a n : Nat) : Nat :=
  let m := a % 2 ^ 18 + n
  if n = 0 then 0 else m / 2 ^ 18 + if m % 2 ^ 18 = 0 then 0 else 1

/-- The frames of the pages of a registered image, through its partition's profile (R401, R417). -/
def State.imageFrames (s : State) (part : Nat) (i : Image) : List Nat :=
  let p := s.partAt part
  let space := Tab.get 0 p.sr 0x1A3
  let root := bits (Tab.get 0 p.sr 0x1A4) 15 41
  ((List.range (pagesOf i.base i.len)).filterMap fun j =>
    match (s.walk none part (BitVec.ofNat 10 (bits space 0 10)) root ((i.base / 2 ^ 18 + j) * 2 ^ 18)).1 with
    | .leaf v => some (bits v 18 38)
    | _ => none)

/-- A write to a page of a registered image removes its registration (R417). -/
def State.deregister (s : State) (pages : List Nat) : State :=
  (s.host.parts.filter (fun e => !e.2.images.isEmpty)).foldl (fun s e =>
    let keep := fun i => !(s.imageFrames e.1 i).any (fun f => pages.any (fun a => a == f))
    s.updPartAt e.1 fun p => { p with images := p.images.filter keep }) s

/-- Bytes written at consecutive physical addresses by the machine itself: neither journalled nor watched (R320, R417). -/
def State.placeBytes (s : State) (pa : Nat) (bs : List Byte) : State :=
  (s.deregister ((List.range (pagesOf pa bs.length)).map (pa / 2 ^ 18 + ·))).putBytes pa bs

/-- The member core that owns a home block (R320): the scratchpad's core; for a dome block the party's owner if it is of that
tower, else the lowest member core of the tower (log entry 15). -/
def State.blockOwner (s : State) (p : Party) (pa : Nat) : Option Nat :=
  let member := fun l => (s.coreAt l).mem.gang ≠ 0
  match s.place pa with
  | .scratch l _ => if member l then some l else none
  | .dome t _ =>
    match p.owner with
    | some o =>
      if towerOf o = t then (if member o then some o else none)
      else ((List.range 8).map (8 * t + ·)).find? member
    | none => ((List.range 8).map (8 * t + ·)).find? member
  | _ => none

/-- A block lies in the journal region of a member core of the gang. -/
def State.inJournal (s : State) (gang pa : Nat) : Bool :=
  match s.place pa with
  | .dome t x => ((List.range 8).map (8 * t + ·)).any fun l =>
      let c := s.coreAt l
      c.mem.gang == gang && (c.journalOn && (c.journalBase ≤ 0x8000000 + x && 0x8000000 + x < c.journalBase + c.journalLen))
  | _ => false

/-- The block has been copied in this superstep. -/
def State.journalled (s : State) (pa : Nat) : Bool :=
  match s.place pa with
  | .scratch l _ => (s.coreAt l).blocks.any (· == pa / 256)
  | .dome t _ => (s.towerAt t).blocks.any (· == pa / 256)
  | _ => true

/-- The presence bit of a block set. -/
def State.setJournalled (s : State) (pa : Nat) : State :=
  match s.place pa with
  | .scratch l _ => s.updCoreAt l fun c => { c with blocks := pa / 256 :: c.blocks }
  | .dome t _ => s.updTowerAt t fun t => { t with blocks := pa / 256 :: t.blocks }
  | _ => s

/-- Before a write to a home block: its old contents go to the owner's journal, once in a superstep (R320, R321, R323). -/
def State.journalBlock (s : State) (p : Party) (blk : Nat) : State :=
  let pa := blk * 256
  match s.blockOwner p pa with
  | none => s
  | some o =>
    let c := s.coreAt o
    let gang := c.mem.gang
    let foreign : Bool := match p.owner with
      | none => true
      | some _ => (s.coreAt p.lcn).mem.gang ≠ gang
    let s := if foreign then s.nonRollbackable o 4 else s
    if s.inJournal gang pa || s.journalled pa then s
    else if !c.journalOn then s.nonRollbackable o 2
    else
      let j := (s.coreAt o).reg 0x185
      let used := bits j 0 32
      if used ≥ (c.journalLen - 131072) / 320 then
        let t := (s.nonRollbackable o 1).updCoreAt o fun c => c.setReg 0x185 (withBits (c.reg 0x185) 62 1 1)
        if bit j 62 then t else t.postCause o 0x12 (BitVec.ofNat 64 ((s.viewOf o pa).getD 0))
      else
        let entry := leBytes 8 ((s.viewOf o pa).getD 0) ++ (leBytes 8 (s.domOf o).sstep ++ (zeros 48 ++ s.bytesAt pa 256))
        match s.viewPA o (c.journalBase + 131072 + 320 * used) with
        | none => s
        | some a =>
          ((s.placeBytes a entry).setJournalled pa).updCoreAt o fun c => c.setReg 0x185 (withBits (c.reg 0x185) 0 32 (used + 1))

/-- A write performs at its home: journal, image registrations, bytes, watchpoints. -/
def State.writeCells (s : State) (p : Party) (rd : Bool) (cells : List (Nat × Byte)) (xs : List Spot) : State :=
  let s := (distinct (cells.map fun c => c.1 / 256)).foldl (fun s b => s.journalBlock p b) s
  let s := s.deregister (distinct (cells.map fun c => c.1 / 2 ^ 18))
  (s.putCells cells).watch p rd true xs

/-! ## Combining partials held at the home (R271, R272) -/

/-- Size of an operand type: .s32 and .f32 4 bytes, .s64 and .b64 8 (R301). -/
def tySize (ty : BitVec 2) : Nat := if ty = 0 ∨ ty = 3 then 4 else 8

/-- Comb of R272 on 4-byte or 8-byte words. -/
def comb (op ty : BitVec 2) (x y : Nat) : Nat :=
  if ty = 3 then combF op.toNat x y
  else if ty = 0 then
    let a := BitVec.ofNat 32 x
    let b := BitVec.ofNat 32 y
    (if op = 0 then a + b else if (a.slt b) = (op == 1) then a else b).toNat
  else
    let a := BitVec.ofNat 64 x
    let b := BitVec.ofNat 64 y
    (if op = 0 then a + b
     else if (if ty = 1 then a.slt b else a.ult b) = (op == 1) then a else b).toNat

/-- Spots of consecutive physical addresses. -/
def spotsAt (pa n : Nat) : List Spot := (List.range n).map fun i => { ea := none, pa := some (pa + i) }

/-- A failure status recorded in aefr and aefva of a core (R279, R282). -/
def Core.aeFail (c : Core) (k stat reason addr : Nat) : Core :=
  let r := c.reg 0x101
  if bit r 63 then c.setReg 0x101 (withBits r 40 8 (satNat (bits r 40 8 + 1) 255))
  else (c.setReg 0x101 (BitVec.ofNat 64 (2 ^ 63 + 2 ^ 40 + k * 2 ^ 32 + reason * 2 ^ 24 + stat * 2 ^ 16))).setReg 0x102
    (BitVec.ofNat 64 (addr % 2 ^ 56))

/-- A failure of a combining line: its partials may come from several contexts, so CTX is left open (log entry 2). -/
def State.lineFailed (s : State) (lcn stat reason addr : Nat) : State :=
  let (t, s) := s.fresh
  s.updCoreAt lcn fun c => c.aeFail (Config.freeIndex t % 11) stat reason addr

/-- One partial applied to its word. -/
def State.applyWord (s : State) (l : SentLine) (off : Nat) (v : Word) : State :=
  let n := tySize l.line.ty
  let pa := l.line.home + off
  let old := ofLeBytes (s.bytesAt pa n)
  let new := leBytes n (comb l.line.op l.line.ty old v.toNat)
  s.writeCells (Party.remote l.lcn 0 l.line.target.toNat) true (((List.range n).map (pa + ·)).zip new) (spotsAt pa n)

/-- The partials of a line applied at its home, or the line discarded where its home core's domain is not in its exchange
window (R272, R303). -/
def State.applyLine (s : State) (l : SentLine) : State :=
  if s.openTo l.line.target.toNat then l.line.words.foldl (fun s w => s.applyWord l w.1 w.2) s
  else s.lineFailed l.lcn 6 12 l.line.home

/-- The first of the held lines at a home, in ascending LCN and send sequence. -/
def firstHeld (home : Nat) : List SentLine → Option SentLine
  | [] => none
  | l :: t =>
    match firstHeld home t with
    | none => if l.arrived && l.line.home == home then some l else none
    | some m =>
      if l.arrived && l.line.home == home && (l.lcn < m.lcn || (l.lcn == m.lcn && l.seq ≤ m.seq)) then some l else some m

/-- The apply point of a home line (R272): every held partial, in order. -/
def State.applyHeld (s : State) (home : Nat) : Nat → State
  | 0 => s
  | n + 1 =>
    match firstHeld home s.arb.sent with
    | none => s
    | some l =>
      let s := { s with arb := { s.arb with sent := s.arb.sent.filter (· ≠ l) } }
      (s.applyLine l).applyHeld home n

/-- A non-combining access arrives at its lines: held partials are applied first (R272). -/
def State.arrive (s : State) (pas : List Nat) : State :=
  if s.arb.sent.isEmpty then s
  else (distinct (pas.map fun a => s.homeOf a / 128)).foldl (fun s l => s.applyHeld (l * 128) s.arb.sent.length) s

/-- A write of a party performs. -/
def State.performWrite (s : State) (p : Party) (cells : List (Nat × Byte)) (xs : List Spot) : State :=
  (s.arrive (cells.map (·.1))).writeCells p false cells xs

/-- A read of a party performs: the state in which its bytes are read. -/
def State.performRead (s : State) (p : Party) (xs : List Spot) : State :=
  (s.arrive (xs.filterMap (·.pa))).watch p true false xs

/-! ## Accesses of a context: locating their bytes -/

/-- Where the bytes of an access lie: frames by 64-byte granule of the virtual address, or why they cannot be reached. -/
inductive Loc where
  | ok (frames : Tab Nat)
  | fault (va reason : Nat)
  | absent (va : Nat)
deriving DecidableEq, Repr

/-- The 64-byte granules of the virtual bytes of an access, each with its lowest byte, in ascending order. -/
def granules : List Nat → Tab Nat
  | [] => []
  | ea :: t =>
    let g := granules t
    if isVirtual ea then Tab.put g (ea / 64) (min ea (Tab.get ea g (ea / 64))) else g

/-- Granules translated in ascending order; the first failure decides. -/
def State.locateGranules (s : State) (lcn k : Nat) (q : Query) : Tab Nat → Tab Nat → Loc × State
  | [], acc => (.ok acc, s)
  | (g, va) :: t, acc =>
    match s.translate lcn k q va with
    | (.ok pa _, s) => s.locateGranules lcn k q t (Tab.put acc g (pa - va % 64))
    | (.fault r, s) => (.fault va r, s)
    | (.absent, s) => (.absent va, s)

/-- The bytes of an access located. -/
def State.locate (s : State) (lcn k : Nat) (q : Query) (eas : List Nat) : Loc × State :=
  s.locateGranules lcn k q (granules eas) []

/-- The home of a byte of a located access; none out of range. -/
def State.spotPA (s : State) (lcn : Nat) (frames : Tab Nat) (ea : Nat) : Option Nat :=
  if isVirtual ea then (Tab.find? frames (ea / 64)).map (· + ea % 64) else s.viewPA lcn ea

/-! ## Out-of-range record (R25, R29) -/

/-- oorf after an out-of-range access whose lowest out-of-range byte is at `ea`. -/
def Ctx.recordOor (x : Ctx) (ea : Nat) (write : Bool) : Ctx :=
  let r := x.reg 0x002
  if bit r 63 then x.setReg 0x002 (withBits r 48 8 (satNat (bits r 48 8 + 1) 255))
  else x.setReg 0x002 (BitVec.ofNat 64
    (2 ^ 63 + b2n write * 2 ^ 62 + b2n (2 ^ 48 ≤ ea : Bool) * 2 ^ 61 + 2 ^ 48 + ea % 2 ^ 48))

/-- oorf after several accesses, each given by its bytes. -/
def Ctx.recordOors (x : Ctx) (write : Bool) (accs : List (List Nat)) : Ctx :=
  accs.foldl (fun x a => match a.find? outOfRange with | some ea => x.recordOor ea write | none => x) x

/-! ## Mailbox slots (R251, R252) -/

/-- A not-present result: the message to the belfry, the slot that waits. -/
def State.postAbsent (s : State) (lcn slot kind : Nat) (va : Nat) (asid : BitVec 10) (k : Nat) : State :=
  let c := s.coreAt lcn
  let seq := c.mailSeq + 1
  let s := s.updCoreAt lcn fun c =>
    { c.countEvent 17 (some k) 1 with
      mailSeq := seq
      mail := Tab.put c.mail slot { seq := seq, va := BitVec.ofNat 48 va, kind := kind, asid := asid, answer := none, asked := none } }
  s.postBelfry lcn (.notPresent lcn slot kind (BitVec.ofNat 48 va) asid (s.partOf lcn)
    (BitVec.ofNat 64 (s.domOf lcn).sstep) seq)

/-- An access of the context whose turn it is, under the mailbox: it waits for the answer, translates again on RETRY, and
takes cause 0x07 on KILL. `stop` takes the state in which the instruction waits or has trapped. -/
def State.underMail {α : Type} (s : State) (stop f : State → α) : α :=
  match Tab.find? s.core.mail s.k with
  | none => f s
  | some m =>
    match m.answer with
    | none => stop (s.stall .mailbox)
    | some false => f (s.updCore fun c => { c with mail := Tab.erase c.mail s.k })
    | some true =>
      if s.olderPending then stop (s.stall .older)
      else stop ((s.updCore fun c => { c with mail := Tab.erase c.mail s.k }).trap 0x07 (m.va.setWidth 64))

/-- A load-side permission fault: pfinfo and cause 0x05 (R242, R244). -/
def State.loadFault (s : State) (kind reason va : Nat) : State :=
  if s.olderPending then s.stall .older
  else
    (s.updCx fun x => x.setReg 0x085 (BitVec.ofNat 64 (2 ^ 63 + kind * 2 ^ 56 + reason * 2 ^ 48 + va % 2 ^ 48))).trap 0x05
      (BitVec.ofNat 64 va)

/-- The kind code of pfinfo, and of a message of R251, for a load, fetch, atomic, or matrix fetch and CBLOAD. -/
def kindLoad : Nat := 0
def kindFetch : Nat := 1
def kindAtomic : Nat := 2
def kindMatrix : Nat := 3

/-- Bytes located for the context whose turn it is, or its trap or wait. -/
def State.reach {α : Type} (s : State) (stop : State → α) (kind : Nat) (q : Query) (eas : List Nat)
    (f : State → Tab Nat → α) : α :=
  s.underMail stop fun s =>
    match s.locate s.lcn s.k q eas with
    | (.ok frames, s) => f s frames
    | (.fault va r, s) => stop (s.loadFault kind r va)
    | (.absent va, s) => stop ((s.postAbsent s.lcn s.k kind va (q.asid.getD 0) s.k).stall .mailbox)

/-! ## The store buffer seen by loads (R16, R253) -/

/-- An entry covers the byte at an effective address. -/
def SbEntry.covers (e : SbEntry) (ea : Nat) : Bool :=
  let d := (ea + 2 ^ 64 - e.ea.toNat) % 2 ^ 64
  d < e.size && e.mask.getLsbD d

/-- The byte an entry holds for an effective address. -/
def SbEntry.byteFor (e : SbEntry) (ea : Nat) : Byte :=
  BitVec.ofNat 8 (e.data.toNat / 2 ^ (8 * ((ea + 2 ^ 64 - e.ea.toNat) % 2 ^ 64)))

/-- The effective addresses of an entry's active bytes. -/
def SbEntry.eas (e : SbEntry) : List Nat :=
  ((List.range e.size).filter (fun i => e.mask.getLsbD i)).map fun i => (e.ea.toNat + i) % 2 ^ 64

/-- The homes of an entry's active bytes with those bytes, where they are known without a fault; none where the entry's page is
not present. -/
def State.entryCells (s : State) (lcn : Nat) (e : SbEntry) : Option (List (Nat × Byte)) :=
  let cells := fun (home : Nat → Option Nat) => e.eas.filterMap fun ea => (home ea).map fun a => (a, e.byteFor ea)
  match e.heap with
  | some h => some (cells fun ea => some ((h.pa.toNat + (ea + 2 ^ 64 - e.ea.toNat) % 2 ^ 64) % 2 ^ 56))
  | none =>
    let q : Query := { part := s.partOf lcn, asid := if e.bound then some e.asid else none, root := (s.coreAt lcn).root,
                       group := e.priv == 0, heap := none, rd := false, wr := false, ex := false, ordinary := false,
                       peer := false }
    match s.locate lcn e.ctx q e.eas with
    | (.ok frames, _) => some (cells (s.spotPA lcn frames))
    | (.fault _ _, _) => some (cells (s.viewPA lcn))
    | (.absent _, _) => none

/-- The homes of an entry's active bytes, where they are known. -/
def State.entryPas (s : State) (lcn : Nat) (e : SbEntry) : List Nat := ((s.entryCells lcn e).getD []).map (·.1)

/-- An older entry of the context could name the bytes of a load by another address (R253). -/
def SbEntry.mayAlias (e : SbEntry) (ea : Nat) : Bool :=
  let ev := isVirtual e.ea.toNat
  let lv := isVirtual ea
  (ev && (lv && e.ea.toNat / 2 ^ 18 != ea / 2 ^ 18)) || (ev != lv)

/-- The active bytes of an entry meet the bytes of an access at their homes. -/
def State.meets (s : State) (lcn : Nat) (frames : Tab Nat) (live : List Nat) (e : SbEntry) : Bool :=
  (s.entryPas lcn e).any fun a => live.any fun ea => s.spotPA lcn frames ea == some a

/-- A load of context k waits on a buffered store: an own one that could name its bytes by another address, or another context's
that overlaps. Where the own one's translation shows that it does not name them, whether the load still waits is left open
(R253, R360; DEDUCED, log entry 71). -/
def State.loadHeld (s : State) (lcn k : Nat) (frames : Tab Nat) (eas : List Nat) : Bool :=
  let live := eas.filter fun a => !outOfRange a
  (s.coreAt lcn).sb.any fun e =>
    if e.ctx = k then
      live.any e.mayAlias && ((s.entryCells lcn e).isNone || (s.meets lcn frames live e || Config.freeIndex s.tick % 2 == 1))
    else live.any e.covers || s.meets lcn frames live e

/-- The byte a load of context k returns (R16, R29): forwarded from its youngest buffered store, or read at the home. -/
def State.loadByte (s : State) (lcn k : Nat) (frames : Tab Nat) (ea : Nat) : Byte :=
  match (s.coreAt lcn).sb.reverse.find? (fun e => e.ctx == k && e.covers ea) with
  | some e => e.byteFor ea
  | none =>
    match s.spotPA lcn frames ea with
    | some a => s.byteAt a
    | none => 0

/-! ## Footprints (R284, R285) -/

/-- A range of a footprint touches the 64-byte line of an address. -/
def touches (pa : Nat) (r : Nat × Nat) : Bool := r.2 != 0 && (r.1 / 64 ≤ pa / 64 && pa / 64 ≤ (r.1 + r.2 - 1) / 64)

/-- An in-flight write footprint of the core overlaps an access. -/
def Core.fpHoldsAccess (c : Core) (pas : List Nat) : Bool :=
  c.fps.any fun f => f.wr.any fun r => pas.any fun a => touches a r

/-- An in-flight footprint older than a store-buffer entry overlaps it; an SBIND never holds one. -/
def Core.fpHoldsDrain (c : Core) (seq : Nat) (pas : List Nat) : Bool :=
  c.fps.any fun f =>
    f.after < seq && ((match f.op with | .sbind _ => false | _ => f.rd.any fun r => pas.any fun a => touches a r) ||
      f.wr.any fun r => pas.any fun a => touches a r)

/-! ## Loads (R16, R29, R88) -/

/-- A byte of a load of context k is forwarded from the store buffer. -/
def Core.forwards (c : Core) (k ea : Nat) : Bool := c.sb.any fun e => e.ctx == k && e.covers ea

/-- One access of a load performs: what is not forwarded arrives at its home, and watchpoints see every byte (R16, R272). -/
def State.readAccess (s : State) (frames : Tab Nat) (a : List Nat) : State :=
  let spots := a.map fun ea => ({ ea := some ea, pa := s.spotPA s.lcn frames ea } : Spot)
  (s.arrive ((a.filter fun ea => !s.core.forwards s.k ea).filterMap (s.spotPA s.lcn frames))).watch (Party.own s.lcn s.k) true false
    spots

/-- Loads of the context whose turn it is, located and held by nothing; `accs` gives the bytes of each access. It traps or waits,
or goes on with its frames. -/
def State.loadReady (s : State) (kind : Nat) (accs : List (List Nat)) (f : State → Tab Nat → State) : State :=
  let eas := accs.flatten
  s.reach id kind (s.query s.lcn s.k true false false true) eas fun s frames =>
    if s.loadHeld s.lcn s.k frames eas then s.stall .drain
    else if s.core.fpHoldsAccess (eas.filterMap (s.spotPA s.lcn frames)) then s.stall .footprint
    else f s frames

/-- The accesses of a load perform, and their bytes go on in order. -/
def State.loadPerform (s : State) (accs : List (List Nat)) (frames : Tab Nat) (f : State → List Byte → State) : State :=
  let t := accs.foldl (fun s a => s.readAccess frames a) s
  f (t.updCx (·.recordOors false accs)) (accs.flatten.map (t.loadByte s.lcn s.k frames))

/-- Loads of the context whose turn it is: the bytes go on in order, or the instruction traps or waits. -/
def State.loadBytes (s : State) (kind : Nat) (accs : List (List Nat)) (f : State → List Byte → State) : State :=
  s.loadReady kind accs fun s frames => s.loadPerform accs frames f

/-- What a load of given shape has read, for the stores of its lookahead window (R45). -/
def State.loadSrc (s : State) (frames : Tab Nat) (shape : LoadShape) (eas : List Nat) (bytes : List Byte) : LoadSrc :=
  { shape := shape, eas := eas, pas := eas.map (s.spotPA s.lcn frames), bytes := bytes }

/-! ## Stores (R89, R253) -/

/-- sfgrp as of now: OPEN, TASK, ID. -/
def Core.groupWord (c : Core) : Word :=
  BitVec.ofNat 64 (b2n c.mem.opened * 2 ^ 63 + b2n c.mem.task * 2 ^ 62 + c.mem.ident.toNat)

/-- The heap-window result recorded with a store (R253). -/
def Ctx.heapHit (x : Ctx) (ea : Nat) : Option HeapHit :=
  match x.heap with
  | some (base, limit, off, rd, wr) =>
    if isVirtual ea ∧ base ≤ ea ∧ ea < limit then
      some { pa := BitVec.ofNat 56 (ea + off), rd := rd, wr := wr }
    else none
  | none => none

/-- A store of the context whose turn it is appended to the store buffer (R253). -/
def State.append (s : State) (kind : Nat) (ea : Word) (size : Nat) (data : BitVec 2048) (mask : BitVec 256) : State :=
  let c := s.core
  let x := s.cx
  let e : SbEntry :=
    { ctx := s.k, kind := kind, ea := ea, size := size, data := data, mask := mask, asid := c.bound.getD 0,
      bound := c.bound.isSome, priv := x.priv, heap := x.heapHit ea.toNat, pc := x.pc, retired := x.retired + 1,
      grp := c.groupWord, ss := BitVec.ofNat 64 (s.domOf s.lcn).sstep, seq := c.count + 1 }
  s.updCore fun c => { c with sb := c.sb ++ [e], count := c.count + 1 }

/-- The store buffer holds 32 entries. -/
def Core.sbFull (c : Core) : Bool := 32 ≤ c.sb.length

/-! ## Draining (R253, R254) -/

/-- What became of the head of the store buffer. -/
inductive Drain where
  /-- Nothing to drain, or the drain is held by HOLD or a debug halt. -/
  | idle
  /-- The head waits on a footprint or on its mailbox. -/
  | waits
  | done
  | fault (cause reason : Nat)
deriving DecidableEq, Repr

/-- The homes of the head's active bytes: translated page by page for a virtual entry (R253). -/
def State.headPlaces (s : State) (lcn : Nat) (e : SbEntry) : Loc × State :=
  let q : Query := { part := s.partOf lcn, asid := if e.bound then some e.asid else none, root := (s.coreAt lcn).root,
                     group := e.priv == 0, heap := none, rd := false, wr := true, ex := false, ordinary := true,
                     peer := false }
  match e.heap with
  | none => s.locate lcn e.ctx q e.eas
  | some h =>
    let place := fun va => s.relocate lcn ((h.pa.toNat + (va + 2 ^ 64 - e.ea.toNat) % 2 ^ 64) % 2 ^ 56)
    let step := fun (acc : Loc) (g : Nat × Nat) => match acc with
      | .ok t =>
        match s.checkRights lcn q (place g.2) (heapLeaf h.rd h.wr) with
        | .ok pa _ => .ok (Tab.put t g.1 (pa - g.2 % 64))
        | .fault r => .fault g.2 r
        | .absent => .absent g.2
      | x => x
    ((granules e.eas).foldl step (.ok []), s)

/-- The old bytes under a draining store stay with the core's bound streams whose footprint they lie in (R294). -/
def State.keepOlds (s : State) (lcn : Nat) (pas : List Nat) : State :=
  s.updCoreAt lcn fun c =>
    { c with streams := Tab.mapEntries (fun k x =>
        let rs := c.fps.flatMap fun f => match f.op with | .sbind j => if j = k then f.rd else [] | _ => []
        let hit := pas.filter fun a => rs.any fun r => r.1 ≤ a && a < r.1 + r.2
        { x with olds := hit.foldl (fun t a => Tab.put t a (s.byteAt a)) x.olds }) c.streams }

/-- The head performs at its places. -/
def State.drainHead (s : State) (lcn : Nat) (e : SbEntry) (frames : Tab Nat) : Drain × State :=
  let spots := e.eas.map fun ea => (ea, s.spotPA lcn frames ea)
  let cells := spots.filterMap fun p => p.2.map fun a => (a, e.byteFor p.1)
  if (s.coreAt lcn).fpHoldsDrain e.seq (cells.map (·.1)) then (.waits, s)
  else
    let s := (s.updCoreAt lcn fun c => { c with sb := c.sb.tail }).keepOlds lcn (cells.map (·.1))
    (.done, s.performWrite (Party.own lcn e.ctx) cells (spots.map fun p => { ea := some p.1, pa := p.2 }))

/-- The head of a core's store buffer translated and performed, while nothing holds it; a fault is left to the caller. Once the
control context is STOPPED a head that is not present is abandoned (R314). -/
def State.drainTry (s : State) (lcn : Nat) : Drain × State :=
  let c := s.coreAt lcn
  if c.hold || c.dbg.halt && c.dbg.step.isNone then (.idle, s)
  else
    match c.sb with
    | [] => (.idle, s)
    | e :: _ =>
      let go := fun (s : State) =>
        match s.headPlaces lcn e with
        | (.ok frames, s) => s.drainHead lcn e frames
        | (.fault _ r, s) => (Drain.fault 0x05 r, s)
        | (.absent va, s) =>
          if (c.ctx 0).st = .stopped then (.done, s.updCoreAt lcn fun c => { c with sb := c.sb.tail })
          else (.waits, s.postAbsent lcn 11 4 va e.asid e.ctx)
      match Tab.find? c.mail 11 with
      | none => go s
      | some m =>
        match m.answer with
        | none => (.waits, s)
        | some false => go (s.updCoreAt lcn fun c => { c with mail := Tab.erase c.mail 11 })
        | some true => (.fault 0x07 0, s.updCoreAt lcn fun c => { c with mail := Tab.erase c.mail 11 })

/-- The save-area slots that records hold. -/
def slotsHeld (rs : List SfRec) : List Nat :=
  (rs.filter (fun r => bits r.info 42 2 = 1 && !bit r.info 41)).map fun r => bits r.info 9 2

/-- First byte of the save area in the core view, where the area lies wholly in the own dome (R254). -/
def Core.saveArea (c : Core) : Option Nat :=
  let base := bits (c.reg 0x08F) 6 42 * 64
  if 0x8000000 ≤ base ∧ base + 1280 ≤ 0xC000000 then some base else none

/-- The record of a faulting head (R242, R254), with its vector data saved; the head is removed. -/
def State.recordFault (s : State) (lcn : Nat) (e : SbEntry) (cause reason : Nat) : State :=
  let c := s.coreAt lcn
  let slot := ((List.range 4).find? (fun i => !(slotsHeld c.sfq).any (· == i))).getD 0
  let area := if e.kind = 1 then c.saveArea else none
  let s := match area.bind (fun a => s.viewPA lcn (a + 320 * slot)) with
    | some pa => s.placeBytes pa (leBytes 256 e.data.toNat ++ (leBytes 32 e.mask.toNat ++ zeros 32))
    | none => s
  let nds := e.kind = 1 ∧ area = none
  let info := e.ctx * 2 ^ 44 + e.kind * 2 ^ 42 + b2n (decide nds) * 2 ^ 41 + cause * 2 ^ 32 + reason * 2 ^ 28 +
    (if e.kind = 1 ∧ !decide nds then slot * 2 ^ 9 else 0) + e.size
  let r : SfRec := { va := BitVec.ofNat 64 (e.ea.toNat % 2 ^ 48), data := if e.kind = 1 then 0 else e.data.setWidth 64,
                     info := BitVec.ofNat 64 info, pc := e.pc.setWidth 64, grp := e.grp, ss := e.ss, ctx := e.ctx,
                     retired := e.retired, seq := e.seq }
  s.updCoreAt lcn fun c => { c with sb := c.sb.tail, sfq := c.sfq ++ [r] }

/-- The context that takes the trap of an entry: the control context where the storing one is no longer live (R254). -/
def Core.trapOwner (c : Core) (e : SbEntry) : Nat :=
  let x := c.ctx e.ctx
  if x.st = .free ∨ e.retired ≤ x.born then 0 else e.ctx

/-- A HALT of the core waits in which no store-fault trap is raised: one that issued with HOLD set, one that finds cstat.TA set,
or the RETT of R313 (R96). -/
def Core.haltsMute (c : Core) : Bool :=
  c.ctxs.any fun e => match e.2.wait with | some (.halt mute) => mute || c.ta | _ => false

/-- A drain fault (R253): a record, HOLD and a pending store-fault trap; with no record place the head is kept. Once the control
context is STOPPED, or during a HALT that raises none, no trap is posted (R96, R314); what is left in the buffer is discarded, by
the HALT when it stops the core. -/
def State.drainFault (s : State) (lcn cause reason : Nat) : State :=
  let c := s.coreAt lcn
  match c.sb with
  | [] => s
  | e :: _ =>
    let full : Bool := 4 ≤ c.sfq.length
    if (c.ctx 0).st = .stopped then
      (if full then s else s.recordFault lcn e cause reason).updCoreAt lcn fun c => { c with sb := [], hold := false }
    else if full then s.updCoreAt lcn fun c => { c with hold := true }
    else if c.haltsMute then (s.recordFault lcn e cause reason).updCoreAt lcn fun c => { c with hold := true }
    else
      (s.recordFault lcn e cause reason).updCoreAt lcn fun c =>
        { c with hold := true
                 pend := { c.pend with stores := c.pend.stores ++
                   [{ ctx := c.trapOwner e, va := BitVec.ofNat 48 e.ea.toNat, seq := e.seq }] } }

/-- The step of the drain: the head performs, waits or faults. -/
def State.drain (s : State) (lcn : Nat) : State :=
  match s.drainTry lcn with
  | (.fault cause reason, s) => s.drainFault lcn cause reason
  | (_, s) => s

/-- The context whose turn it is has stores buffered. -/
def State.ownStores (s : State) : Bool := s.core.sb.any fun e => e.ctx == s.k

/-- A store-fault trap of a context waits for delivery. -/
def State.storeTrapDue (s : State) (lcn k : Nat) : Bool := (s.coreAt lcn).pend.stores.any fun t => t.ctx == k

/-! ## Instruction fetch (R12, R29, R239) -/

/-- A fetched word; none where the address is out of range: the word zero, with tinfo zero (R29, R30). A store becomes visible to
every context's fetches as it drains, with or without the FENCE of R86 (DESIGN CHOICE, log entry 75). -/
def State.fetchWord (s : State) (frames : Tab Nat) : Option Word32 :=
  let pc := s.cx.pc.toNat
  if outOfRange pc then none
  else
    let byte := fun i => match s.spotPA s.lcn frames ((pc + i) % 2 ^ 48) with | some a => s.byteAt a | none => 0
    some (BitVec.ofNat 32 (ofLeBytes [byte 0, byte 1, byte 2, byte 3]))

/-- The fetch of the context whose turn it is; `stop` takes the state in which it waits or has trapped. A fetch that the host
refuses is not backed (R398). -/
def State.fetch {α : Type} (s : State) (stop : State → α) (f : State → Option Word32 → α) : α :=
  if isVirtual s.cx.pc.toNat then
    s.reach stop kindFetch (s.query s.lcn s.k false false true false) [s.cx.pc.toNat] fun s frames =>
      if (s.spotPA s.lcn frames s.cx.pc.toNat).any s.refuses then stop (s.loadFault kindFetch 8 s.cx.pc.toNat)
      else f s (s.fetchWord frames)
  else f s (s.fetchWord [])

end Sys2Proof.Machine
end

