-- ==== Sys2Proof/Machine/Operands.lean ====
section
/-!
DEFINITION. Operand forms of the scalar formats: immediates with a bound HINT.IMM (R48), effective addresses (R15, R87),
branch and jump targets (R40), widths of a value (R13), and the writing of results, long-latency ones included (R42, R44).
-/

namespace Sys2Proof.Machine

/-- IMM sign-extended: imm16, or the 38-bit value of R48. -/
def State.immS (s : State) (i : BitVec 16) : Word :=
  match s.cx.hint.imm with
  | none => i.signExtend 64
  | some p => (p ++ i).signExtend 64

/-- IMM zero-extended. -/
def State.immZ (s : State) (i : BitVec 16) : Word :=
  match s.cx.hint.imm with
  | none => i.setWidth 64
  | some p => (p ++ i).setWidth 64

/-- DISP sign-extended: 12 bits, or 34 with HINT.IMM. -/
def State.disp (s : State) (i : BitVec 12) : Word :=
  match s.cx.hint.imm with
  | none => i.signExtend 64
  | some p => (p ++ i).signExtend 64

/-- EA of a load or store (R15, R87). -/
def State.ea (s : State) (a : BitVec 5) (i : BitVec 12) : Word := s.g a + s.disp i

/-- The target of an SB branch (R40). -/
def State.branchTarget (s : State) (o : BitVec 16) : BitVec 48 :=
  ((s.cx.pc + 4).setWidth 64 + s.immS o * 4).setWidth 48

/-- The target of a J-format jump (R40). -/
def State.jumpTarget (s : State) (o : BitVec 26) : BitVec 48 :=
  ((s.cx.pc + 4).setWidth 64 + o.signExtend 64 * 4).setWidth 48

/-- The consecutive byte addresses of an access of n bytes, modulo 2^64. -/
def byteEAs (ea : Word) (n : Nat) : List Nat := (List.range n).map fun i => (ea.toNat + i) % 2 ^ 64

/-! ## Vector register file writes (R42) -/

/-- A vector result written to v0 to v31, q0 to q7, or to the h file alone. -/
def VecState.put (v : VecState) (d : BitVec 6) (x : VReg) : VecState :=
  let r := { v with h1 := v.h0, h0 := x }
  if d.toNat < 32 then { r with v := Tab.set VReg.zero r.v d.toNat x }
  else if d.toNat < 40 then { r with q := Tab.set VReg.zero r.q (d.toNat - 32) x }
  else r

/-- A vector result of the core whose turn it is. -/
def State.putV (s : State) (d : BitVec 6) (x : VReg) : State := s.updCore fun c => { c with vec := c.vec.put d x }

/-! ## Completion of results (R44 to R46) -/

/-- A long-latency result of context k is written. -/
def State.land (s : State) (g : List (BitVec 5 × Word)) (v : List (BitVec 6 × VReg)) (flags : BitVec 5) : State :=
  (v.foldl (fun s e => s.putV e.1 e.2) (g.foldl (fun s e => s.setG e.1 e.2) s)).raise flags

/-- The results of a long-latency instruction with lookahead count lk: written at once, or pending for the window of younger
instructions where the model lets results come late; with an FP trap enabled the count acts as 0 (R46; log entry 9). `src` says
what a load has read. -/
def State.results (s : State) (lk : Nat) (g : List (BitVec 5 × Word)) (v : List (BitVec 6 × VReg)) (flags : BitVec 5)
    (src : Option LoadSrc := none) : State :=
  if s.late && (lk != 0 && s.en == 0) then
    s.updCx fun x =>
      { x with late := x.late ++ [{ id := x.retired, left := lk, gdest := g, vdest := v, flags := flags, src := src }] }
  else s.land g v flags

end Sys2Proof.Machine
end

