-- ==== Sys2Proof/Machine/ControlFlow.lean ====
section
/-!
DEFINITION. Branches, jumps and hardware loops (R80 to R85), and hints (R47 to R51).
-/

namespace Sys2Proof.Machine

/-- A conditional branch (R80). -/
def branch (i : Instr) (a b : BitVec 5) (o : BitVec 16) (cond : Word → Word → Bool) (s : State) : Out :=
  issue i s fun s => if cond (s.g a) (s.g b) then s.jump (s.branchTarget o) else s.retire

/-- The link value of JAL and JR. -/
def State.link (s : State) : Word := (s.cx.pc + 4).setWidth 64

/-- BEQ (R80). -/
def execBeq (a b : BitVec 5) (o : BitVec 16) (s : State) : Out := branch (.beq a b o) a b o (fun x y => x == y) s

/-- BNE (R80). -/
def execBne (a b : BitVec 5) (o : BitVec 16) (s : State) : Out := branch (.bne a b o) a b o (fun x y => x != y) s

/-- BLT (R80). -/
def execBlt (a b : BitVec 5) (o : BitVec 16) (s : State) : Out := branch (.blt a b o) a b o BitVec.slt s

/-- BGE (R80). -/
def execBge (a b : BitVec 5) (o : BitVec 16) (s : State) : Out := branch (.bge a b o) a b o (fun x y => !x.slt y) s

/-- BLTB (R80). -/
def execBltb (a b : BitVec 5) (o : BitVec 16) (s : State) : Out := branch (.bltb a b o) a b o BitVec.ult s

/-- BGEB (R80). -/
def execBgeb (a b : BitVec 5) (o : BitVec 16) (s : State) : Out := branch (.bgeb a b o) a b o (fun x y => !x.ult y) s

/-- JAL (R81). -/
def execJal (o : BitVec 26) (s : State) : Out :=
  issue (.jal o) s fun s => (s.setG 31 s.link).jump (s.jumpTarget o)

/-- JR (R82). -/
def execJr (d a : BitVec 5) (s : State) : Out :=
  issue (.jr d a) s fun s =>
    let t := s.g a
    if bits t 0 2 ≠ 0 then s.trap 0x04 ((t.setWidth 48).setWidth 64)
    else (s.setG d s.link).jump (t.setWidth 48)

/-- lcb as LOOP sets it: LEN, LV, START (R84). -/
def loopBound (pc : BitVec 48) (priv : BitVec 2) (l : BitVec 8) : Word :=
  BitVec.ofNat 64 (l.toNat * 2 ^ 56 + (priv.toNat % 2) * 2 ^ 48 + (pc + 4).toNat)

/-- LOOP (R84). -/
def execLoop (k : BitVec 2) (a : BitVec 5) (l : BitVec 8) (s : State) : Out :=
  issue (.loop k a l) s fun s =>
    let n := s.g a
    if n = 0 then
      (s.updCx fun x => x.setReg (0x07A + k.toNat) 0).jump (s.cx.pc + 4 + BitVec.ofNat 48 (4 * (l.toNat + 1)))
    else
      (s.updCx fun x =>
        (x.setReg (0x07A + k.toNat) n).setReg (0x07D + k.toNat) (loopBound s.cx.pc s.cx.priv l)).retire

/-! ## Hints -/

/-- A hint takes its issue slot and retires; what it binds stays pending for the word at its address + 4 (R47, R51). -/
def State.bindHint (s : State) (imm : Option (BitVec 22)) (mod : Option (BitVec 6)) : State :=
  let x := s.cx
  let t := s.retire
  t.updCx fun y =>
    { y with hint := { imm := match imm with | some p => some p | none => x.hint.imm
                       mod := match mod with | some p => some p | none => x.hint.mod
                       first := if x.hint = Hint.none then x.pc else x.hint.first
                       next := x.pc + 4 } }

/-- HINT.IMM (R48, R51). A second one before the hinted instruction is refused at its checks. -/
def execHintImm (p : BitVec 22) (s : State) : Out := issue (.hintImm p) s fun s => s.bindHint (some p) none

/-- HINT.MOD (R49, R51). -/
def execHintMod (p : BitVec 6) (s : State) : Out := issue (.hintMod p) s fun s => s.bindHint none (some p)

/-- HINT.PRI (R50, R133): the boost of context k for n cycles, replacing an earlier one. -/
def execHintPri (b : BitVec 6) (n : BitVec 12) (k : BitVec 4) (s : State) : Out :=
  issue (.hintPri b n k) s fun s =>
    let t := s.updCore fun c => c.updCtx k.toNat fun x =>
      { x with boost := b.toNat, boostEnd := s.clock + n.toNat }
    t.retire

/-- HINT_PRI_EXPIRY (R50): the cycles of a boost have passed; a debug-halted context's do not (R343). -/
def execHintPriExpiry (lcn k : Nat) (s : State) : Out :=
  let x := (s.coreAt lcn).ctx k
  if x.boost ≠ 0 ∧ x.halted = false ∧ x.boostEnd ≤ s.clock then
    .next (s.updCoreAt lcn fun c => c.updCtx k fun x => { x with boost := 0 })
  else .next s

end Sys2Proof.Machine
end

