-- ==== Sys2Proof/Machine/Flags.lean ====
section
/-!
DEFINITION. IEEE flags of an instruction (R24, R109, R110): its flag set reaches fpm.FLG, or meets an enabled flag and the
instruction takes cause 0x0A with no effect.
-/

namespace Sys2Proof.Machine

/-- A flag set in the bit positions of fpm.FLG, as tinfo holds it (R30, R109). -/
def flagInfo (f : BitVec 5) : Word := BitVec.ofNat 64 (f.toNat * 4)

/-- The effect of an instruction whose flag set is f: `go` runs where no raised flag is enabled, and raises f itself. -/
def State.unlessTrapped (s : State) (f : BitVec 5) (go : State → State) : State :=
  if f &&& s.en = 0 then go s else s.trap 0x0A (flagInfo f)

/-- A flag set is in flagu no later than 64 cycles after its instruction completes (R110). -/
def State.flushFlags (s : State) (lcn : Nat) : State :=
  let f := (s.coreAt lcn).pend.flags
  let t := s.updTowerAt (towerOf lcn) fun t => { t with flagu := t.flagu ||| BitVec.ofNat 40 (f.toNat * 32 ^ (lcn % 8)) }
  t.updCoreAt lcn fun c => { c with pend := { c.pend with flags := 0 } }

end Sys2Proof.Machine
end

