-- ==== Sys2Proof/Machine/Hash.lean ====
section
/-!
DEFINITION. SHA-256 (FIPS 180-4) and HMAC (FIPS 198-1) for capability seals (R381), and the CRC-64 of ECMA-182 for twin hash
packets (R327).
-/

namespace Sys2Proof.Machine

/-- The greatest r + x with x below 2 ^ n whose power e does not exceed a number, bit by bit from the top. -/
def rootBits (e top : Nat) : Nat → Nat → Nat
  | 0, r => r
  | n + 1, r => rootBits e top n (if (r + 2 ^ n) ^ e ≤ top then r + 2 ^ n else r)

/-- The first 32 bits of the fraction of the e-th root of a number below 2 ^ (4 e), as FIPS 180-4 derives its constants. -/
def rootFraction (e p : Nat) : Word32 := BitVec.ofNat 32 (rootBits e (p * 2 ^ (32 * e)) 36 0)

/-- The primes below 312: the first sixty-four. -/
def shaPrimes : List Nat := (List.range 312).filter fun n => 2 ≤ n && (List.range 18).all fun d => d < 2 || (n ≤ d || n % d != 0)

/-- The initial hash value of SHA-256: of the square roots of the first eight primes. -/
def shaInit : List Word32 := (shaPrimes.take 8).map (rootFraction 2)

/-- The round constants of SHA-256: of the cube roots of the first sixty-four primes. -/
def shaK : List Word32 := shaPrimes.map (rootFraction 3)

/-- Rotation to the right. -/
def rotr (x : Word32) (n : Nat) : Word32 := (x >>> n) ||| (x <<< (32 - n))

/-- The word at a position of a list, or zero. -/
def wordNth (l : List Word32) (i : Nat) : Word32 := nth 0 l i

/-- The next word of the message schedule from the last sixteen, oldest first. -/
def shaNext (w : List Word32) : Word32 :=
  let a := wordNth w 1
  let b := wordNth w 14
  wordNth w 0 + (rotr a 7 ^^^ (rotr a 18 ^^^ (a >>> 3))) + wordNth w 9 + (rotr b 17 ^^^ (rotr b 19 ^^^ (b >>> 10)))

/-- One round of SHA-256 on the eight working variables. -/
def shaRound (v : List Word32) (k w : Word32) : List Word32 :=
  match v with
  | [a, b, c, d, e, f, g, h] =>
    let t1 := h + (rotr e 6 ^^^ (rotr e 11 ^^^ rotr e 25)) + ((e &&& f) ^^^ (~~~e &&& g)) + k + w
    let t2 := (rotr a 2 ^^^ (rotr a 13 ^^^ rotr a 22)) + ((a &&& b) ^^^ ((a &&& c) ^^^ (b &&& c)))
    [t1 + t2, a, b, c, d + t1, e, f, g]
  | _ => v

/-- The rounds over the constants left, with the window of the schedule. -/
def shaRounds : List Word32 → List Word32 → List Word32 → List Word32
  | [], _, v => v
  | k :: ks, w, v => shaRounds ks (w.drop 1 ++ [shaNext w]) (shaRound v k (wordNth w 0))

/-- Sixteen big-endian words of a 64-byte block. -/
def shaWords (bs : List Byte) : List Word32 :=
  (List.range 16).map fun i => BitVec.ofNat 32 (((bs.drop (4 * i)).take 4).foldl (fun a b => a * 256 + b.toNat) 0)

/-- The hash value after n blocks. -/
def shaBlocks : Nat → List Byte → List Word32 → List Word32
  | 0, _, h => h
  | n + 1, bs, h => shaBlocks n (bs.drop 64) (List.zipWith (· + ·) h (shaRounds shaK (shaWords bs) h))

/-- Padding to whole blocks: a one bit, zeros, the length in bits. -/
def shaPad (bs : List Byte) : List Byte :=
  bs ++ ([0x80] ++ (List.replicate ((119 - bs.length % 64) % 64) 0 ++ (leBytes 8 (8 * bs.length)).reverse))

/-- SHA-256 of a byte string. -/
def sha256 (bs : List Byte) : List Byte :=
  let p := shaPad bs
  (shaBlocks (p.length / 64) p shaInit).flatMap fun w => (leBytes 4 w.toNat).reverse

/-- HMAC-SHA-256 under a 32-byte key. -/
def hmac (key msg : List Byte) : List Byte :=
  let k := key ++ List.replicate 32 0
  sha256 (k.map (· ^^^ 0x5C) ++ sha256 (k.map (· ^^^ 0x36) ++ msg))

/-- Seal of R381: the key's bytes lowest first, 26 bits of the digest. -/
def sealOf (key : BitVec 256) (x : Nat) : Nat :=
  ofLeBytes ((hmac (leBytes 32 key.toNat) (leBytes 8 (x % 2 ^ 38))).take 4) % 2 ^ 26

/-- One bit of the CRC-64 of ECMA-182, most significant first. -/
def crcBit (c : Word) : Word := if c.getLsbD 63 then (c <<< 1) ^^^ 0x42F0E1EBA9EA3693 else c <<< 1

/-- Eight bits of it. -/
def crcByte (c : Word) (b : Byte) : Word :=
  let x := c ^^^ (b.setWidth 64 <<< 56)
  crcBit (crcBit (crcBit (crcBit (crcBit (crcBit (crcBit (crcBit x)))))))

/-- The CRC-64 of ECMA-182. -/
def crc64 (bs : List Byte) : Word := bs.foldl crcByte 0

end Sys2Proof.Machine
end

