-- ==== Sys2Proof/Machine/SysRegs.lean ====
section
/-!
DEFINITION. The system register space (R19, R20): which numbers are assigned, their privileges and field access codes (R9),
what a read shows and what a write does.
-/

namespace Sys2Proof.Machine

/-- One row of a register table: `count` registers from `first` on, their scope, privileges and field masks. -/
structure SrRow where
  first : Nat
  count : Nat
  /-- Belongs to the control context alone (R120). -/
  control : Bool
  /-- Held by each context. -/
  context : Bool
  rdSup : Bool
  wrSup : Bool
  rw : Nat
  ro : Nat
  w1c : Nat
  wo : Nat
deriving DecidableEq, Repr

/-- System registers, part 1 of 8 of the register tables. -/
def srRows1 : List SrRow := [
  { first := 0x0, count := 1, control := false, context := true, rdSup := false, wrSup := true,
    rw := 0x4, ro := 0x3, w1c := 0x0, wo := 0x0 },
  { first := 0x1, count := 1, control := false, context := true, rdSup := false, wrSup := false,
    rw := 0xfff, ro := 0x0, w1c := 0x0, wo := 0x0 },
  { first := 0x2, count := 1, control := false, context := true, rdSup := false, wrSup := false,
    rw := 0x0, ro := 0x60ffffffffffffff, w1c := 0x8000000000000000, wo := 0x0 },
  { first := 0x3, count := 1, control := false, context := true, rdSup := false, wrSup := false,
    rw := 0x0, ro := 0xffffffffffffffff, w1c := 0x0, wo := 0x0 },
  { first := 0x4, count := 1, control := false, context := false, rdSup := false, wrSup := false,
    rw := 0x0, ro := 0x3f0fff, w1c := 0x0, wo := 0x0 },
  { first := 0x8, count := 1, control := true, context := false, rdSup := true, wrSup := true,
    rw := 0xfffffffffffc, ro := 0x0, w1c := 0x0, wo := 0x0 },
  { first := 0x9, count := 1, control := true, context := false, rdSup := true, wrSup := true,
    rw := 0xff, ro := 0x0, w1c := 0x0, wo := 0x0 },
  { first := 0xa, count := 1, control := true, context := false, rdSup := true, wrSup := true,
    rw := 0xfffffffffffc, ro := 0x0, w1c := 0x0, wo := 0x0 },
  { first := 0xb, count := 1, control := true, context := false, rdSup := true, wrSup := true,
    rw := 0xffffffffffffffff, ro := 0x0, w1c := 0x0, wo := 0x0 },
  { first := 0xc, count := 1, control := true, context := false, rdSup := true, wrSup := true,
    rw := 0xf301, ro := 0x0, w1c := 0x0, wo := 0x0 },
  { first := 0x10, count := 4, control := true, context := false, rdSup := true, wrSup := true,
    rw := 0xffffffffffffffff, ro := 0x0, w1c := 0x0, wo := 0x0 },
  { first := 0x40, count := 1, control := false, context := false, rdSup := false, wrSup := true,
    rw := 0x0, ro := 0x7ff, w1c := 0x0, wo := 0x7ff0000 },
  { first := 0x41, count := 1, control := false, context := true, rdSup := false, wrSup := false,
    rw := 0xffff, ro := 0x0, w1c := 0x0, wo := 0x0 },
  { first := 0x42, count := 1, control := false, context := false, rdSup := false, wrSup := false,
    rw := 0x0, ro := 0xffffffffff, w1c := 0x0, wo := 0x0 },
  { first := 0x43, count := 1, control := true, context := false, rdSup := false, wrSup := false,
    rw := 0xfffffffffffc, ro := 0x0, w1c := 0x0, wo := 0x0 },
  { first := 0x44, count := 1, control := false, context := false, rdSup := false, wrSup := false,
    rw := 0x0, ro := 0xc0ffffffffffffff, w1c := 0x0, wo := 0x0 }]

/-- System registers, part 2 of 8 of the register tables. -/
def srRows2 : List SrRow := [
  { first := 0x45, count := 1, control := false, context := false, rdSup := false, wrSup := false,
    rw := 0x0, ro := 0xffffffffffff, w1c := 0x0, wo := 0x0 },
  { first := 0x46, count := 1, control := true, context := false, rdSup := true, wrSup := true,
    rw := 0x3fffffffffffc, ro := 0x0, w1c := 0x0, wo := 0x0 },
  { first := 0x48, count := 1, control := false, context := false, rdSup := false, wrSup := true,
    rw := 0x3ffffff00, ro := 0xff, w1c := 0x0, wo := 0x0 },
  { first := 0x49, count := 3, control := false, context := false, rdSup := false, wrSup := true,
    rw := 0xffffffff, ro := 0x0, w1c := 0x0, wo := 0x0 },
  { first := 0x4c, count := 1, control := false, context := false, rdSup := false, wrSup := true,
    rw := 0x0, ro := 0xffff0000000003, w1c := 0xc, wo := 0x0 },
  { first := 0x4d, count := 1, control := false, context := false, rdSup := false, wrSup := false,
    rw := 0x0, ro := 0xffffffffffffffff, w1c := 0x0, wo := 0x0 },
  { first := 0x4e, count := 2, control := false, context := false, rdSup := false, wrSup := false,
    rw := 0x0, ro := 0xffffffff, w1c := 0x0, wo := 0x0 },
  { first := 0x50, count := 1, control := false, context := false, rdSup := false, wrSup := false,
    rw := 0x0, ro := 0xffffffffffffffff, w1c := 0x0, wo := 0x0 },
  { first := 0x51, count := 1, control := false, context := false, rdSup := false, wrSup := false,
    rw := 0x0, ro := 0x80000000ffffffff, w1c := 0x0, wo := 0x0 },
  { first := 0x54, count := 2, control := false, context := false, rdSup := false, wrSup := false,
    rw := 0x0, ro := 0xffffffff, w1c := 0x0, wo := 0x0 },
  { first := 0x56, count := 1, control := false, context := false, rdSup := false, wrSup := false,
    rw := 0x0, ro := 0xffffffffffffffff, w1c := 0x0, wo := 0x0 },
  { first := 0x57, count := 1, control := false, context := false, rdSup := false, wrSup := false,
    rw := 0x0, ro := 0xcfffffffffffffff, w1c := 0x0, wo := 0x0 },
  { first := 0x7a, count := 3, control := false, context := true, rdSup := false, wrSup := false,
    rw := 0xffffffffffffffff, ro := 0x0, w1c := 0x0, wo := 0x0 },
  { first := 0x7d, count := 3, control := false, context := true, rdSup := false, wrSup := false,
    rw := 0xff01fffffffffffc, ro := 0x0, w1c := 0x0, wo := 0x0 },
  { first := 0x80, count := 1, control := false, context := false, rdSup := false, wrSup := true,
    rw := 0x80000000000003ff, ro := 0x0, w1c := 0x0, wo := 0x0 },
  { first := 0x81, count := 1, control := false, context := false, rdSup := true, wrSup := true,
    rw := 0xffffffffff8000, ro := 0x0, w1c := 0x0, wo := 0x0 }]

/-- System registers, part 3 of 8 of the register tables. -/
def srRows3 : List SrRow := [
  { first := 0x82, count := 1, control := false, context := true, rdSup := false, wrSup := true,
    rw := 0xffffffffffc7, ro := 0x0, w1c := 0x0, wo := 0x0 },
  { first := 0x83, count := 1, control := false, context := true, rdSup := false, wrSup := true,
    rw := 0xffffffffffc0, ro := 0x0, w1c := 0x0, wo := 0x0 },
  { first := 0x84, count := 1, control := false, context := true, rdSup := false, wrSup := true,
    rw := 0xffffffffffffffc0, ro := 0x0, w1c := 0x0, wo := 0x0 },
  { first := 0x85, count := 1, control := false, context := true, rdSup := false, wrSup := false,
    rw := 0x0, ro := 0x30fffffffffffff, w1c := 0x8000000000000000, wo := 0x0 },
  { first := 0x86, count := 1, control := false, context := false, rdSup := true, wrSup := true,
    rw := 0x3ff, ro := 0x8000000000000000, w1c := 0x0, wo := 0x0 },
  { first := 0x88, count := 1, control := false, context := false, rdSup := true, wrSup := true,
    rw := 0x0, ro := 0x7, w1c := 0x0, wo := 0x8 },
  { first := 0x89, count := 1, control := false, context := false, rdSup := true, wrSup := false,
    rw := 0x0, ro := 0xffffffffffff, w1c := 0x0, wo := 0x0 },
  { first := 0x8a, count := 1, control := false, context := false, rdSup := true, wrSup := false,
    rw := 0x0, ro := 0xffffffffffffffff, w1c := 0x0, wo := 0x0 },
  { first := 0x8b, count := 1, control := false, context := false, rdSup := true, wrSup := false,
    rw := 0x0, ro := 0xfffffefff00007ff, w1c := 0x0, wo := 0x0 },
  { first := 0x8c, count := 1, control := false, context := false, rdSup := true, wrSup := false,
    rw := 0x0, ro := 0xfffffffffffc, w1c := 0x0, wo := 0x0 },
  { first := 0x8d, count := 1, control := false, context := false, rdSup := true, wrSup := false,
    rw := 0x0, ro := 0xc000ffffffffffff, w1c := 0x0, wo := 0x0 },
  { first := 0x8e, count := 1, control := false, context := false, rdSup := true, wrSup := false,
    rw := 0x0, ro := 0xffffffffffffffff, w1c := 0x0, wo := 0x0 },
  { first := 0x8f, count := 1, control := false, context := false, rdSup := true, wrSup := true,
    rw := 0xffffffffffc0, ro := 0x0, w1c := 0x0, wo := 0x0 },
  { first := 0x90, count := 1, control := false, context := false, rdSup := false, wrSup := true,
    rw := 0x0, ro := 0x3f, w1c := 0x100, wo := 0x0 },
  { first := 0xc0, count := 1, control := true, context := false, rdSup := false, wrSup := false,
    rw := 0x0, ro := 0xffffffffffffffff, w1c := 0x0, wo := 0x0 },
  { first := 0xc1, count := 1, control := true, context := false, rdSup := false, wrSup := false,
    rw := 0x0, ro := 0xfffff, w1c := 0x0, wo := 0x0 }]

/-- System registers, part 4 of 8 of the register tables. -/
def srRows4 : List SrRow := [
  { first := 0xc2, count := 1, control := false, context := false, rdSup := false, wrSup := true,
    rw := 0xffffffffffff, ro := 0x0, w1c := 0x0, wo := 0x0 },
  { first := 0xc3, count := 1, control := false, context := false, rdSup := false, wrSup := true,
    rw := 0xffffffffffffffff, ro := 0x0, w1c := 0x0, wo := 0x0 },
  { first := 0xc4, count := 4, control := true, context := false, rdSup := false, wrSup := false,
    rw := 0x0, ro := 0xffff03ff, w1c := 0x0, wo := 0x0 },
  { first := 0xc8, count := 1, control := false, context := false, rdSup := false, wrSup := true,
    rw := 0xffffffffffffffff, ro := 0x0, w1c := 0x0, wo := 0x0 },
  { first := 0xc9, count := 1, control := true, context := false, rdSup := false, wrSup := false,
    rw := 0x0, ro := 0xff, w1c := 0x0, wo := 0x0 },
  { first := 0xd0, count := 3, control := true, context := false, rdSup := false, wrSup := false,
    rw := 0xffffffffffffffff, ro := 0x0, w1c := 0x0, wo := 0x0 },
  { first := 0xd4, count := 3, control := true, context := false, rdSup := false, wrSup := false,
    rw := 0xffffffffffffffff, ro := 0x0, w1c := 0x0, wo := 0x0 },
  { first := 0xd8, count := 3, control := true, context := false, rdSup := false, wrSup := false,
    rw := 0xffffffffffffffff, ro := 0x0, w1c := 0x0, wo := 0x0 },
  { first := 0xdc, count := 3, control := true, context := false, rdSup := false, wrSup := false,
    rw := 0xffffffffffffffff, ro := 0x0, w1c := 0x0, wo := 0x0 },
  { first := 0xe0, count := 3, control := true, context := false, rdSup := false, wrSup := false,
    rw := 0xffffffffffffffff, ro := 0x0, w1c := 0x0, wo := 0x0 },
  { first := 0xe4, count := 3, control := true, context := false, rdSup := false, wrSup := false,
    rw := 0xffffffffffffffff, ro := 0x0, w1c := 0x0, wo := 0x0 },
  { first := 0xe8, count := 3, control := true, context := false, rdSup := false, wrSup := false,
    rw := 0xffffffffffffffff, ro := 0x0, w1c := 0x0, wo := 0x0 },
  { first := 0xec, count := 3, control := true, context := false, rdSup := false, wrSup := false,
    rw := 0xffffffffffffffff, ro := 0x0, w1c := 0x0, wo := 0x0 },
  { first := 0xff, count := 1, control := false, context := false, rdSup := true, wrSup := true,
    rw := 0x0, ro := 0x1f0000000000, w1c := 0xffffffffff, wo := 0x0 },
  { first := 0x100, count := 1, control := false, context := false, rdSup := false, wrSup := false,
    rw := 0x0, ro := 0x1f, w1c := 0x0, wo := 0x0 },
  { first := 0x101, count := 1, control := false, context := false, rdSup := false, wrSup := false,
    rw := 0x0, ro := 0xff0fffff0000, w1c := 0x8000000000000000, wo := 0x0 }]

/-- System registers, part 5 of 8 of the register tables. -/
def srRows5 : List SrRow := [
  { first := 0x102, count := 1, control := false, context := false, rdSup := false, wrSup := false,
    rw := 0x0, ro := 0xffffffffffffff, w1c := 0x0, wo := 0x0 },
  { first := 0x104, count := 1, control := true, context := false, rdSup := false, wrSup := false,
    rw := 0x0, ro := 0xc7c7c7c7, w1c := 0x0, wo := 0x0 },
  { first := 0x108, count := 1, control := false, context := false, rdSup := false, wrSup := true,
    rw := 0x8000fffffffff0ff, ro := 0x0, w1c := 0x0, wo := 0x0 },
  { first := 0x109, count := 1, control := false, context := false, rdSup := false, wrSup := false,
    rw := 0x0, ro := 0x3ffffff, w1c := 0x0, wo := 0x0 },
  { first := 0x110, count := 16, control := false, context := false, rdSup := false, wrSup := true,
    rw := 0x0, ro := 0xc000ffffffffffff, w1c := 0x0, wo := 0x0 },
  { first := 0x120, count := 1, control := false, context := false, rdSup := false, wrSup := false,
    rw := 0x0, ro := 0x0, w1c := 0xffff, wo := 0x0 },
  { first := 0x140, count := 1, control := false, context := false, rdSup := true, wrSup := true,
    rw := 0x27ff00000000ffff, ro := 0x0, w1c := 0x0, wo := 0xd800000000000000 },
  { first := 0x141, count := 1, control := false, context := false, rdSup := false, wrSup := false,
    rw := 0x0, ro := 0xffffffff0000ffff, w1c := 0x0, wo := 0x0 },
  { first := 0x142, count := 1, control := false, context := false, rdSup := true, wrSup := false,
    rw := 0x0, ro := 0xffffffffffff, w1c := 0x0, wo := 0x0 },
  { first := 0x143, count := 1, control := false, context := false, rdSup := true, wrSup := false,
    rw := 0x0, ro := 0xfffffffffffffff, w1c := 0x0, wo := 0x0 },
  { first := 0x144, count := 1, control := false, context := false, rdSup := true, wrSup := false,
    rw := 0x0, ro := 0x3ffffffffffff, w1c := 0x0, wo := 0x0 },
  { first := 0x145, count := 1, control := false, context := false, rdSup := true, wrSup := false,
    rw := 0x0, ro := 0xffffffffffffffff, w1c := 0x0, wo := 0x0 },
  { first := 0x148, count := 4, control := false, context := false, rdSup := true, wrSup := true,
    rw := 0xfffcfffffffffffc, ro := 0x0, w1c := 0x0, wo := 0x0 },
  { first := 0x150, count := 1, control := false, context := false, rdSup := true, wrSup := true,
    rw := 0xfc00ffffffffffff, ro := 0x0, w1c := 0x0, wo := 0x0 },
  { first := 0x151, count := 1, control := false, context := false, rdSup := true, wrSup := true,
    rw := 0xffffffffffffffff, ro := 0x0, w1c := 0x0, wo := 0x0 },
  { first := 0x152, count := 1, control := false, context := false, rdSup := true, wrSup := true,
    rw := 0xfc00ffffffffffff, ro := 0x0, w1c := 0x0, wo := 0x0 }]

/-- System registers, part 6 of 8 of the register tables. -/
def srRows6 : List SrRow := [
  { first := 0x153, count := 1, control := false, context := false, rdSup := true, wrSup := true,
    rw := 0xffffffffffffffff, ro := 0x0, w1c := 0x0, wo := 0x0 },
  { first := 0x154, count := 1, control := false, context := false, rdSup := true, wrSup := true,
    rw := 0xfc00ffffffffffff, ro := 0x0, w1c := 0x0, wo := 0x0 },
  { first := 0x155, count := 1, control := false, context := false, rdSup := true, wrSup := true,
    rw := 0xffffffffffffffff, ro := 0x0, w1c := 0x0, wo := 0x0 },
  { first := 0x156, count := 1, control := false, context := false, rdSup := true, wrSup := true,
    rw := 0xfc00ffffffffffff, ro := 0x0, w1c := 0x0, wo := 0x0 },
  { first := 0x157, count := 1, control := false, context := false, rdSup := true, wrSup := true,
    rw := 0xffffffffffffffff, ro := 0x0, w1c := 0x0, wo := 0x0 },
  { first := 0x158, count := 8, control := false, context := false, rdSup := false, wrSup := true,
    rw := 0xffffffffffffffff, ro := 0x0, w1c := 0x0, wo := 0x0 },
  { first := 0x160, count := 8, control := false, context := false, rdSup := false, wrSup := true,
    rw := 0x7ffff, ro := 0x0, w1c := 0x0, wo := 0x0 },
  { first := 0x168, count := 1, control := false, context := false, rdSup := true, wrSup := true,
    rw := 0xffffffffffc0, ro := 0x0, w1c := 0x0, wo := 0x0 },
  { first := 0x169, count := 1, control := false, context := false, rdSup := true, wrSup := true,
    rw := 0xffffffff, ro := 0x0, w1c := 0x0, wo := 0x0 },
  { first := 0x16a, count := 1, control := false, context := false, rdSup := true, wrSup := true,
    rw := 0xc000ffffffff00ff, ro := 0x0, w1c := 0x0, wo := 0x0 },
  { first := 0x16b, count := 1, control := false, context := false, rdSup := true, wrSup := false,
    rw := 0x0, ro := 0xffffffff, w1c := 0x0, wo := 0x0 },
  { first := 0x16c, count := 1, control := false, context := false, rdSup := true, wrSup := true,
    rw := 0xffffffffffffffff, ro := 0x0, w1c := 0x0, wo := 0x0 },
  { first := 0x16d, count := 1, control := false, context := false, rdSup := false, wrSup := false,
    rw := 0x0, ro := 0x80000000000000ff, w1c := 0x0, wo := 0x0 },
  { first := 0x180, count := 1, control := false, context := false, rdSup := true, wrSup := true,
    rw := 0x8000ffffffff0000, ro := 0x0, w1c := 0x0, wo := 0x0 },
  { first := 0x181, count := 1, control := false, context := false, rdSup := false, wrSup := false,
    rw := 0x0, ro := 0xf00000000000010f, w1c := 0x0, wo := 0x0 },
  { first := 0x182, count := 1, control := false, context := false, rdSup := true, wrSup := true,
    rw := 0xffff, ro := 0x0, w1c := 0x0, wo := 0x0 }]

/-- System registers, part 7 of 8 of the register tables. -/
def srRows7 : List SrRow := [
  { first := 0x183, count := 1, control := false, context := false, rdSup := true, wrSup := true,
    rw := 0xffffffff0000, ro := 0x0, w1c := 0x0, wo := 0x0 },
  { first := 0x184, count := 1, control := false, context := false, rdSup := true, wrSup := true,
    rw := 0xffff, ro := 0x0, w1c := 0x0, wo := 0x0 },
  { first := 0x185, count := 1, control := false, context := false, rdSup := false, wrSup := false,
    rw := 0x0, ro := 0xf8000000ffffffff, w1c := 0x0, wo := 0x0 },
  { first := 0x186, count := 1, control := false, context := false, rdSup := false, wrSup := false,
    rw := 0x0, ro := 0x8000ffffffffffff, w1c := 0x0, wo := 0x0 },
  { first := 0x187, count := 1, control := false, context := false, rdSup := true, wrSup := true,
    rw := 0x0, ro := 0x70ffffffffffffff, w1c := 0x8000000000000000, wo := 0x0 },
  { first := 0x190, count := 1, control := false, context := false, rdSup := true, wrSup := false,
    rw := 0x0, ro := 0xffff00f0f0cf, w1c := 0x0, wo := 0x0 },
  { first := 0x191, count := 1, control := false, context := false, rdSup := false, wrSup := false,
    rw := 0x0, ro := 0x3ffff, w1c := 0x0, wo := 0x0 },
  { first := 0x192, count := 1, control := false, context := false, rdSup := false, wrSup := false,
    rw := 0x7ff, ro := 0x0, w1c := 0x0, wo := 0x0 },
  { first := 0x193, count := 1, control := false, context := false, rdSup := false, wrSup := false,
    rw := 0x3, ro := 0x3ff0000, w1c := 0x8000000000000000, wo := 0x0 },
  { first := 0x194, count := 1, control := false, context := false, rdSup := false, wrSup := false,
    rw := 0x0, ro := 0xf00000ffff, w1c := 0x0, wo := 0x0 },
  { first := 0x195, count := 1, control := false, context := false, rdSup := true, wrSup := true,
    rw := 0x4707000000000000, ro := 0x8000ffff0000, w1c := 0x0, wo := 0x8000000000000000 },
  { first := 0x196, count := 1, control := false, context := false, rdSup := true, wrSup := false,
    rw := 0x0, ro := 0xffff, w1c := 0x0, wo := 0x0 },
  { first := 0x197, count := 1, control := false, context := false, rdSup := true, wrSup := false,
    rw := 0x0, ro := 0x8000ff000000ffff, w1c := 0x0, wo := 0x0 },
  { first := 0x198, count := 1, control := false, context := false, rdSup := true, wrSup := false,
    rw := 0x0, ro := 0xffffff, w1c := 0x0, wo := 0x0 },
  { first := 0x1a0, count := 1, control := false, context := false, rdSup := false, wrSup := false,
    rw := 0x0, ro := 0x1fff, w1c := 0x0, wo := 0x0 },
  { first := 0x1a1, count := 1, control := false, context := false, rdSup := false, wrSup := false,
    rw := 0x0, ro := 0xffffffffffffffff, w1c := 0x0, wo := 0x0 }]

/-- System registers, part 8 of 8 of the register tables. -/
def srRows8 : List SrRow := [
  { first := 0x1a2, count := 1, control := false, context := false, rdSup := true, wrSup := true,
    rw := 0xfffffffffffc, ro := 0x0, w1c := 0x0, wo := 0x0 },
  { first := 0x1a3, count := 1, control := false, context := false, rdSup := true, wrSup := true,
    rw := 0x80000000000003ff, ro := 0x0, w1c := 0x0, wo := 0x0 },
  { first := 0x1a4, count := 1, control := false, context := false, rdSup := true, wrSup := true,
    rw := 0xffffffffff8000, ro := 0x0, w1c := 0x0, wo := 0x0 },
  { first := 0x1a5, count := 1, control := false, context := false, rdSup := true, wrSup := true,
    rw := 0xffffffffffc0, ro := 0x0, w1c := 0x0, wo := 0x0 },
  { first := 0x1a6, count := 1, control := false, context := false, rdSup := true, wrSup := true,
    rw := 0xffffffffffff0000, ro := 0x0, w1c := 0x0, wo := 0x0 },
  { first := 0x1a7, count := 1, control := false, context := false, rdSup := true, wrSup := true,
    rw := 0xffff, ro := 0x0, w1c := 0x0, wo := 0x0 }]

/-- Every assigned number (R22, R83, R122, R160, R190, R227, R110, R241, R278, R317, R339, R366, R399). -/
def srRows : List SrRow :=
  srRows1 ++ (srRows2 ++ (srRows3 ++ (srRows4 ++ (srRows5 ++ (srRows6 ++ (srRows7 ++ (srRows8)))))))

/-- The row of a number, if a register is assigned to it. -/
def srRow (n : Nat) : Option SrRow := srRows.find? fun r => r.first ≤ n && n < r.first + r.count

/-- The fields a read shows. -/
def SrRow.shown (r : SrRow) : Word := BitVec.ofNat 64 (r.rw ||| (r.ro ||| r.w1c))

/-- The bits that are not reserved. -/
def SrRow.known (r : SrRow) : Word := BitVec.ofNat 64 (r.rw ||| (r.ro ||| (r.w1c ||| r.wo)))

/-- A write by the access codes: RW fields take the value, W1C bits clear where 1 is written, RO fields stay (R9). -/
def SrRow.written (r : SrRow) (old v : Word) : Word :=
  let rw := BitVec.ofNat 64 r.rw
  let w1 := BitVec.ofNat 64 r.w1c
  (old &&& ~~~rw &&& ~~~(w1 &&& v)) ||| (v &&& rw)

/-- Why an access is refused. -/
inductive SrFail where
  | illegal | privilege
deriving DecidableEq, Repr

/-- The checks of R20 for an access: `helper`, made by a helper context; `sup`, with supervisor rights; `v`, the value of a
write. -/
def srCheck (n : Nat) (helper sup : Bool) (v : Option Word) : Option SrFail :=
  match srRow n with
  | none => some .illegal
  | some r =>
    if helper && r.control then some .illegal
    else if (match v with | some _ => r.wrSup || r.rdSup | none => r.rdSup) && !sup then some .privilege
    else
      match v with
      | some v => if v &&& ~~~r.known ≠ 0 then some .illegal else none
      | none => none

/-! ## Views -/

/-- The partition of a core has been assigned (R421). -/
def State.partHeld (s : State) (lcn : Nat) : Option Nat := (s.towerAt (towerOf lcn)).part

/-- A partition register. -/
def State.partReg (s : State) (lcn n : Nat) : Word :=
  match s.partHeld lcn with
  | some p => Tab.get 0 (s.partAt p).sr n
  | none => 0

/-- Every access that used an entry dropped by an invalidation has performed (R249, R250). -/
def State.flushDone (s : State) (f : Flush) : Bool :=
  !f.fps.any (fun x => (s.coreAt x.1).fps.any fun y => y.id == x.2) &&
  !f.drains.any (fun x => (s.coreAt x.1).mat.queue.any fun o => o.drains && o.seq == x.2) &&
  !s.fab.proxies.any (fun o => f.ops.any (· == o.id) && (match o.st with | .queued | .sent => true | _ => false))

/-- An ASID of a partition is being retired (R243, R250). -/
def State.asidBusy (s : State) (part : Nat) (n : BitVec 10) : Bool :=
  s.fab.flushing.any fun f => f.part == part && (f.asid == some n && (f.k != 11 || !s.flushDone f))

/-- The site that carries a logical tower (R377, R378). -/
def State.siteOf (s : State) (tower : Nat) : Option Nat :=
  (List.range Config.sites).find? fun n => (s.site n).st == 0 && (s.site n).lt == tower

/-- A site serves (R388). -/
def State.serves (s : State) (n : Nat) : Bool := (s.site n).bs == 6 || (s.site n).bs == 7

/-- A logical tower is placed at a site that serves (R378). -/
def State.towerServes (s : State) (tower : Nat) : Bool :=
  match s.siteOf tower with
  | some n => s.serves n
  | none => false

/-- dpol as it reads: where no policy is bound, every class reads as its most restrictive form (R358; DEDUCED, log entry 93). -/
def shownPolicy (p : BitVec 64) : BitVec 64 := if p.getLsbD 63 then p else 0xAB

/-- The policy in force of a core's partition: every class most restrictive where none is bound (R355, R358). -/
def State.policy (s : State) (lcn : Nat) : BitVec 64 :=
  match s.partHeld lcn with
  | some p => shownPolicy (s.partAt p).dpol
  | none => 0xAB

/-- Coarsening of an imbalance record (R357): EARLY, LATE and SUM to multiples of 4,096, LAST names no core. -/
def Imbal.coarse (r : Imbal) : Imbal :=
  { r with early := r.early / 4096 * 4096, late := r.late / 4096 * 4096, sum := r.sum / 4096 * 4096, last := 0xFFF }

/-- imbal0 to imbal3 of a record (R123). -/
def Imbal.word (r : Imbal) (co : Bool) (j : Nat) : Word :=
  match j with
  | 0 => BitVec.ofNat 64 r.early
  | 1 => BitVec.ofNat 64 r.late
  | 2 => BitVec.ofNat 64 r.sum
  | _ => BitVec.ofNat 64
    (b2n r.k * 2 ^ 63 + b2n co * 2 ^ 62 + r.ncore % 2 ^ 16 * 2 ^ 44 + r.ss % 2 ^ 32 * 2 ^ 12 + r.last % 2 ^ 12)

/-- An imbalance register as a reader sees it: group level reads the coarsened record under IMB = 1 (R357). -/
def State.imbal (s : State) (lcn : Nat) (sup : Bool) (j : Nat) : Word :=
  let r := (s.domOf lcn).record
  if !sup && (s.policy lcn).getLsbD 7 then r.coarse.word true j else r.word false j

/-- ctxs.LIVE. -/
def Core.liveMask (c : Core) : Nat :=
  (List.range 11).foldl (fun a k => a + (if k = 0 ∨ (c.ctx k).st ≠ .free then 2 ^ k else 0)) 0

/-- gstat. -/
def Core.gstat (c : Core) : Word := c.groupWord ||| BitVec.ofNat 64 (c.mem.killed.toNat * 2 ^ 48)

/-- Domain codes of registers, two bits each. -/
def domCodes (t : Tab VReg) (n : Nat) : Nat :=
  (List.range n).foldl (fun a i => a + (Tab.get VReg.zero t i).dom.toNat * 4 ^ i) 0

/-- sstat. -/
def Core.sstat (c : Core) : Nat :=
  (List.range 4).foldl (fun a k => a + (match Tab.find? c.streams k with
    | some x => (128 + 64 * b2n x.past + x.ready.length % 8) * 256 ^ k
    | none => 0)) 0

/-- The head record of the store-fault queue; zero while it is empty (R242). -/
def Core.sfHead (c : Core) (f : SfRec → Word) : Word := match c.sfq with | r :: _ => f r | [] => 0

/-- bstate of a site (R367). -/
def Site.bstate (x : Site) : Nat :=
  satNat x.step 65535 * 2 ^ 32 + x.absent.toNat * 2 ^ 20 + x.turret % 16 * 2 ^ 12 + x.side % 4 * 2 ^ 6 + x.bs % 16

/-- The gang of a core. -/
def State.gangOf (s : State) (lcn : Nat) : Option Gang := s.gang? (s.coreAt lcn).mem.shown

/-! ## Paths over the meshes and network-select entries (R373, R375, R376) -/

/-- One step of a dimension-order path, along px or py. -/
def towards (a b : Nat) : Nat := if a < b then a + 1 else a - 1

/-- The sites from one site to another, the first included: along px first, or py first. -/
def pathSites : Nat → Bool → Nat × Nat → Nat × Nat → List (Nat × Nat)
  | 0, _, a, _ => [a]
  | n + 1, yFirst, a, b =>
    if a = b then [a]
    else if (yFirst && a.2 != b.2) || a.1 == b.1 then a :: pathSites n yFirst (a.1, towards a.2 b.2) b
    else a :: pathSites n yFirst (towards a.1 b.1, a.2) b

/-- The side of a site that faces an adjacent site: 0 west, 1 south, 2 east, 3 north. -/
def sideTo (a b : Nat × Nat) : Nat := if b.1 < a.1 then 0 else if b.2 < a.2 then 1 else if b.1 > a.1 then 2 else 3

/-- Two adjacent sites are joined: neither end records the bond as absent. -/
def State.bondUp (s : State) (a b : Nat × Nat) : Bool :=
  let at' := fun (p : Nat × Nat) => s.site (18 * p.2 + p.1)
  !(at' a).absent.getLsbD (sideTo a b) && !(at' b).absent.getLsbD (sideTo b a)

/-- A path is open: every site but the last serves, and no bond on it is absent (R376). -/
def State.pathOpen (s : State) : List (Nat × Nat) → Bool
  | a :: b :: t => s.serves (18 * a.2 + a.1) && (s.bondUp a b && s.pathOpen (b :: t))
  | _ => true

/-- The check of R376 on one mesh, from one logical tower to another. -/
def State.meshOpen (s : State) (yx : Bool) (src dst : Nat) : Bool :=
  match s.siteOf src, s.siteOf dst with
  | some a, some b => s.pathOpen (pathSites 40 yx (a % 18, a / 18) (b % 18, b / 18))
  | _, _ => false

/-- A network-select key: class and destination (R375). -/
def nsKey (cls dest : Nat) : Nat := 512 * cls + dest

/-- Hops between the sites of two logical towers. -/
def State.hops (s : State) (a b : Nat) : Nat :=
  match s.siteOf a, s.siteOf b with
  | some x, some y => (max (x % 18) (y % 18) - min (x % 18) (y % 18)) + (max (x / 18) (y / 18) - min (x / 18) (y / 18))
  | _, _ => 0

/-- A leg between two logical towers passes the check of R376 on one of the meshes. -/
def State.legOpen (s : State) (a b : Nat) : Bool := s.meshOpen false a b || s.meshOpen true a b

/-- The better of two waypoints: fewer hops in all, then on the first leg, then the lower index. -/
def State.betterWay (s : State) (src dst : Nat) (best : Option Nat) (w : Nat) : Option Nat :=
  let total := fun x => s.hops src x + s.hops x dst
  match best with
  | none => some w
  | some v => if total w < total v ∨ (total w = total v ∧ s.hops src w < s.hops src v) then some w else some v

/-- The entry of the service layout for a map (R376): M1, WAYPT, CODE. -/
def State.layoutEntry (s : State) (src dst : Nat) : BitVec 26 :=
  if s.meshOpen false src dst then 0
  else if s.meshOpen true src dst then 1
  else
    let ways := (List.range Config.towers).filter fun w =>
      w != src && (w != dst && (s.towerServes w && (s.legOpen src w && s.legOpen w dst)))
    match ways.foldl (s.betterWay src dst) none with
    | some w => BitVec.ofNat 26 (b2n (!s.meshOpen false src w) * 2 ^ 25 + w * 2 ^ 16 + 2)
    | none => 3

/-- A network-select entry of a tower: as written since the last layout, else as the service firmware last laid it out, which in
the boot generation it does as each tower comes into service (R376; DESIGN CHOICE, log entry 6); XY before that. -/
def State.nsEntry (s : State) (tower cls dest : Nat) : BitVec 26 :=
  match Tab.find? (s.towerAt tower).ns (nsKey cls dest) with
  | some e => e
  | none =>
    match s.fab.laid with
    | none => 0
    | some sites => ({ s with fab := { s.fab with sites := sites } } : State).layoutEntry tower dest

/-- The ring of a core's tower. -/
def State.ringOf (s : State) (lcn : Nat) : Ring := (s.towerAt (towerOf lcn)).ring

/-- Module power in watts, and the hottest sensor of a tower in degrees, as measured: 0 until the first measurement after reset
(R367; log entry 2). -/
def State.power (s : State) : Nat := if s.clock = 0 then 0 else (Config.modulePower s.tick).toNat
def State.hottest (s : State) : Nat := if s.clock = 0 then 0 else (Config.hottestSensor s.tick).toNat

/-- The value of a register as the context would read it; `sup`, with supervisor rights. -/
def State.srView (s : State) (lcn k n : Nat) (sup : Bool) : Word :=
  let c := s.coreAt lcn
  let x := c.ctx k
  let d := s.domOf lcn
  let nat := fun v => BitVec.ofNat 64 v
  match n with
  | 0x000 => nat (x.priv.toNat + (if k = 0 then 4 * b2n c.ta else 0))
  | 0x003 => nat (x.cycles s.clock)
  | 0x004 => nat (s.partOf lcn % 64 * 2 ^ 16 + s.lcnShown lcn % 4096)
  | 0x040 => nat c.liveMask
  | 0x042 => nat ((List.range 8).foldl (fun a q => a + (Tab.get [] c.hq q).length * 32 ^ q) 0)
  | 0x044 => c.gstat
  | 0x045 => nat d.count
  | 0x048 => withBits (c.reg 0x048) 0 8 (match s.gangOf lcn with | some g => g.d0 | none => 0)
  | 0x04C => nat ((match s.gangOf lcn with | some g => g.slim | none => 0) * 2 ^ 48 + d.scnt * 2 ^ 40 +
      b2n c.mem.gmis * 8 + b2n d.ovr * 4 + d.dph)
  | 0x04D => nat d.sstep
  | 0x04E => nat (match s.gangOf lcn with | some g => g.cbud | none => 0)
  | 0x04F => nat (match s.gangOf lcn with | some g => g.xbud | none => 0)
  | 0x050 => nat s.arb.phase
  | 0x051 => nat ((match s.arb.win with | .exchange | .turnC => 2 ^ 63 | _ => 0) + satNat (s.clock - s.arb.winAt) (2 ^ 32 - 1))
  | 0x054 => s.imbal lcn sup 0
  | 0x055 => s.imbal lcn sup 1
  | 0x056 => s.imbal lcn sup 2
  | 0x057 => s.imbal lcn sup 3
  | 0x086 =>
    let q := c.reg 0x086
    nat (b2n (s.asidBusy (s.partOf lcn) (BitVec.ofNat 10 (bits q 0 10))) * 2 ^ 63 + bits q 0 10)
  | 0x088 => nat c.sfq.length
  | 0x089 => c.sfHead (·.va)
  | 0x08A => c.sfHead (·.data)
  | 0x08B => c.sfHead (·.info)
  | 0x08C => c.sfHead (·.pc)
  | 0x08D => c.sfHead (·.grp)
  | 0x08E => c.sfHead (·.ss)
  | 0x090 => nat (b2n c.hold * 256 + c.sb.length)
  | 0x0C0 => nat (domCodes c.vec.v 32)
  | 0x0C1 => nat (domCodes c.vec.q 8 + c.vec.h0.dom.toNat * 2 ^ 16 + c.vec.h1.dom.toNat * 2 ^ 18)
  | 0x0C4 | 0x0C5 | 0x0C6 | 0x0C7 =>
    nat ((Tab.get 0 c.mat.tag (n - 0x0C4)).toNat * 2 ^ 16 + (Tab.get 0 c.mat.kc (n - 0x0C4)).toNat)
  | 0x0C9 => c.mat.codeFmt.setWidth 64
  | 0x0FF =>
    let f := (s.towerAt (towerOf lcn)).flagu.toNat
    nat (f + ((List.range 8).foldl (fun a i => a ||| (f / 32 ^ i % 32)) 0) * 2 ^ 40)
  | 0x100 => nat c.fps.length
  | 0x104 => nat c.sstat
  | 0x16D => match s.partHeld lcn with | some p => shownPolicy (s.partAt p).newPol | none => 0
  | 0x180 => match s.gangOf lcn with | some g => nat (b2n g.gr.req * 2 ^ 63 + g.gr.area.toNat * 2 ^ 16) | none => 0
  | 0x181 => match s.gangOf lcn with
    | some g => nat (b2n g.gr.req * 2 ^ 63 + g.gr.st.toNat * 2 ^ 60 + b2n g.gr.mapchg * 2 ^ 8 + g.gr.err.toNat)
    | none => 0
  | 0x182 => (s.towerAt (towerOf lcn)).pmdome
  | 0x186 => match s.gangOf lcn with
    | some g => nat (b2n g.gr.nrg * 2 ^ 63 + satNat g.gr.tmis 65535 * 2 ^ 32 + satNat g.gr.rb (2 ^ 32 - 1))
    | none => 0
  | 0x190 => match s.siteOf (towerOf lcn) with | some p => nat (s.site p).bstate | none => 0
  | 0x191 => nat (s.fab.rows * 2 ^ 16 + s.fab.mapgen.toNat)
  | 0x193 =>
    let i := c.reg 0x192
    nat (b2n c.nsRef * 2 ^ 63 + (s.nsEntry (towerOf lcn) (bits i 9 2) (bits i 0 9)).toNat)
  | 0x194 => nat ((s.ringOf lcn).shown (lcn % 8))
  | 0x195 => withBits (c.reg 0x195) 47 1 (b2n ((s.ringOf lcn).busy (lcn % 8)))
  | 0x196 => s.fab.pwcap.setWidth 64
  | 0x197 => nat (b2n (s.towerAt (towerOf lcn)).thr * 2 ^ 63 + s.hottest * 2 ^ 40 + s.power)
  | 0x1A0 => nat (s.fab.gsz % 32 * 256 + s.fab.gpos % 16 * 16 + s.fab.modnum % 16)
  | 0x1A1 | 0x1A2 | 0x1A3 | 0x1A4 | 0x1A5 | 0x1A6 | 0x1A7 => s.partReg lcn n
  | _ =>
    match srRow n with
    | some r => if r.context then x.reg n else c.reg n
    | none => 0

/-- What GETS returns: reserved and write-only fields read zero (R94). -/
def State.srRead (s : State) (lcn k n : Nat) (sup : Bool) : Word :=
  match srRow n with
  | some r => s.srView lcn k n sup &&& r.shown
  | none => 0

/-- A register that shows a free value. -/
def srFree (n : Nat) : Bool := n == 0x197

/-! ## Writes with an effect of their own -/

/-- A rectangle in the scope layout y1 : x1 : y0 : x0 (R263). -/
structure Rect where
  x0 : Nat
  y0 : Nat
  x1 : Nat
  y1 : Nat
deriving DecidableEq, Repr

/-- A rectangle from its register layout. -/
def Rect.ofWord (w : Word) : Rect := { x0 := bits w 0 8, y0 := bits w 8 8, x1 := bits w 16 8, y1 := bits w 24 8 }

/-- A logical tower lies in a rectangle. -/
def Rect.holds (r : Rect) (tower : Nat) : Bool :=
  r.x0 ≤ tower % 16 && (tower % 16 ≤ r.x1 && (r.y0 ≤ tower / 16 && tower / 16 ≤ r.y1))

/-- A rectangle lies inside another. -/
def Rect.within (r o : Rect) : Bool := o.x0 ≤ r.x0 && (r.x1 ≤ o.x1 && (o.y0 ≤ r.y0 && r.y1 ≤ o.y1))

/-- The rectangle of a gang. -/
def Gang.rect (g : Gang) : Rect := { x0 := g.x0, y0 := g.y0, x1 := g.x1, y1 := g.y1 }

/-- A SETS of drectk is refused: the own tower outside it, or it outside the next outer rectangle (R142). -/
def State.drectBad (s : State) (lcn k : Nat) (v : Word) : Bool :=
  let r := Rect.ofWord v
  let outer : Option Rect := if k = 1 then (s.gangOf lcn).map Gang.rect
    else some (Rect.ofWord ((s.coreAt lcn).reg (0x048 + (k - 1))))
  !r.holds (towerOf (s.lcnShown lcn)) || (match outer with | some o => !r.within o | none => true)

/-- A SETS of nsval (R376): accepted, or refused with REF set. -/
def State.nsWrite (s : State) (lcn : Nat) (group : Bool) (v : Word) : State :=
  let s := if bit v 63 then s.updCoreAt lcn fun c => { c with nsRef := false } else s
  let i := (s.coreAt lcn).reg 0x192
  let cls := bits i 9 2
  let dest := bits i 0 9
  let code := bits v 0 2
  if 2 ≤ code ∨ cls = 3 ∨ (cls ≤ 1 ∧ group = true) ∨ (s.siteOf dest).isNone ∨
      s.meshOpen (code == 1) (towerOf lcn) dest = false then
    s.updCoreAt lcn fun c => { c with nsRef := true }
  else
    s.updTowerAt (towerOf lcn) fun t =>
      { t with ns := Tab.put t.ns (nsKey cls dest) (BitVec.ofNat 26 code) }

/-- The ceiling on mgov.BUDGET for a window length (R392). -/
def Core.budgetCeiling (c : Core) (wlen : Nat) : Nat := max 256 (bits (c.reg 0x198) 0 24 * wlen / 256)

/-- Window length and budget of the governor in force: the program's, limited to the ceiling, or the power ceiling's own. -/
def Core.governor (c : Core) : Nat × Nat :=
  let g := c.reg mgovNow
  let ceiling := fun wlen => max 256 (bits (c.reg mgcapNow) 0 24 * wlen / 256)
  let wlen := bits g 0 16
  let budget := bits g 16 32
  if wlen ≠ 0 ∧ budget ≠ 0 then (wlen, min (max budget 256) (ceiling wlen)) else (256, ceiling 256)

/-- The governor can hold work: the program's is on, or the rate is below what never holds one. -/
def Core.governed (c : Core) : Bool :=
  (bits (c.reg mgovNow) 0 16 != 0 && bits (c.reg mgovNow) 16 32 != 0) || decide (bits (c.reg mgcapNow) 0 24 < 0x10000)

/-- A window starts (R200, R392): mgov and RATE as written are in force, and the budget is renewed less what was overdrawn. -/
def Core.startGovernor (c : Core) : Core :=
  let at' := c.mat.winAt + c.governor.1
  let c := (c.setReg mgovNow (c.reg 0x0C2)).setReg mgcapNow (c.reg 0x198)
  { c with mat := { c.mat with rem := ((c.governor.2 : Nat) : Int) + min c.mat.rem 0, winAt := at' } }

/-- The budget after m more window starts of n each. -/
def afterWindows (rem : Int) (n m : Nat) : Int :=
  if m = 0 then rem
  else if rem + ((m - 1 : Nat) : Int) * (n : Int) ≤ 0 then rem + (m : Int) * (n : Int) else (n : Int)

/-- Every window start up to a count of the control context's cycles. -/
def Core.governTo (c : Core) (cycles : Nat) : Core :=
  if cycles < c.mat.winAt + c.governor.1 then c
  else
    let c := c.startGovernor
    let m := (cycles - c.mat.winAt) / c.governor.1
    { c with mat := { c.mat with rem := afterWindows c.mat.rem c.governor.2 m, winAt := c.mat.winAt + m * c.governor.1 } }

/-- The governor of a core brought up to the clock: its windows run on ccount of the control context (R200, R343). -/
def Core.governNow (c : Core) (clock : Nat) : Core := c.governTo ((c.ctx 0).cycles clock)

/-- mgov as a SETS stores it (R200): a BUDGET above the ceiling is stored as the ceiling where WLEN is not zero. -/
def Core.mgovStored (c : Core) (v : Word) : Word :=
  let wlen := bits v 0 16
  if wlen = 0 then v else withBits v 16 32 (min (bits v 16 32) (c.budgetCeiling wlen))

/-- A stop trigger of a SETS of dbgc: TK 3 (R341); none where the core is halted or has one. -/
def Core.stopRequest (c : Core) (gang : Bool) : Core :=
  c.setTrigger { tk := 3, num := 0, addr := none, ah := false, alcn := 0, gang := gang }

/-- A ring test packet (R372). -/
def State.ringInject (s : State) (lcn : Nat) (v : Word) : State :=
  let busy := (s.ringOf lcn).busy (lcn % 8)
  let s := s.updCoreAt lcn fun c => c.setReg 0x195 (withBits (withBits (withBits (c.reg 0x195) 62 1 (bits v 62 1)) 56 3
    (bits v 56 3)) 48 3 (bits v 48 3))
  if bit v 63 && !busy && bits v 48 3 != lcn % 8 then
    s.updTowerAt (towerOf lcn) fun t =>
      { t with ring := t.ring.inject .test (lcn % 8) (bit v 62) (bits v 48 3) (bits v 56 3 + 1) }
  else s

/-- A level field as a SETS writes it: 2 and 3 leave it unchanged (R27, R123). -/
def keepLevel (old v : Word) (lo : Nat) : Word := if 2 ≤ bits v lo 2 then withBits v lo 2 (bits old lo 2) else v

/-- A write of a register that R20 has let through; none where the register's own rule refuses the value. `sup`, with
supervisor rights. -/
def State.srWrite (s : State) (lcn k n : Nat) (v : Word) (sup : Bool) : Option State :=
  let c := s.coreAt lcn
  let upd := fun (f : Core → Core) => some (s.updCoreAt lcn f)
  let setC := fun (w : Word) => some (s.updCoreAt lcn fun c => c.setReg n w)
  let setX := fun (w : Word) => some (s.updCoreAt lcn fun c => c.updCtx k fun x => x.setReg n w)
  match srRow n with
  | none => none
  | some r =>
    match n with
    | 0x000 => if k = 0 then upd fun c => { c with ta := bit v 2 } else some s
    | 0x002 | 0x085 => if bit v 63 then setX 0 else some s
    | 0x00C => setC (r.written (c.reg n) (keepLevel (c.reg n) v 8))
    | 0x040 => some ((List.range 11).foldl (fun s h => if bit v (16 + h) then s.killHelper lcn h else s) s)
    | 0x046 => setC (r.written (c.reg n) (keepLevel (c.reg n) v 48))
    | 0x049 | 0x04A | 0x04B => if s.drectBad lcn (n - 0x048) v then none else setC (r.written (c.reg n) v)
    | 0x04C =>
      let s := if bit v 3 then s.updCoreAt lcn fun c => { c with mem := { c.mem with gmis := false } } else s
      some (if bit v 2 then s.updDom c.domKey fun d => { d with ovr := false } else s)
    | 0x07D | 0x07E | 0x07F =>
      let old := (c.ctx k).reg n
      let w := r.written old v
      setX (if sup then w else withBits w 48 1 (bits old 48 1))
    | 0x080 =>
      if bit v 63 && s.asidBusy (s.partOf lcn) (BitVec.ofNat 10 (bits v 0 10)) then none else setC (r.written (c.reg n) v)
    | 0x088 => upd fun c => if bit v 3 then { c with sfq := c.sfq.tail } else c
    | 0x090 => upd fun c => if bit v 8 then { c with hold := false } else c
    | 0x0C2 => upd fun c => (c.governNow s.clock).setReg n (c.mgovStored (r.written (c.reg n) v))
    | 0x0FF => some (s.updTowerAt (towerOf lcn) fun t => { t with flagu := t.flagu &&& ~~~(v.setWidth 40) })
    | 0x101 => upd fun c => if bit v 63 then (c.setReg 0x101 0).setReg 0x102 0 else c
    | 0x140 =>
      some (s.updCoreAt lcn fun c =>
        let fresh := bit v 61 && !bit (c.reg n) 61
        let c := c.setReg n (r.written (c.reg n) v)
        let c := if fresh then { c with dbg := { c.dbg with preqAt := s.clock } } else c
        if bit v 62 then c.stopRequest true else if bit v 63 then c.stopRequest false else c)
    | 0x148 | 0x149 | 0x14A | 0x14B => if bits v 61 2 = 3 then none else setC (r.written (c.reg n) v)
    | 0x180 => some (s.updGang c.mem.gang fun g =>
        { g with gr := { g.gr with req := bit v 63, area := BitVec.ofNat 32 (bits v 16 32), reqAt := s.clock } })
    | 0x182 => some (s.updTowerAt (towerOf lcn) fun t => { t with pmdome := r.written t.pmdome v })
    | 0x187 => if bit v 63 then setC 0 else some s
    | 0x193 => some (s.nsWrite lcn (!sup) v)
    | 0x195 => some (s.ringInject lcn v)
    | 0x1A2 | 0x1A3 | 0x1A4 | 0x1A5 | 0x1A6 | 0x1A7 =>
      match s.partHeld lcn with
      | none => some s
      | some p =>
        if n = 0x1A3 ∧ bit v 63 = true ∧ s.asidBusy p (BitVec.ofNat 10 (bits v 0 10)) = true then none
        else some (s.updPartAt p fun q => { q with sr := Tab.set 0 q.sr n (r.written (Tab.get 0 q.sr n) v) })
    | 0x110 | 0x111 | 0x112 | 0x113 | 0x114 | 0x115 | 0x116 | 0x117 | 0x118 | 0x119 | 0x11A | 0x11B | 0x11C | 0x11D
    | 0x11E | 0x11F => setC v
    | _ => if r.context then setX (r.written ((c.ctx k).reg n) v) else setC (r.written (c.reg n) v)

/-- A SETS of a core-scope register by the supervisor of a core: unchanged where it would trap (R20, R420; log entry 43). -/
def State.supWrite (s : State) (lcn n : Nat) (v : Word) : State :=
  match srCheck n false true (some v) with
  | some _ => s
  | none => (s.srWrite lcn 0 n v true).getD s

end Sys2Proof.Machine
end

