-- ==== Sys2Proof/Machine/Tile.lean ====
section
/-!
DEFINITION. Tiles in memory: descriptors and their checks (R193, R194, R196), rows decoded to FP32 patterns (R100 to R105),
Haar steps along an axis (R183, R197, R214, R222), and the stream binder's reading of tiles (R290 to R294).
Elements of a decoded row are FP32 patterns; a signalling NaN keeps its quiet bit clear until an operation meets it.
-/

namespace Sys2Proof.Machine

/-! ## Descriptors -/

/-- A descriptor pair taken apart (R193). -/
structure TileDesc where
  base : Nat
  rp : Nat
  vc : Nat
  vr : Nat
  tag : Nat
  fmt : Nat
deriving DecidableEq, Repr

/-- The fields of a pair. -/
def tileOf (w0 w1 : Word) : TileDesc :=
  { base := bits w0 0 48, rp := bits w0 48 16, vc := bits w1 46 7, vr := bits w1 39 7, tag := bits w1 23 16,
    fmt := bits w1 19 4 }

namespace TileDesc

/-- Domain code and level count of the tag. -/
def code (d : TileDesc) : Nat := d.tag % 4
def levels (d : TileDesc) : Nat := d.tag / 4 % 8

/-- Valid columns and rows: a tile has 64 of each at most (DEDUCED from R191 and R194, log entry 18). -/
def cols (d : TileDesc) : Nat := min (d.vc + 1) 64
def rows (d : TileDesc) : Nat := min (d.vr + 1) 64

/-- Row bytes of R194 for n columns. -/
def bytesFor (fmt n : Nat) : Nat :=
  match fmt with
  | 0 => 4 * n
  | 1 => 2 * n
  | 2 => 2 * n
  | 3 => n
  | 4 => 4 * n
  | 5 => (n + 15) / 16 * 8
  | 6 => (n + 15) / 16 * 12
  | 7 => (n + 15) / 16 * 18
  | _ => (n + 3) / 4

/-- Row bytes of the tile. -/
def rowBytes (d : TileDesc) : Nat := bytesFor d.fmt d.cols

/-- First byte of row r. -/
def rowAt (d : TileDesc) (r : Nat) : Nat := d.base + 16 * d.rp * r

/-- Effective addresses of the bytes of row r. -/
def rowEAs (d : TileDesc) (r : Nat) : List Nat := (List.range d.rowBytes).map (d.rowAt r + ·)

/-- Effective addresses of the whole footprint, row by row (R194). -/
def eas (d : TileDesc) : List Nat := (List.range d.rows).flatMap d.rowEAs

end TileDesc

/-- The row of the table of R28 that an address lies in. -/
def viewRow (ea : Nat) : Nat :=
  if ea < 0x80000 then 1 else if ea < 0x8000000 then 2 else if ea < 0xC000000 then 3 else if ea < 0x100000000 then 4
  else if ea < 2 ^ 48 then 5 else 0

/-- The role a descriptor plays: it decides checks 4 and 5 of R193. -/
inductive Role where
  | operand
  | drain
  | load
  | stream (invert : Bool)
deriving DecidableEq, Repr

/-- A format is not allowed in a role (R193, R213, R216, R291, R390). -/
def Role.bars (r : Role) (reduced : Bool) (fmt : Nat) : Bool :=
  (reduced && !(fmt == 0 || (fmt == 1 || fmt == 3))) ||
  match r with
  | .operand => fmt == 4
  | .drain => fmt == 8
  | .load => fmt == 8
  | .stream _ => false

/-- The axis rule of check 5 fails: an axis that the role transforms is not whole (R193, R213, R216, R291). -/
def Role.axisBad (r : Role) (d : TileDesc) : Bool :=
  let both := (d.code % 2 == 1 && d.vr != 63) || (2 ≤ d.code && d.vc != 63)
  match r with
  | .operand => 2 ≤ d.code && d.vc != 63
  | .drain => both
  | .load => both
  | .stream inv => inv && both

/-- A domain tag that check 5 refuses. -/
def badTag (tag : Nat) : Bool :=
  tag / 512 != 0 || ((tag % 4 == 0 && tag / 4 % 128 != 0) ||
    (tag % 4 != 0 && !(1 ≤ tag / 4 % 8 && tag / 4 % 8 ≤ 6)))

/-- The eight codebooks share one format (R105). -/
def MatState.oneFormat (m : MatState) : Bool := m.codeFmt == 0 || m.codeFmt == 0xFF

/-- The number of the first failing check of R193, if any. -/
def State.tileWhy (s : State) (role : Role) (w0 w1 : Word) : Option Nat :=
  let d := tileOf w0 w1
  if d.base % 64 ≠ 0 then some 1
  else if bits w1 53 11 ≠ 0 then some 2
  else if 9 ≤ d.fmt then some 3
  else if role.bars s.reduced d.fmt then some 4
  else if badTag d.tag || role.axisBad d then some 5
  else if d.fmt == 8 && !s.core.mat.oneFormat then some 6
  else if viewRow d.base ≠ viewRow (d.rowAt (d.rows - 1) + d.rowBytes - 1) then some 7
  else none

/-- tinfo of a descriptor trap (R196). -/
def tileInfo (why opnd : Nat) (i : Instr) : Word := BitVec.ofNat 64 (why * 2 ^ 36 + opnd * 2 ^ 34 + (encode i).toNat)

/-! ## Rows decoded -/

/-- A pattern of a narrower format as an FP32 pattern; a NaN keeps its quiet bit. -/
def widenRaw (f : Fmt) (x : Nat) : Nat :=
  if f.isNaN x then fp32.signed (f.neg x) (fp32.infBits + f.frac x * 2 ^ (24 - f.p))
  else if f.isInf x then fp32.signed (f.neg x) fp32.infBits
  else (roundDy fp32 0 (f.neg x) (f.val x)).1

/-- An integer exact in FP32. -/
def intRaw (n : Int) : Nat := (roundDy fp32 0 false (Dyadic'.ofInt n)).1

/-- n bytes at a byte position of a number. -/
def field (x pos n : Nat) : Nat := x / 2 ^ (8 * pos) % 2 ^ (8 * n)

/-- Element j of a VQ8 row through the codebooks (R105). -/
def MatState.vq8 (m : MatState) (row j : Nat) : Nat :=
  let p := j / 4
  let cb := p % 16 / 2
  let e := field row p 1
  if m.codeFmt.getLsbD cb then
    intRaw (sintOf 8 (Tab.get 0 m.code (2048 * cb + 4 * e + j % 4)).toNat)
  else
    let a := 2048 * cb + 8 * e + 2 * (j % 4)
    widenRaw bf16 ((Tab.get 0 m.code a).toNat + 256 * (Tab.get 0 m.code (a + 1)).toNat)

/-- Element j of a row held as a number, in a format of R100; INT32 is rounded by mode (R216, R292). -/
def MatState.element (m : MatState) (mode : BitVec 2) (fmt row j : Nat) : FRes :=
  match fmt with
  | 0 => (field row (4 * j) 4, 0)
  | 1 => (widenRaw bf16 (field row (2 * j) 2), 0)
  | 2 => (widenRaw fp16 (field row (2 * j) 2), 0)
  | 3 => (intRaw (sintOf 8 (field row j 1)), 0)
  | 4 => intToF fp32 mode (sintOf 32 (field row (4 * j) 4))
  | 5 => (tbDecode 0 (field row (8 * (j / 16)) 8) (j % 16), 0)
  | 6 => (tbDecode 1 (field row (12 * (j / 16)) 12) (j % 16), 0)
  | 7 => (tbDecode 2 (field row (18 * (j / 16)) 18) (j % 16), 0)
  | _ => (m.vq8 row j, 0)

/-- A row of n valid elements, as FP32 patterns with their flags. -/
def MatState.row (m : MatState) (mode : BitVec 2) (fmt n row : Nat) : List FRes :=
  (List.range n).map (m.element mode fmt row)

/-- The FP32 value of an element that a load or a stream makes: a signalling NaN is quieted and raises NV (R99, R108). -/
def quieted (r : FRes) : FRes := if fp32.isSNaN r.1 then (fp32.quiet r.1, r.2 ||| fNV) else r

/-! ## Haar steps along 64 positions -/

/-- Element i of a list of patterns with flags, +0.0 beyond its end. -/
def at0 (l : List FRes) (i : Nat) : FRes := nth (0, 0) l i

/-- One Haar step on two elements, each output with the flags of its derivation. -/
def haarStep (mode : BitVec 2) (halve : Bool) (a b : FRes) : FRes × FRes :=
  let r := haarEach fp32 mode halve a.1 b.1
  ((r.1.1, a.2 ||| b.2 ||| r.1.2), (r.2.1, a.2 ||| b.2 ||| r.2.2))

/-- Pairs of neighbours. -/
def pairs {α : Type} : List α → List (α × α)
  | x :: y :: t => (x, y) :: pairs t
  | _ => []

/-- One forward level L (R183, R214): averages, details, and what lies beyond. -/
def haarDown (mode : BitVec 2) (l : Nat) (x : List FRes) : List FRes :=
  let sz := 64 / 2 ^ (l - 1)
  let ys := (pairs (x.take sz)).map fun p => haarStep mode true p.1 p.2
  ys.map (·.1) ++ (ys.map (·.2) ++ x.drop sz)

/-- One inverse level L (R183). -/
def haarUp (mode : BitVec 2) (l : Nat) (x : List FRes) : List FRes :=
  let sz := 64 / 2 ^ (l - 1)
  let h := sz / 2
  (((x.take h).zip ((x.drop h).take h)).flatMap fun p =>
    let r := haarStep mode false p.1 p.2
    [r.1, r.2]) ++ x.drop sz

/-- Inverse levels n, n - 1, …, 1. -/
def haarUps (mode : BitVec 2) : Nat → List FRes → List FRes
  | 0, x => x
  | n + 1, x => haarUps mode n (haarUp mode (n + 1) x)

/-- Forward levels l, l + 1, …, l + n - 1. -/
def haarDowns (mode : BitVec 2) (l : Nat) : Nat → List FRes → List FRes
  | 0, x => x
  | n + 1, x => haarDowns mode (l + 1) n (haarDown mode l x)

/-- A row filled with +0.0 to 64 elements. -/
def pad64 (x : List FRes) : List FRes := x ++ List.replicate (64 - x.length) (0, 0)

/-- Rows and columns exchanged: c columns of a list of rows. -/
def transpose (c : Nat) (rows : List (List FRes)) : List (List FRes) :=
  (List.range c).map fun j => rows.map fun r => at0 r j

/-- The union of the flags of a list of elements. -/
def flagsOf (x : List FRes) : Flags := x.foldl (fun f e => f ||| e.2) 0

/-! ## Bytes of tiles -/

/-- Several operands located in order; frames of the earlier ones are kept. -/
def State.locateAll (s : State) (lcn k : Nat) (q : Query) : List (List Nat) → Tab Nat → Loc × State
  | [], acc => (.ok acc, s)
  | eas :: t, acc =>
    match s.locateGranules lcn k q (granules eas) acc with
    | (.ok acc, s) => s.locateAll lcn k q t acc
    | r => r

/-- A buffered store of the core covers a byte of an operand: the fetch waits until it has drained (R187, R220). -/
def State.fetchHeld (s : State) (lcn : Nat) (frames : Tab Nat) (eas : List Nat) : Bool :=
  let live := eas.filter fun a => !outOfRange a
  (s.coreAt lcn).sb.any fun e =>
    live.any e.covers || (s.entryPas lcn e).any fun a => live.any fun ea => s.spotPA lcn frames ea == some a

/-- Operands of the matrix engine read in order, each as one access (R187, R194, R203, R220): their bytes go on operand by
operand, or the instruction traps or waits. What they record in oorf is left to the caller. -/
def State.readOperands (s : State) (ops : List (List Nat)) (f : State → List (List Byte) → State) : State :=
  s.underMail id fun s =>
    let q := s.query s.lcn s.k true false false true
    match s.locateAll s.lcn s.k q ops [] with
    | (.fault va r, s) => s.loadFault kindMatrix r va
    | (.absent va, s) => (s.postAbsent s.lcn s.k kindMatrix va (q.asid.getD 0) s.k).stall .mailbox
    | (.ok frames, s) =>
      if s.fetchHeld s.lcn frames ops.flatten then s.stall .drain
      else if s.core.fpHoldsAccess (ops.flatten.filterMap (s.spotPA s.lcn frames)) then s.stall .footprint
      else
        let t := ops.foldl (fun s a =>
          s.performRead (Party.own s.lcn s.k) (a.map fun ea => { ea := some ea, pa := s.spotPA s.lcn frames ea })) s
        let byte := fun ea => match t.spotPA t.lcn frames ea with | some a => t.byteAt a | none => 0
        f t (ops.map (·.map byte))

/-- Rows of a tile from its bytes in order: numbers of rowBytes bytes each. -/
def rowsOf (n : Nat) : Nat → List Byte → List Nat
  | 0, _ => []
  | k + 1, bs => ofLeBytes (bs.take n) :: rowsOf n k (bs.drop n)

/-! ## Streams -/

/-- A byte of a binding record. -/
def Stream.u (x : Stream) (off n : Nat) : Nat := ofLeBytes ((x.record.drop off).take n)

/-- OPS of a binding. -/
def Stream.ops (x : Stream) : Nat := x.u 0x30 8

/-- Tile words of a binding. -/
def Stream.td (x : Stream) : TileDesc := tileOf (BitVec.ofNat 64 (x.u 0 8)) (BitVec.ofNat 64 (x.u 8 8))

/-- Tile t of a binding, i1 fastest, then i2, then i3 (R291). -/
def Stream.tileAt (x : Stream) (t : Nat) : TileDesc :=
  let c1 := x.u 0x28 2
  let c2 := x.u 0x2A 2
  let off : Int := sintOf 64 (x.u 0x10 8) * (t % c1 : Nat) + sintOf 64 (x.u 0x18 8) * (t / c1 % c2 : Nat) +
    sintOf 64 (x.u 0x20 8) * (t / (c1 * c2) : Nat)
  let d := x.td
  { d with base := (((d.base : Int) + off) % 2 ^ 64).toNat }

/-- Number of tiles. -/
def Stream.tiles (x : Stream) : Nat := x.u 0x28 2 * (x.u 0x2A 2 * x.u 0x2C 2)

/-- The stream has formed its last vector. -/
def Stream.ended (x : Stream) : Bool := x.tiles ≤ x.tile

/-- The domain code of popped vectors. -/
def Stream.code (x : Stream) : BitVec 2 := if x.ops / 4 % 2 = 1 then 0 else BitVec.ofNat 2 x.td.code

/-- The rows a pop reads: every row where the inverse step runs along rows, else its own. -/
def Stream.rowsRead (x : Stream) (d : TileDesc) : List Nat :=
  if x.ops / 4 % 2 = 1 && d.code % 2 = 1 then List.range d.rows else [x.row]

/-- Bytes of rows of a tile, addresses modulo 2^64. -/
def streamEAs (d : TileDesc) (r : Nat) : List Nat := (d.rowEAs r).map (· % 2 ^ 64)

/-- The vector of a pop from the rows read (R292): inverse Haar step, scale. The scale reaches every lane, and lanes beyond the
valid columns raise nothing (R108; DEDUCED, log entry 74). -/
def Stream.form (x : Stream) (m : MatState) (d : TileDesc) (rows : List Nat) : BitVec 2048 × Flags :=
  let dec := rows.map fun r => pad64 ((m.row x.rm d.fmt d.cols r).map quieted)
  let inv := x.ops / 4 % 2 = 1
  let lanes := if inv && 2 ≤ d.code then dec.map (haarUps x.rm d.levels) else dec
  let v : List FRes :=
    if inv && d.code % 2 = 1 then
      (transpose 64 lanes).map fun c => at0 (haarUps x.rm d.levels (pad64 c)) x.row
    else nth [] lanes 0
  let scaled := if x.ops / 8 % 2 = 1 then
      (List.range 64).map fun j =>
        let e := at0 v j
        let y := nth 0 x.scale (if x.code.getLsbD 1 then 0 else j)
        let r := fMul fp32 x.rm e.1 y.toNat
        (r.1, if j < d.cols then e.2 ||| r.2 else e.2)
    else v
  (BitVec.ofNat 2048 (scaled.foldr (fun e acc => e.1 + acc * 2 ^ 32) 0), flagsOf scaled)

/-- The stream past one pop. -/
def Stream.advance (x : Stream) : Stream :=
  if x.row + 1 < x.td.rows then { x with row := x.row + 1 } else { x with row := 0, tile := x.tile + 1 }

/-- What a fetch of the binder meets. -/
inductive Fetched where
  | ok
  | fault (va reason : Nat)
  | absent (va : Nat)
  /-- A VQ8 tile, and the codebooks do not share one format (R105). -/
  | mixed
deriving DecidableEq, Repr

/-- The bytes of a stream are local or lie on frozen pages (R291): the first byte that cannot be read. -/
def State.streamLocate (s : State) (lcn : Nat) : Tab Nat → Tab Nat → Loc × State
  | [], acc => (.ok acc, s)
  | (g, va) :: t, acc =>
    match s.translate lcn 0 (s.query lcn 0 true false false false) va with
    | (.fault r, s) => (.fault va r, s)
    | (.absent, s) => (.absent va, s)
    | (.ok pa leaf, s) =>
      if s.isLocal lcn pa || leaf.getLsbD 4 then s.streamLocate lcn t (Tab.put acc g (pa - va % 64)) else (.fault va 5, s)

/-- A byte that the binder reads: where a store of the core has drained over it, the old or the new word (R294). -/
def State.streamByte (s : State) (x : Stream) (pa : Nat) : Byte :=
  match Tab.find? x.olds pa with
  | some old => if Config.wordNew s.tick (pa / 4) then s.byteAt pa else old
  | none => s.byteAt pa

/-- The binder forms the next vector of a slot (R292). -/
def State.streamNext (s : State) (lcn sm : Nat) (x : Stream) : Fetched × State :=
  let d := x.tileAt x.tile
  let rows := x.rowsRead d
  let eas := rows.flatMap (streamEAs d)
  if d.fmt == 8 && !(s.coreAt lcn).mat.oneFormat then (.mixed, s)
  else
  match s.streamLocate lcn (granules eas) [] with
  | (.fault va r, s) => (.fault va r, s)
  | (.absent va, s) => (.absent va, s)
  | (.ok frames, s) =>
    let s := rows.foldl (fun s r =>
      s.performRead (Party.own lcn 0) ((streamEAs d r).map fun ea => { ea := some ea, pa := s.spotPA lcn frames ea })) s
    let byte := fun ea => match s.spotPA lcn frames ea with | some a => s.streamByte x a | none => 0
    let v := x.form (s.coreAt lcn).mat d (rows.map fun r => ofLeBytes ((streamEAs d r).map byte))
    let oor := ((streamEAs d x.row).find? outOfRange).map (BitVec.ofNat 64 ·)
    let y := x.advance
    let y := { y with ready := y.ready ++ [{ vec := { data := v.1, dom := x.code }, flags := v.2, oor := oor }] }
    (.ok, s.updCoreAt lcn fun c => { c with streams := Tab.put c.streams sm y })

/-! ## The footprint scheduler: when an engine may begin (R285) -/

/-- Two byte ranges share a 64-byte line. -/
def sharesLine (x y : Nat × Nat) : Bool :=
  x.2 != 0 && (y.2 != 0 && (x.1 / 64 ≤ (y.1 + y.2 - 1) / 64 && y.1 / 64 ≤ (x.1 + x.2 - 1) / 64))

/-- Some range of one list shares a line with some range of another. -/
def anyShared (xs ys : List (Nat × Nat)) : Bool := xs.any fun x => ys.any (sharesLine x)

/-- The entries older than an entry. -/
def olderThan (id : Nat) : List Fp → List Fp
  | [] => []
  | f :: t => if f.id = id then [] else f :: olderThan id t

/-- A transfer's token has a final value already. -/
def Fp.over (x : Fp) : Bool := match x.stage with | .ended _ _ => true | _ => false

/-- A transfer's accesses have begun and not ended. -/
def Fp.going (x : Fp) : Bool := match x.stage with | .begun => true | _ => false

/-- A combining atomic (R271). -/
def Fp.combines (f : Fp) : Bool := match f.op with | .xcomb _ _ _ _ => true | _ => false

/-- The bytes that a transfer touches at either end; the home line of a combining atomic; none for a binding. -/
def Fp.touched (f : Fp) : List (Nat × Nat) :=
  match f.op with
  | .sbind _ => []
  | .xcomb _ _ _ _ => f.far.map fun r => (r.1 / 128 * 128, 128)
  | _ => f.far ++ (f.rd ++ f.wr)

/-- Two byte ranges share a byte. -/
def sharesByte (x y : Nat × Nat) : Bool := x.2 != 0 && (y.2 != 0 && (x.1 < y.1 + y.2 && y.1 < x.1 + x.2))

/-- An older transfer of the same context whose accesses come first: one of the same bytes, and the combining atomics of a context
enter their lines in program order (R265, R273; DEDUCED, log entry 90). -/
def Fp.precedes (o f : Fp) : Bool :=
  o.ctx == f.ctx && (!o.over && ((o.combines && f.combines) || o.touched.any fun x => f.touched.any (sharesByte x)))

/-- An entry may not begin its accesses: an older footprint or an older buffered store overlaps it, or an older transfer of its
context comes first. -/
def State.engineHeld (s : State) (lcn : Nat) (f : Fp) : Bool :=
  ((olderThan f.id (s.coreAt lcn).fps).any fun o =>
    anyShared o.wr (f.rd ++ f.wr) || (anyShared o.rd f.wr || o.precedes f)) ||
  (s.coreAt lcn).sb.any fun e =>
    e.seq ≤ f.after && (s.entryPas lcn e).any fun a => (f.rd ++ f.wr).any (touches a)

/-- A footprint entry changed. -/
def State.updFp (s : State) (lcn id : Nat) (g : Fp → Fp) : State :=
  s.updCoreAt lcn fun c => { c with fps := mapIf (fun f => f.id == id) g c.fps }

/-- An accepted entry begins its accesses where nothing holds it; the state and whether it has begun. -/
def State.beginFp (s : State) (lcn : Nat) (f : Fp) : Bool × State :=
  match f.stage with
  | .accepted => if s.engineHeld lcn f then (false, s) else (true, s.updFp lcn f.id fun f => { f with stage := .begun })
  | _ => (true, s)

/-- The footprint entry of a slot's SBIND (R286). -/
def Core.streamFp (c : Core) (sm : Nat) : Option Fp := c.fps.find? fun f => f.op == .sbind sm

/-- The binder of a slot may read tiles. -/
def State.streamBegin (s : State) (lcn sm : Nat) : Bool × State :=
  match (s.coreAt lcn).streamFp sm with
  | some f => s.beginFp lcn f
  | none => (true, s)

/-! ## Stores of a lookahead window (R45) -/

/-- What has been read, with the bytes of a store taken over where the free choice of their word says so. -/
def renewed (t : Nat) (new : Nat → Option Nat → Option Byte) : List Nat → List (Option Nat) → List Byte → List Byte
  | ea :: eas, pa :: pas, b :: bs =>
    (match new ea pa with | some x => if Config.wordNew t (ea / 4) then x else b | none => b) :: renewed t new eas pas bs
  | _, _, bs => bs

/-- A vector register with bytes replaced at their positions. -/
def putPlaces (v : BitVec 2048) (places : List Nat) (bytes : List Byte) : BitVec 2048 :=
  let t := (places.zip bytes).foldl (fun t e => Tab.put t e.1 e.2) ([] : Tab Byte)
  BitVec.ofNat 2048 (ofLeBytes ((List.range 256).map fun i => (Tab.find? t i).getD (BitVec.ofNat 8 (field v.toNat i 1))))

/-- A pending load with other bytes. -/
def Late.reread (l : Late) (r : LoadSrc) : Late :=
  let l := { l with src := some r }
  match r.shape with
  | .scalar d n signed =>
    let v := BitVec.ofNat 64 (ofLeBytes r.bytes)
    { l with gdest := [(d, if signed then sextTo (8 * n) v else v)] }
  | .lanes places => { l with vdest := l.vdest.map fun e => (e.1, { e.2 with data := putPlaces e.2.data places r.bytes }) }

/-- A pending load meets a store of its window. -/
def Late.meet (t : Nat) (new : Nat → Option Nat → Option Byte) (l : Late) : Late :=
  match l.src with
  | some r => l.reread { r with bytes := renewed t new r.eas r.pas r.bytes }
  | none => l

/-- An operand of a queued matrix instruction meets a store of its window. -/
def State.meetOperand (s : State) (new : Nat → Option Nat → Option Byte) (x : MatSrc) : MatSrc :=
  let homes := fun eas =>
    let frames := match (s.locate s.lcn 0 (s.query s.lcn 0 false false false false) eas).1 with | .ok f => f | _ => []
    eas.map (s.spotPA s.lcn frames)
  match x with
  | .tile w0 w1 bytes =>
    let eas := (tileOf w0 w1).eas.map (· % 2 ^ 64)
    .tile w0 w1 (renewed s.tick new eas (homes eas) bytes)
  | .block ea bytes =>
    let eas := byteEAs ea bytes.length
    .block ea (renewed s.tick new eas (homes eas) bytes)
  | x => x

/-- A store of the context whose turn it is, by effective address and by home, meets the older long-latency reads of the context
that have not completed: each aligned 4-byte word is the old or the new one (R45). -/
def State.windowStore (s : State) (byEA : Nat → Option Byte) (cells : List (Nat × Byte)) : State :=
  let new := fun ea (pa : Option Nat) => match byEA ea with
    | some b => some b
    | none => pa.bind fun a => (cells.find? (fun c => c.1 == a)).map (·.2)
  let s := if s.cx.late.isEmpty then s else s.updCx fun x => { x with late := x.late.map (Late.meet s.tick new) }
  if s.k ≠ 0 ∨ s.core.mat.queue.isEmpty then s
  else
    let queue := s.core.mat.queue.map fun o => { o with a := s.meetOperand new o.a, b := s.meetOperand new o.b }
    s.updCore fun c => { c with mat := { c.mat with queue := queue } }

/-- A store appended to the store buffer, and what it does in the lookahead windows it stands in (R45, R253). -/
def State.appendStore (s : State) (kind : Nat) (ea : Word) (size : Nat) (data : BitVec 2048) (mask : BitVec 256) : State :=
  let t := s.append kind ea size data mask
  match t.core.sb.getLast? with
  | some e => t.windowStore (fun a => if e.covers a then some (e.byteFor a) else none) ((t.entryCells t.lcn e).getD [])
  | none => t

end Sys2Proof.Machine
end

