-- ==== Sys2Proof/Machine/Network.lean ====
section
/-!
DEFINITION. Packets on the meshes (R296, R373 to R378): what the sender's mesh interface and the waypoint answer, the order in
which packets arrive, and the way between a core and its mesh interface.
-/

namespace Sys2Proof.Machine

/-! ## Routes (R296, R375) -/

/-- What becomes of a packet: it stays in its own tower, goes to its destination on a mesh, goes to a waypoint on a mesh, or is
answered with a failure. -/
inductive Route where
  | here
  | direct (yx : Bool)
  | relay (way : Nat) (yx : Bool)
  | unreachable
  | retired
deriving DecidableEq, Repr

/-- CODE, WAYPT and M1 of a network-select entry. -/
def nsCode (e : BitVec 26) : Nat := e.toNat % 4
def nsWay (e : BitVec 26) : Nat := e.toNat / 2 ^ 16 % 2 ^ 9
def nsMesh (e : BitVec 26) : Bool := e.getLsbD 25

/-- The route of a packet of a class between logical towers, as its sender's mesh interface reads it (R296 steps 1 and 2, R375). -/
def State.route (s : State) (cls src dst : Nat) : Route :=
  if !s.towerServes dst then .retired
  else if src = dst then .here
  else
    let e := s.nsEntry src cls dst
    match nsCode e with
    | 0 => .direct false
    | 1 => .direct true
    | 2 => .relay (nsWay e) (nsMesh e)
    | _ => .unreachable

/-- A waypoint serves and its class-3 entry for the destination names a mesh (R375). -/
def State.wayOpen (s : State) (way dst : Nat) : Bool :=
  s.towerServes way && nsCode (s.nsEntry way 3 dst) < 2

/-- A packet of a class has a route that leads to its destination. -/
def State.reaches (s : State) (cls src dst : Nat) : Bool :=
  match s.route cls src dst with
  | .here => true
  | .direct _ => true
  | .relay w _ => s.wayOpen w dst
  | _ => false

/-- The mesh on which a packet of a class comes in at its destination. -/
def State.meshIn (s : State) (cls src dst : Nat) : Bool :=
  match s.route cls src dst with
  | .direct yx => yx
  | .relay w _ => nsCode (s.nsEntry w 3 dst) == 1
  | _ => false

/-- Traffic classes of R374. -/
def clsRequest : Nat := 0
def clsResponse : Nat := 1
def clsBulk : Nat := 2
def clsRelay : Nat := 3

/-- The logical tower that holds a physical address of the own module, if it is a dome or scratchpad. -/
def State.towerOfPA (s : State) (pa : Nat) : Option Nat :=
  match s.place pa with
  | .dome t _ => some t
  | .scratch l _ => some (towerOf l)
  | _ => none

/-! ## Transfers and twins -/

/-- The binder and the engines of a core run: it is not held by a debug halt, or it is being stepped (R342, R349). -/
def Core.enginesRun (c : Core) : Bool := !c.dbg.halt || c.dbg.step.isSome

/-- A core's exchange work goes on: its engines run and its domain is not parked (R342, R343). -/
def State.exchangeRuns (s : State) (lcn : Nat) : Bool := (s.coreAt lcn).enginesRun && !(s.domOf lcn).parked

/-- The gang of a core is twinned, and its shadow where the core is a primary (R326). -/
def State.shadowCore (s : State) (lcn : Nat) : Option Nat :=
  match s.gang? (s.coreAt lcn).mem.gang with
  | some g => if g.covers lcn then g.shadowOf lcn else none
  | none => none

/-- The core belongs to a twinned gang. -/
def State.twinned (s : State) (lcn : Nat) : Bool :=
  match s.gang? (s.coreAt lcn).mem.gang with
  | some g => g.shadow.isSome
  | none => false

/-- The other twin of a core of a twinned gang. -/
def State.otherTwin (s : State) (lcn : Nat) : Option Nat :=
  match s.shadowCore lcn with
  | some h => some h
  | none => if s.twinned lcn then some (s.lcnShown lcn) else none

/-! ## The order of injection (R373) -/

/-- A packet injected by a tower's mesh interface: its leg, where it leaves the tower. -/
def State.newLeg (s : State) (way : Route) (cls src dst : Nat) : Option Leg × State :=
  let leg := fun (yx relay : Bool) (dst : Nat) =>
    (some ({ order := s.fab.injected, cls := cls, yx := yx, src := src, dst := dst, relay := relay } : Leg),
      ({ s with fab := { s.fab with injected := s.fab.injected + 1 } } : State))
  match way with
  | .direct yx => leg yx false dst
  | .relay w yx => leg yx true w
  | _ => (none, s)

/-- The legs under way on which the order of arrival is fixed: those of requests, flags and tasks, of combining lines and of
proxied requests. An XPUT's packets are injected as they arrive; a twin's packets wait for each other (R327), and those of a core
whose exchange work is suspended wait for it (R342). -/
def State.legs (s : State) : List Leg :=
  let ordered := fun (f : Fp) => f.going && match f.op with | .xput _ _ _ => false | _ => true
  (s.cores.flatMap fun e => if s.exchangeRuns e.1 && !s.twinned e.1 then (e.2.fps.filter ordered).filterMap (·.leg) else []) ++
  (((s.arb.sent.filter fun l => !l.arrived && !s.twinned l.lcn).filterMap (·.leg)) ++
  (s.fab.proxies.filter fun o => o.st == .sent).filterMap (·.leg))

/-- A packet injected earlier has not arrived, of the same class, between the same towers, on the same mesh. -/
def State.legAhead (s : State) (leg : Option Leg) : Bool :=
  match leg with
  | none => false
  | some l => s.legs.any fun x => x.order < l.order && (x.cls == l.cls && (x.yx == l.yx && (x.src == l.src && x.dst == l.dst)))

/-! ## The ring's part of a packet's way (R368) -/

/-- A packet between a core and its tower's port to a mesh. -/
def State.ringOut (s : State) (lcn : Nat) (yx : Bool) : State := s.ringPacket (towerOf lcn) .other (lcn % 8) (meshStop yx)
def State.ringIn (s : State) (lcn : Nat) (yx : Bool) : State := s.ringPacket (towerOf lcn) .other (meshStop yx) (lcn % 8)

end Sys2Proof.Machine
end

