-- ==== Sys2Proof/Machine/LoadStore.lean ====
section
/-!
DEFINITION. Loads, stores, tower-local and proxied atomics, and fences (R86 to R93, R258 to R267, R274, R411).
-/

namespace Sys2Proof.Machine

/-! ## Loads (R87, R88) -/

/-- A load of n bytes, signed or not. -/
def load (i : Instr) (n : Nat) (signed : Bool) (d a : BitVec 5) (l : BitVec 4) (disp : BitVec 12) (s : State) : Out :=
  issue i s fun s =>
    let ea := s.ea a disp
    if ea.toNat % n ≠ 0 then s.trap 0x04 ea
    else
      s.loadReady kindLoad [byteEAs ea n] fun s frames => s.loadPerform [byteEAs ea n] frames fun s data =>
        let v := BitVec.ofNat 64 (ofLeBytes data)
        (s.results l.toNat [(d, if signed then sextTo (8 * n) v else v)] [] 0
          (some (s.loadSrc frames (.scalar d n signed) (byteEAs ea n) data))).retire

/-- LD.b8 (R88). -/
def execLdB8 (d a : BitVec 5) (l : BitVec 4) (i : BitVec 12) (s : State) : Out := load (.ldB8 d a l i) 1 false d a l i s

/-- LD.s8 (R88). -/
def execLdS8 (d a : BitVec 5) (l : BitVec 4) (i : BitVec 12) (s : State) : Out := load (.ldS8 d a l i) 1 true d a l i s

/-- LD.b16 (R88). -/
def execLdB16 (d a : BitVec 5) (l : BitVec 4) (i : BitVec 12) (s : State) : Out := load (.ldB16 d a l i) 2 false d a l i s

/-- LD.s16 (R88). -/
def execLdS16 (d a : BitVec 5) (l : BitVec 4) (i : BitVec 12) (s : State) : Out := load (.ldS16 d a l i) 2 true d a l i s

/-- LD.b32 (R88). -/
def execLdB32 (d a : BitVec 5) (l : BitVec 4) (i : BitVec 12) (s : State) : Out := load (.ldB32 d a l i) 4 false d a l i s

/-- LD.s32 (R88). -/
def execLdS32 (d a : BitVec 5) (l : BitVec 4) (i : BitVec 12) (s : State) : Out := load (.ldS32 d a l i) 4 true d a l i s

/-- LD.d (R88). -/
def execLdD (d a : BitVec 5) (l : BitVec 4) (i : BitVec 12) (s : State) : Out := load (.ldD d a l i) 8 false d a l i s

/-! ## Stores (R89) -/

/-- A mask of n byte lanes. -/
def laneMask (n : Nat) : BitVec 256 := BitVec.ofNat 256 (2 ^ n - 1)

/-- ST (R87, R89): out of range it is recorded and dropped, else it waits for a free entry and is appended. -/
def execSt (d a : BitVec 5) (z : BitVec 2) (i : BitVec 12) (s : State) : Out :=
  issue (.st d a z i) s fun s =>
    let n := 2 ^ z.toNat
    let ea := s.ea a i
    if ea.toNat % n ≠ 0 then s.trap 0x04 ea
    else if outOfRange ea.toNat then (s.updCx fun x => x.recordOor ea.toNat true).retire
    else if s.core.sbFull then s.stall .storeBuffer
    else (s.appendStore 0 ea n (BitVec.ofNat 2048 ((s.g d).toNat % 2 ^ (8 * n))) (laneMask n)).retire

/-! ## Atomics (R90 to R92) -/

/-- The seven operations of R90 by imm16<11:8>: the value written, none for a failing AMOCAS. -/
def amoNew (op n old v e : Nat) : Option Nat :=
  match op with
  | 0 => some ((old + v) % 2 ^ (8 * n))
  | 1 => some v
  | 2 => if old = e then some v else none
  | 3 => some (if sintOf (8 * n) old ≤ sintOf (8 * n) v then old else v)
  | 4 => some (min old v)
  | 5 => some (if sintOf (8 * n) old ≤ sintOf (8 * n) v then v else old)
  | _ => some (max old v)

/-- The result of an atomic in g[d] (R91). -/
def amoResult (op n old : Nat) : Word :=
  if op = 3 ∨ op = 5 then BitVec.ofInt 64 (sintOf (8 * n) old) else BitVec.ofNat 64 old

/-- One indivisible step at the home of n bytes, for a party, after held partials: the old value (R92, R272). -/
def State.amoAt (s : State) (p : Party) (op n : Nat) (v e : Nat) (ea : Option Nat) (pa : Nat) : Nat × State :=
  let spots := (List.range n).map fun i => ({ ea := ea.map (· + i), pa := some (pa + i) } : Spot)
  let s := s.arrive ((List.range n).map (pa + ·))
  let old := ofLeBytes (s.bytesAt pa n)
  match amoNew op n old v e with
  | none => (old, s.watch p true false spots)
  | some new => (old, s.writeCells p true (((List.range n).map (pa + ·)).zip (leBytes n new)) spots)

/-- The queue of the proxy that an operation goes to (R274). -/
def proxyQueue (pa : BitVec 56) : Nat := (bits (pa.setWidth 64) 7 8) ^^^ (bits (pa.setWidth 64) 15 8)

/-- A store-fault trap of the context can be delivered now: nothing holds it back but a trap being handled (R254). -/
def State.storeTrapReady (s : State) : Bool := s.storeTrapDue s.lcn s.k && (s.k != 0 || !s.core.ta)

/-- The context must wait for its stores: entries of its own are buffered, or a store-fault trap comes first (R93, R254). -/
def State.drainsFirst (s : State) : Bool := s.ownStores || s.storeTrapReady

/-- An atomic that goes to the proxy: the message is posted once; the context waits for the reply (R91, R274, R411). -/
def State.proxied (s : State) (d : BitVec 5) (op n : Nat) (v e : Word) (va pa : Nat) : State :=
  let mine := fun (o : ProxyOp) => o.lcn == s.lcn && o.k == s.k
  let drop := fun (s : State) => { s with fab := { s.fab with proxies := s.fab.proxies.filter fun o => !mine o } }
  match s.fab.proxies.find? mine with
  | none =>
    let (id, s) := s.fresh
    let o : ProxyOp := { id := id, lcn := s.lcn, k := s.k, pa := BitVec.ofNat 56 pa, va := BitVec.ofNat 48 va, op := op,
                         size := n, operand := v, expect := e, st := .queued, leg := none }
    let s := if s.core.mem.gang = 0 then s else s.nonRollbackable s.lcn 3
    { s with fab := { s.fab with proxies := s.fab.proxies ++ [o] } }.stall .proxy
  | some o =>
    match o.st with
    | .answered (some old) => ((drop s).setG d (amoResult op n old.toNat)).retire
    | .answered none => if s.olderPending then s.stall .older else (drop s).loadFault kindAtomic 8 va
    | _ => s.stall .proxy

/-- An atomic of size n (R91): alignment, translation, range, older stores, then the step at its home. -/
def atomic (i : Instr) (op : Nat) (d a : BitVec 5) (z : BitVec 1) (b : BitVec 5) (s : State) : Out :=
  issue i s fun s =>
    let n := if z = 1 then 8 else 4
    let ea := s.g a
    let v := BitVec.ofNat 64 ((s.g b).toNat % 2 ^ (8 * n))
    let e := BitVec.ofNat 64 ((s.g d).toNat % 2 ^ (8 * n))
    if ea.toNat % n ≠ 0 then s.trap 0x04 ea
    else if outOfRange ea.toNat then ((s.updCx fun x => x.recordOor ea.toNat true).setG d 0).retire
    else if s.fab.proxies.any (fun o => o.lcn == s.lcn && o.k == s.k) then s.proxied d op n v e ea.toNat 0
    else
      s.reach id kindAtomic { s.query s.lcn s.k true true false false with peer := true } [ea.toNat] fun s frames =>
        match s.spotPA s.lcn frames ea.toNat with
        | none => s
        | some pa =>
          if s.drainsFirst then s.stall .drain
          else if !s.isLocal s.lcn pa then s.proxied d op n v e ea.toNat pa
          else if s.core.fpHoldsAccess [pa] then s.stall .footprint
          else
            let (old, s) := s.amoAt (Party.own s.lcn s.k) op n v.toNat e.toNat (some ea.toNat) pa
            let cells := ((List.range n).map (pa + ·)).zip (s.bytesAt pa n)
            ((s.windowStore (fun _ => none) cells).setG d (amoResult op n old)).retire

/-- AMOADD (R90). -/
def execAmoadd (d a : BitVec 5) (z : BitVec 1) (b : BitVec 5) (s : State) : Out := atomic (.amoadd d a z b) 0 d a z b s

/-- AMOSWAP (R90). -/
def execAmoswap (d a : BitVec 5) (z : BitVec 1) (b : BitVec 5) (s : State) : Out := atomic (.amoswap d a z b) 1 d a z b s

/-- AMOCAS (R90). -/
def execAmocas (d a : BitVec 5) (z : BitVec 1) (b : BitVec 5) (s : State) : Out := atomic (.amocas d a z b) 2 d a z b s

/-- AMOMIN.s (R90). -/
def execAmominS (d a : BitVec 5) (z : BitVec 1) (b : BitVec 5) (s : State) : Out := atomic (.amominS d a z b) 3 d a z b s

/-- AMOMIN.b (R90). -/
def execAmominB (d a : BitVec 5) (z : BitVec 1) (b : BitVec 5) (s : State) : Out := atomic (.amominB d a z b) 4 d a z b s

/-- AMOMAX.s (R90). -/
def execAmomaxS (d a : BitVec 5) (z : BitVec 1) (b : BitVec 5) (s : State) : Out := atomic (.amomaxS d a z b) 5 d a z b s

/-- AMOMAX.b (R90). -/
def execAmomaxB (d a : BitVec 5) (z : BitVec 1) (b : BitVec 5) (s : State) : Out := atomic (.amomaxB d a z b) 6 d a z b s

/-! ## The proxy (R274, R411) -/

/-- A proxied operation changed. -/
def State.updProxy (s : State) (id : Nat) (st : ProxySt) : State :=
  { s with fab := { s.fab with proxies := mapIf (fun o => o.id == id) (fun o => { o with st := st }) s.fab.proxies } }

/-- The operations of one queue of a tower's proxy are performed one at a time in the order of their messages: the first not yet
answered. -/
def State.proxyHead (s : State) (o : ProxyOp) : Bool :=
  match s.fab.proxies.find? (fun x => proxyQueue x.pa == proxyQueue o.pa &&
      (towerOf x.lcn == towerOf o.lcn && match x.st with | .answered _ => false | _ => true)) with
  | some x => x.id == o.id
  | none => false

/-- The target of a proxied operation accepts it: on the module its home serves, and request and response have a route; the
host does not refuse it; the link to a peer is up and the window stands (R398, R411, R418). -/
def State.proxyAccepted (s : State) (o : ProxyOp) : Bool :=
  s.backed (s.partOf o.lcn) o.pa.toNat && (!s.refuses o.pa.toNat &&
  match s.place o.pa.toNat with
  | .host _ => true
  | .peer _ _ => true
  | .far _ => true
  | .hole => false
  | _ =>
    match s.towerOfPA o.pa.toNat with
    | some t => s.reaches clsRequest (towerOf o.lcn) t && s.reaches clsResponse t (towerOf o.lcn)
    | none => false)

/-- PROXY_REQUEST (R274): the proxy sends the first operation of its queue toward its target. -/
def execProxyRequest (id : Nat) (s : State) : Out :=
  match s.fab.proxies.find? (fun o => o.id == id) with
  | some o =>
    .next (if o.st = .queued ∧ s.proxyHead o = true then
        let t := (s.towerOfPA o.pa.toNat).getD (towerOf o.lcn)
        let (leg, s) := s.newLeg (s.route clsRequest (towerOf o.lcn) t) clsRequest (towerOf o.lcn) t
        let s := s.updProxy id .sent
        { s with fab := { s.fab with proxies := mapIf (fun o => o.id == id) (fun o => { o with leg := leg }) s.fab.proxies } }
      else s)
  | none => .next s

/-- PROXY_HOME_OPERATION (R274, R411): the operation is performed at its target as one indivisible step when its request
arrives, or it is refused. -/
def execProxyHomeOperation (id : Nat) (s : State) : Out :=
  match s.fab.proxies.find? (fun o => o.id == id) with
  | some o =>
    .next (if o.st ≠ .sent ∨ s.legAhead o.leg = true then s
      else if !s.proxyAccepted o then (s.updProxy id (.performed none)).fresh.2
      else
        let p : Party := { lcn := o.lcn, ctx := o.k, ah := true, owner := some o.lcn }
        let (old, t) := s.amoAt p o.op o.size o.operand.toNat o.expect.toNat (some o.va.toNat) o.pa.toNat
        (t.updProxy id (.performed (some (BitVec.ofNat 64 old)))).fresh.2)
  | none => .next s

/-- PROXY_RESPONSE (R274): the old value or the refusal reaches the issuing context; for a context that is gone it is
dropped. -/
def execProxyResponse (id : Nat) (s : State) : Out :=
  match s.fab.proxies.find? (fun o => o.id == id) with
  | some o =>
    match o.st with
    | .performed old =>
      .next (if o.k = 11 then { s with fab := { s.fab with proxies := s.fab.proxies.filter fun x => x.id != id } }
        else s.updProxy id (.answered old))
    | _ => .next s
  | none => .next s

/-! ## Fences (R93, R255, R267) -/

/-- Older loads and atomics of the context have completed, and for the control context the older MDRAINs. -/
def State.loadsDone (s : State) : Bool := s.cx.late.isEmpty

/-- Engine and exchange work of the context whose token is not written, of the kinds a release or an acquire waits for. -/
def State.tokensDue (s : State) (acquire : Bool) : Bool :=
  s.core.fps.any fun f => f.ctx == s.k && match f.op with
    | .sbind _ => false
    | .xtask _ _ => false
    | .xcomb _ _ _ _ => false
    | .xget _ _ _ => true
    | .xcas _ _ _ _ => true
    | _ => !acquire

/-- What a release waits for. -/
def State.releaseWaits (s : State) : Bool :=
  s.olderPending || (s.drainsFirst || s.tokensDue false)

/-- What an acquire waits for. -/
def State.acquireWaits (s : State) : Bool := !s.loadsDone || s.tokensDue true

/-- FENCE (R86, R93). -/
def execFence (s : State) : Out :=
  issue .fence s fun s => if s.olderPending || s.drainsFirst then s.stall .drain else s.retire

/-- FENCE.R (R263, R267): the waits do not depend on the scope. -/
def execFenceR (a : BitVec 5) (s : State) : Out :=
  issue (.fenceR a) s fun s => if s.releaseWaits then s.stall .drain else s.retire

/-- FENCE.A (R263, R267). -/
def execFenceA (a : BitVec 5) (s : State) : Out :=
  issue (.fenceA a) s fun s => if s.acquireWaits then s.stall .drain else s.retire

/-- FENCE.AR (R267). -/
def execFenceAr (a : BitVec 5) (s : State) : Out :=
  issue (.fenceAr a) s fun s => if s.releaseWaits || s.acquireWaits then s.stall .drain else s.retire

/-- SDRAIN (R255). -/
def execSdrain (s : State) : Out :=
  issue .sdrain s fun s => if s.drainsFirst then s.stall .drain else s.retire

/-! ## Drain and walks -/

/-- STORE_DRAIN (R253, R254): the head is translated and written, or waits, or faults. -/
def execStoreDrain (lcn : Nat) (s : State) : Out := .next (s.drain lcn)

/-- BELFRY_REPLY (R251, R252): the answer of a mailbox slot; one whose sequence number is not outstanding is discarded. -/
def execBelfryReply (lcn slot seq : Nat) (kill : Bool) (s : State) : Out :=
  match Tab.find? (s.coreAt lcn).mail slot with
  | some m =>
    if m.seq = seq ∧ m.answer = none then
      .next (s.updCoreAt lcn fun c => { c with mail := Tab.put c.mail slot { m with answer := some kill } })
    else .next s
  | none => .next s

/-- PAGE_WALK (R245, R247): a page of a core's bound address space is looked up, and its entry fills the TLB. -/
def execPageWalk (lcn : Nat) (va : BitVec 48) (s : State) : Out :=
  let c := s.coreAt lcn
  match c.bound with
  | some n => .next (if isVirtual va.toNat then (s.tlbFind lcn 0 (s.partOf lcn) n c.root va.toNat).2 else s)
  | none => .next s

/-- LONG_LATENCY_COMPLETION (R44): the oldest long-latency result of a context is written. -/
def execLongLatencyCompletion (lcn k : Nat) (s : State) : Out :=
  match ((s.coreAt lcn).ctx k).late with
  | [] => .next s
  | l :: t =>
    .next (s.at lcn k fun s => (s.updCx fun x => { x with late := t }).land l.gdest l.vdest l.flags)

end Sys2Proof.Machine
end

