-- ==== Sys2Proof/Machine/Engines.lean ====
section
/-!
DEFINITION. The copy and fill engines and the stream binder (R277 to R294): acceptance of engine work into the footprint
scheduler, copies, fills, job cards, bindings, the beginning and the end of a transfer.
-/

namespace Sys2Proof.Machine

/-! ## Tokens and failures (R280 to R282) -/

/-- The final value of a transfer that fails (R281, R302). -/
def EngineOp.failToken (op : EngineOp) (f : Failure) : Word :=
  match op with
  | .xcas _ ty e _ => ~~~(if ty = 0 then sextTo 32 e else e)
  | _ => 0 - BitVec.ofNat 64 f.stat

/-- A transfer with its final value not yet written. -/
def Fp.failed (x : Fp) (f : Failure) : Fp := { x with stage := .ended (x.op.failToken f) (some f) }

/-- A transfer that has succeeded. -/
def Fp.done (x : Fp) (v : Word) : Fp := { x with stage := .ended v none }

/-- The entry with an identifier. -/
def State.fp? (s : State) (lcn id : Nat) : Option Fp := (s.coreAt lcn).fps.find? fun f => f.id == id

/-- The remote or destination address of a transfer, as aefva shows it for REASON 12 and 16; for a CPYV the destination of
its first region (DESIGN CHOICE, log entry 19). -/
def EngineOp.target (op : EngineOp) : Nat :=
  match op with
  | .cpy dst _ _ => dst.toNat
  | .cpyv ((_, dst, _) :: _) _ => dst.toNat
  | .cpyv [] _ => 0
  | .fill dst _ _ => dst.toNat
  | .sbind _ => 0
  | .xput r _ _ => bits r.addr 0 48
  | .xget r _ _ => bits r.addr 0 48
  | .xcomb r _ _ _ => bits r.addr 0 48
  | .xcas r _ _ _ => bits r.addr 0 48
  | .xflag r _ => bits r.addr 0 48
  | .xtask r _ => bits r.addr 0 48

/-- The capability's LCN of an exchange transfer (R295). -/
def EngineOp.remote? (op : EngineOp) : Option Remote :=
  match op with
  | .xput r _ _ => some r
  | .xget r _ _ => some r
  | .xcomb r _ _ _ => some r
  | .xcas r _ _ _ => some r
  | .xflag r _ => some r
  | .xtask r _ => some r
  | _ => none

/-- Status −6 of a transfer (R281, R282). -/
def EngineOp.aborted (op : EngineOp) : Failure := { stat := 6, reason := 12, addr := op.target }

/-- Transfers of a core that a test picks end with −6 where their final value stands open (R140, R145, R149). -/
def State.abortFps (s : State) (lcn : Nat) (p : Fp → Bool) : State :=
  let stops := fun (f : Fp) => p f && !f.over && match f.op with | .sbind _ => false | _ => true
  s.updCoreAt lcn fun c => { c with fps := mapIf stops (fun f => f.failed f.op.aborted) c.fps }

/-- TRANSFER_END (R280 to R282): the token receives the final value, a failure is recorded, the entry is released. -/
def State.endTransfer (s : State) (lcn : Nat) (f : Fp) (v : Word) (fail : Option Failure) : State :=
  s.updCoreAt lcn fun c =>
    let c := { c with fps := c.fps.filter fun x => x.id ≠ f.id }
    let c := if f.tok = 0 then c
      else c.updCtx f.ctx fun x => { x.setGr f.tok v with tokens := x.tokens.filter fun t => t.2 ≠ f.id }
    match fail with
    | none => c
    | some y => c.aeFail f.ctx y.stat y.reason y.addr

/-! ## Acceptance (R280, R283, R286) -/

/-- An instruction accepted by its engine: its entry, its token marked pending, and the instruction retires. -/
def State.accept (s : State) (f : Fp) : State :=
  let id := s.core.count + 1
  let e := { f with id := id, ctx := s.k, after := s.core.count, nth := s.cx.sends }
  let t := (s.updCore fun c => { c with fps := c.fps ++ [e], count := id }).updCx fun x => { x with sends := x.sends + 1 }
  let t := if f.tok = 0 then t else t.updCx fun x => { x with tokens := x.tokens ++ [(f.tok, id)] }
  t.retire

/-- An entry as its instruction fills it in. -/
def Fp.ofOp (tok : BitVec 5) (op : EngineOp) : Fp :=
  { id := 0, ctx := 0, tok := tok, op := op, stage := .accepted, rd := [], wr := [], far := [], packets := [], after := 0,
    rel := false, acq := false, nth := 0, leg := none }

/-- All sixteen entries are in use. -/
def Core.fpsFull (c : Core) : Bool := 16 ≤ c.fps.length

/-- The last check of R283: a free entry, then acceptance. -/
def State.takeEntry (s : State) (f : Fp) : State := if s.core.fpsFull then s.stall .engine else s.accept f

/-! ## Ranges (R287) -/

/-- A range cut at an address strictly inside it. -/
def cutAt (x : Nat) (r : Nat × Nat) : List (Nat × Nat) :=
  if r.1 < x ∧ x < r.1 + r.2 then [(r.1, x - r.1), (x, r.1 + r.2 - x)] else [r]

/-- A range cut at the 256 KiB pages, in ascending address order. -/
def pageCuts (a n : Nat) : List (Nat × Nat) :=
  if n = 0 then []
  else
    (List.range (pagesOf a n)).map fun j =>
      let lo := max a ((a / 2 ^ 18 + j) * 2 ^ 18)
      (lo, min (a + n) ((a / 2 ^ 18 + j + 1) * 2 ^ 18) - lo)

/-- It cut at the limits of the heap window too. -/
def pieces (x : Ctx) (a n : Nat) : List (Nat × Nat) :=
  match x.heap with
  | none => pageCuts a n
  | some (base, limit, _) => ((pageCuts a n).flatMap (cutAt base)).flatMap (cutAt limit)

/-- What an engine asks of a range. -/
inductive Side where
  /-- Read or written, and local (R239). -/
  | reads
  | writes
  /-- The frozen source of a FILL. -/
  | frozen
  /-- The remote range of XPUT (written) or XGET, by a virtual address of the issuer. -/
  | farWrites
  | farReads
deriving DecidableEq, Repr

/-- The translation that a side asks for. -/
def State.sideQuery (s : State) (x : Side) : Query :=
  match x with
  | .reads => s.query s.lcn s.k true false false true
  | .writes => s.query s.lcn s.k false true false true
  | .frozen => s.query s.lcn s.k true false false false
  | .farWrites => { s.query s.lcn s.k false true false false with peer := true }
  | .farReads => { s.query s.lcn s.k true false false false with peer := true }

/-- Physical ranges of the pieces of a range, or the failure of the first that cannot be reached (R281, R282, R287). -/
def State.reachPieces (s : State) (x : Side) : List (Nat × Nat) → List (Nat × Nat) → (Except Failure (List (Nat × Nat))) × State
  | [], acc => (.ok acc.reverse, s)
  | (a, n) :: t, acc =>
    if outOfRange a then (.error { stat := 3, reason := 13, addr := a }, s)
    else if !isVirtual a then
      match s.viewPA s.lcn a with
      | some pa => s.reachPieces x t ((pa, n) :: acc)
      | none => (.error { stat := 3, reason := 13, addr := a }, s)
    else
      match s.translate s.lcn s.k (s.sideQuery x) a with
      | (.fault r, s) => (.error { stat := 4, reason := r, addr := a }, s)
      | (.absent, s) => (.error { stat := 4, reason := 18, addr := a }, s)
      | (.ok pa leaf, s) =>
        if x = .frozen ∧ leaf.getLsbD 4 = false then (.error { stat := 4, reason := 10, addr := a }, s)
        else s.reachPieces x t ((pa, n) :: acc)

/-- Physical ranges of n bytes at an address, page by page in ascending order. -/
def State.reachRange (s : State) (x : Side) (a : Word) (n : Nat) : (Except Failure (List (Nat × Nat))) × State :=
  s.reachPieces x (pieces s.cx a.toNat n) []

/-- The size limit of R287: a count above 2^24 fails with −3. -/
def tooLong (n : Nat) : Option Failure := if n > 2 ^ 24 then some { stat := 3, reason := 13, addr := n } else none

/-- Destination and source of a copy or fill: every page of the destination, then every page of the source. -/
def State.reachBoth (s : State) (fill : Bool) (dst src : Word) (n : Nat) :
    (Except Failure (List (Nat × Nat) × List (Nat × Nat))) × State :=
  if fill && src.toNat < 2 ^ 32 then (.error { stat := 3, reason := 13, addr := src.toNat }, s)
  else
    match s.reachRange .writes dst n with
    | (.error f, s) => (.error f, s)
    | (.ok w, s) =>
      match s.reachRange (if fill then .frozen else .reads) src n with
      | (.error f, s) => (.error f, s)
      | (.ok r, s) => (.ok (w, r), s)

/-- The first of several values that is not a multiple of n. -/
def notMultiple (n : Nat) (xs : List Word) : Option Word := xs.find? fun x => x.toNat % n != 0

/-- CPY or FILL issued (R283, R287). -/
def State.copyIssue (s : State) (fill : Bool) (t a b : BitVec 5) : State :=
  let n := s.g t
  let dst := s.g a
  let src := s.g b
  let f := Fp.ofOp t (if fill then .fill dst src n.toNat else .cpy dst src n.toNat)
  match notMultiple 8 [dst, src, n] with
  | some x => s.trap 0x04 x
  | none =>
    if s.core.fpsFull then s.stall .engine
    else if n = 0 then s.accept (f.done 0)
    else
      match tooLong n.toNat with
      | some e => s.accept (f.failed e)
      | none =>
        match s.reachBoth fill dst src n.toNat with
        | (.error e, s) => s.accept (f.failed e)
        | (.ok (w, r), s) => s.accept { f with rd := if fill then [] else r, wr := w, far := if fill then r else [] }

/-- CPY (R287). -/
def execCpy (l : BitVec 4) (t a b : BitVec 5) (s : State) : Out := issue (.cpy l t a b) s fun s => s.copyIssue false t a b

/-- FILL (R287). -/
def execFill (l : BitVec 4) (t a b : BitVec 5) (s : State) : Out := issue (.fill l t a b) s fun s => s.copyIssue true t a b

/-! ## Job cards (R288, R289) -/

/-- Bytes of the own scratchpad read at issue as one access; the state stays as it is until the instruction is accepted. -/
def State.peekable (s : State) (eas : List Nat) : Option Wait :=
  if s.loadHeld s.lcn s.k [] eas then some .drain
  else if s.core.fpHoldsAccess (eas.filterMap (s.spotPA s.lcn [])) then some .footprint
  else none

/-- A number in the own scratchpad, as the context sees it. -/
def State.peek (s : State) (ea n : Nat) : Nat := ofLeBytes (((List.range n).map (ea + ·)).map (s.loadByte s.lcn s.k []))

/-- The read of a record takes effect, for watchpoints and held partials. -/
def State.recordRead (s : State) (ea n : Nat) : State :=
  s.performRead (Party.own s.lcn s.k) (((List.range n).map (ea + ·)).map fun a => { ea := some a, pa := s.viewPA s.lcn a })

/-- n bytes at an address lie wholly in the own scratchpad. -/
def inScratch (a n : Nat) : Bool := a + n ≤ 0x80000

/-- Regions of a card: SRC, DST, LEN. -/
def State.cardRegions (s : State) (card nreg : Nat) : List (Word × Word × Nat) :=
  (List.range nreg).map fun r =>
    (BitVec.ofNat 64 (s.peek (card + 0x20 + 32 * r) 8), BitVec.ofNat 64 (s.peek (card + 0x28 + 32 * r) 8),
     s.peek (card + 0x30 + 32 * r) 4)

/-- The checks of R288 from the fourth on: WHY of the first that fails. -/
def State.cardWhy (s : State) (card nreg : Nat) : Option Nat :=
  if nreg = 0 ∨ 8 < nreg then some 9
  else if s.peek (card + 1) 31 ≠ 0 ∨ (List.range nreg).any (fun r => s.peek (card + 0x34 + 32 * r) 12 ≠ 0) then some 10
  else if (s.cardRegions card nreg).any fun r => r.1.toNat % 8 ≠ 0 || (r.2.1.toNat % 8 ≠ 0 || r.2.2 % 8 ≠ 0) then some 12
  else none

/-- Regions reached in order, up to the first that fails (R289): destination and source ranges, regions, failure. -/
def State.reachCard (s : State) : List (Word × Word × Nat) →
    List (Nat × Nat) × List (Nat × Nat) × List (Word × Word × Nat) × Option Failure × State
  | [] => ([], [], [], none, s)
  | (src, dst, n) :: t =>
    match tooLong n with
    | some e => ([], [], [], some e, s)
    | none =>
      match s.reachBoth false dst src n with
      | (.error e, s) => ([], [], [], some e, s)
      | (.ok (w, r), s) =>
        let (ws, rs, gs, e, s) := s.reachCard t
        (w ++ ws, r ++ rs, (src, dst, n) :: gs, e, s)

/-- CPYV (R288, R289). -/
def execCpyv (l : BitVec 4) (t a : BitVec 5) (s : State) : Out :=
  issue (.cpyv l t a) s fun s =>
    let card := (s.g a).toNat
    let bad := fun why => s.trap 0x09 (tileInfo why 0 (.cpyv l t a))
    if card % 64 ≠ 0 then s.trap 0x04 (s.g a)
    else if !inScratch card 32 then bad 8
    else
      match s.peekable [card] with
      | some w => s.stall w
      | none =>
        let nreg := s.peek card 1
        let size := 0x20 + 32 * min nreg 8
        if !inScratch card size then bad 8
        else
          match s.peekable ((List.range size).map (card + ·)) with
          | some w => s.stall w
          | none =>
            match s.cardWhy card nreg with
            | some why => bad why
            | none =>
              if s.core.fpsFull then s.stall .engine
              else
                let gs := s.cardRegions card nreg
                let (w, r, ok, e, u) := (s.recordRead card size).reachCard gs
                u.accept { Fp.ofOp t (.cpyv ok e) with rd := r, wr := w }

/-! ## Bindings (R290, R291) -/

/-- SUNBIND of a slot (R290). -/
def Core.unbind (c : Core) (k : Nat) : Core :=
  { c with streams := Tab.erase c.streams k, fps := c.fps.filter fun f => f.op != .sbind k }

/-- The checks of R291 from the third on: WHY of the first that fails. -/
def State.bindWhy (s : State) (x : Stream) : Option Nat :=
  let inv : Bool := x.ops / 4 % 2 = 1
  let tb : Bool := 5 ≤ x.td.fmt && x.td.fmt ≤ 7
  match s.tileWhy (.stream inv) (BitVec.ofNat 64 (x.u 0 8)) (BitVec.ofNat 64 (x.u 8 8)) with
  | some why => some why
  | none =>
    if x.ops / 8 % 2 = 1 ∧ inScratch (x.u 0x38 8) 256 = false then some 8
    else if x.u 0x28 2 = 0 ∨ x.u 0x2A 2 = 0 ∨ x.u 0x2C 2 = 0 then some 9
    else if x.u 0x2E 2 ≠ 0 ∨ x.ops / 16 ≠ 0 ∨ x.u 0x10 8 % 64 ≠ 0 ∨ x.u 0x18 8 % 64 ≠ 0 ∨ x.u 0x20 8 % 64 ≠ 0 then some 10
    else if (x.ops % 2 == 1) != tb || (x.ops / 2 % 2 == 1) != (x.td.fmt == 8) then some 11
    else none

/-- The local ranges of one row of a tile, where they are known without a fault. -/
def State.rowRanges (s : State) (a n : Nat) : List (Nat × Nat) :=
  (pieces s.cx (a % 2 ^ 64) n).filterMap fun p =>
    if outOfRange p.1 then none
    else if !isVirtual p.1 then (s.viewPA s.lcn p.1).map fun pa => (pa, p.2)
    else
      match (s.translate s.lcn 0 (s.query s.lcn 0 true false false false) p.1).1 with
      | .ok pa _ => if s.isLocal s.lcn pa then some (pa, p.2) else none
      | _ => none

/-- The read footprint of a binding: every row-byte range of every tile (R284). -/
def State.bindRanges (s : State) (x : Stream) : List (Nat × Nat) :=
  (List.range x.tiles).flatMap fun t =>
    let d := x.tileAt t
    (List.range d.rows).flatMap fun r => s.rowRanges (d.rowAt r) d.rowBytes

/-- SBIND (R290, R291): a bound slot is unbound first; the record and its scales are copied. -/
def execSbind (l : BitVec 4) (k : BitVec 2) (a : BitVec 5) (s : State) : Out :=
  issue (.sbind l k a) s fun s =>
    let rec' := (s.g a).toNat
    let bad := fun why => s.trap 0x09 (tileInfo why 0 (.sbind l k a))
    if rec' % 64 ≠ 0 then s.trap 0x04 (s.g a)
    else if !inScratch rec' 64 then bad 8
    else
      match s.peekable ((List.range 64).map (rec' + ·)) with
      | some w => s.stall w
      | none =>
        let x : Stream :=
          { record := (List.range 64).map fun i => s.loadByte s.lcn s.k [] (rec' + i), scale := [], rm := s.rm, tile := 0,
            row := 0, ready := [], past := false, olds := [] }
        match s.bindWhy x with
        | some why => bad why
        | none =>
          let scaled : Bool := x.ops / 8 % 2 = 1
          let at' := x.u 0x38 8
          match if scaled then s.peekable ((List.range 256).map (at' + ·)) else none with
          | some w => s.stall w
          | none =>
            let u := s.updCore (·.unbind k.toNat)
            if u.core.fpsFull then s.stall .engine
            else
              let y := if scaled then
                  { x with scale := (List.range 64).map fun j => BitVec.ofNat 32 (s.peek (at' + 4 * j) 4) }
                else x
              let u := u.recordRead rec' 64
              let u := if scaled then u.recordRead at' 256 else u
              (u.updCore fun c => { c with streams := Tab.put c.streams k.toNat y }).accept
                { Fp.ofOp 0 (.sbind k.toNat) with rd := s.bindRanges y }

/-- SUNBIND (R290). -/
def execSunbind (k : BitVec 2) (s : State) : Out := issue (.sunbind k) s fun s => (s.updCore (·.unbind k.toNat)).retire

/-- STREAM_FETCH (R292): the binder forms a vector ahead of the pops, up to four; what stops it is left to the instruction
that pops the vector (R293). -/
def execStreamFetch (lcn sm : Nat) (s : State) : Out :=
  match Tab.find? (s.coreAt lcn).streams sm with
  | none => .next s
  | some x =>
    if x.ended || (4 ≤ x.ready.length || !(s.coreAt lcn).enginesRun) then .next s
    else
      match s.streamBegin lcn sm with
      | (false, s) => .next s
      | (true, s) =>
        match s.streamNext lcn sm x with
        | (.ok, s) => .next s
        | _ => .next s

/-! ## Copying -/

/-- The byte addresses of ranges in order. -/
def flat (rs : List (Nat × Nat)) : List Nat := rs.flatMap fun r => (List.range r.2).map (r.1 + ·)

/-- Spots of bytes at consecutive effective addresses from `a`. -/
def spotsFrom (a : Nat) (pas : List Nat) : List Spot :=
  pas.zipIdx.map fun p => { ea := some (a + p.2), pa := some p.1 }

/-- The words that a transfer writes of those it would write: all, or, where it ends early, each aligned 8-byte word by a free
choice (R281; DESIGN CHOICE, log entry 70). -/
def cut (part : Option Nat) (cells : List ((Nat × Byte) × Spot)) : List ((Nat × Byte) × Spot) :=
  match part with
  | none => cells
  | some t => cells.filter fun c => Config.wordNew t (c.1.1 / 8 * 2)

/-- n bytes copied from known homes to known homes, every byte read before any is written (R287). -/
def State.copyBytes (s : State) (lcn k : Nat) (dst src : Word) (part : Option Nat) (ds ss : List Nat) : State :=
  let s := s.performRead (Party.own lcn k) (spotsFrom src.toNat ss)
  let cells := cut part ((ds.zip (ss.map s.byteAt)).zip (spotsFrom dst.toNat ds))
  s.performWrite (Party.own lcn k) (cells.map (·.1)) (cells.map (·.2))

/-- Regions of a CPYV copied one after another (R289); of one that ends early a free number, and part of the next. -/
def State.copyRegions (s : State) (lcn k : Nat) (part : Option Nat) : List (Word × Word × Nat) → List Nat → List Nat → State
  | [], _, _ => s
  | (src, dst, n) :: t, ds, ss =>
    let last := part.any fun p => Config.freeIndex p % (t.length + 1) == 0
    let s := s.copyBytes lcn k dst src (if last then part else none) (ds.take n) (ss.take n)
    if last then s else s.copyRegions lcn k part t (ds.drop n) (ss.drop n)

/-- A local transfer moves its bytes, or part of them. -/
def State.moveLocal (s : State) (lcn : Nat) (f : Fp) (part : Option Nat) : State :=
  match f.op with
  | .cpy dst src _ => s.copyBytes lcn f.ctx dst src part (flat f.wr) (flat f.rd)
  | .fill dst src _ => s.copyBytes lcn f.ctx dst src part (flat f.wr) (flat f.far)
  | .cpyv gs _ => s.copyRegions lcn f.ctx part gs (flat f.wr) (flat f.rd)
  | _ => s

/-- The final value of a local transfer whose bytes have moved. -/
def Fp.moved (f : Fp) : Fp :=
  match f.op with
  | .cpy _ _ n => f.done (BitVec.ofNat 64 n)
  | .fill _ _ n => f.done (BitVec.ofNat 64 n)
  | .cpyv gs none => f.done (BitVec.ofNat 64 (gs.foldl (fun a g => a + g.2.2) 0))
  | .cpyv _ (some e) => f.failed e
  | _ => f

/-- The failure of an access that the host refuses, or whose link is down, among bytes at addresses from `a` (R282, R398, R418). -/
def State.refusedAt (s : State) (a : Nat) (pas : List Nat) : Option Failure :=
  (pas.zipIdx.find? fun p => s.refuses p.1).map fun p => { stat := 4, reason := 8, addr := a + p.2 }

/-- A local transfer that has begun moves its bytes and has its final value; a FILL whose source is refused ends with part of them
(R281, R398). -/
def State.moveBytes (s : State) (lcn : Nat) (f : Fp) : State :=
  match f.op with
  | .fill _ src _ =>
    match s.refusedAt src.toNat (flat f.far) with
    | some e => ((s.moveLocal lcn f (some s.tick)).updFp lcn f.id (·.failed e)).fresh.2
    | none => (s.moveLocal lcn f none).updFp lcn f.id Fp.moved
  | _ => (s.moveLocal lcn f none).updFp lcn f.id Fp.moved

/-- TRANSFER_END (R280 to R282). -/
def execTransferEnd (lcn id : Nat) (s : State) : Out :=
  match s.fp? lcn id with
  | some f =>
    match f.stage with
    | .ended v fail => .next (s.endTransfer lcn f v fail)
    | _ => .next s
  | none => .next s

end Sys2Proof.Machine
end

