-- ==== Sys2Proof/Machine/Exchange.lean ====
section
/-!
DEFINITION. The exchange engine and the landing unit (R295 to R305): capabilities, remote ranges, routes, packets, combining
lines (R271, R272, R303), landing counters, task arrival, relays (R375), and the pairs of twin mode (R326 to R328).
-/

namespace Sys2Proof.Machine

/-! ## Capabilities and remote addresses (R295, R381) -/

/-- The target LCN of a capability. -/
def Remote.lcn (r : Remote) : Nat := bits r.cap 0 12

/-- The remote address. -/
def Remote.at (r : Remote) : Nat := bits r.addr 0 48

/-- The landing counter that an XPUT names. -/
def Remote.counter (r : Remote) : Nat := bits r.addr 48 4

/-- A capability does not verify for the core whose turn it is: seal, partition, rights (R295, R381). -/
def State.capBad (s : State) (cap : Word) (wake : Bool) : Bool :=
  match s.partHeld s.lcn with
  | none => true
  | some p =>
    bits cap 38 26 != sealOf (s.partAt p).key (bits cap 0 38) ||
      (bits cap 16 6 != p || (!bit cap 12 || (wake && !bit cap 13)))

/-- The remote half of an instruction from its even register pair. -/
def State.remoteOf (s : State) (a : BitVec 5) : Remote := { cap := s.g a, addr := s.g (pairHi a) }

/-- A core view range of a target core: wholly in its scratchpad or in its tower's dome. -/
def State.remoteView (s : State) (lcn a n : Nat) : Option Nat :=
  if a + n ≤ 0x80000 then some (s.scratchPA lcn a)
  else if 0x8000000 ≤ a ∧ a + n ≤ 0xC000000 then some (s.domePA (towerOf lcn) (a - 0x8000000))
  else none

/-- The token failures of R295 in order, or the remote ranges; `virt` for the forms that take a virtual address. -/
def State.remoteRange (s : State) (r : Remote) (n : Nat) (virt : Option Side) : (Except Failure (List (Nat × Nat))) × State :=
  let fail := fun (s : State) stat reason addr => (Except.error ({ stat := stat, reason := reason, addr := addr } : Failure), s)
  if bits r.cap 22 16 ≠ s.fab.mapgen.toNat then fail s 2 15 r.lcn
  else if !s.isCore r.lcn then fail s 3 13 r.lcn
  else if bits r.addr 52 12 ≠ 0 then fail s 3 13 r.at
  else if r.at < 2 ^ 32 then
    match s.remoteView r.lcn r.at n with
    | some pa => (.ok [(pa, n)], s)
    | none => fail s 3 13 r.at
  else
    match virt with
    | none => fail s 3 13 r.at
    | some side =>
      match s.reachRange side (BitVec.ofNat 64 r.at) n with
      | (.error f, s) => fail s f.stat f.reason r.at
      | (.ok rs, s) => (.ok rs, s)

/-- An exchange transfer accepted (R323): one whose target core is no member of the gang makes the superstep
non-rollbackable. -/
def State.acceptRemote (s : State) (r : Remote) (f : Fp) : State :=
  let gang := s.core.mem.gang
  let s := if gang ≠ 0 ∧ (s.coreAt r.lcn).mem.gang ≠ gang then s.nonRollbackable s.lcn 4 else s
  s.accept f

/-- Checks 3 to 5 of R283 for a remote form: alignment, the capability, a free entry. -/
def State.remoteIssue (s : State) (r : Remote) (wake : Bool) (bad : Option Word) (go : State → State) : State :=
  match bad with
  | some x => s.trap 0x04 x
  | none =>
    if s.capBad r.cap wake then s.trap 0x0B r.cap
    else if s.core.fpsFull then s.stall .engine
    else go s

/-- The ordering field of a remote form (R268). -/
def Fp.ordered (f : Fp) (o : BitVec 2) : Fp := { f with rel := o == 1, acq := o == 2 }

/-! ## XPUT and XGET (R297) -/

/-- XPUT or XGET issued: the limits of R287, then R295, then the local range, in the order in which R297 names them (DEDUCED, log
entry 20). -/
def State.bulkIssue (s : State) (put : Bool) (t a b : BitVec 5) (o : BitVec 2) : State :=
  let r := s.remoteOf a
  let n := s.g t
  let loc := s.g b
  let far := BitVec.ofNat 64 r.at
  let f := (Fp.ofOp t (if put then .xput r loc n.toNat else .xget r loc n.toNat)).ordered o
  s.remoteIssue r false (notMultiple 8 (if put then [far, loc, n] else [loc, far, n])) fun s =>
    if n = 0 then s.acceptRemote r (f.done 0)
    else
      match tooLong n.toNat with
      | some e => s.acceptRemote r (f.failed e)
      | none =>
        match s.remoteRange r n.toNat (some (if put then .farWrites else .farReads)) with
        | (.error e, s) => s.acceptRemote r (f.failed e)
        | (.ok rs, s) =>
          match s.reachRange (if put then .reads else .writes) loc n.toNat with
          | (.error e, s) => s.acceptRemote r (f.failed e)
          | (.ok ls, s) => s.acceptRemote r { f with far := rs, rd := if put then ls else [], wr := if put then [] else ls }

/-- XPUT (R297). -/
def execXput (l : BitVec 4) (t a b : BitVec 5) (o : BitVec 2) (s : State) : Out :=
  issue (.xput l t a b o) s fun s => s.bulkIssue true t a b o

/-- XGET (R297). -/
def execXget (l : BitVec 4) (t a b : BitVec 5) (o : BitVec 2) (s : State) : Out :=
  issue (.xget l t a b o) s fun s => s.bulkIssue false t a b o

/-! ## Combining atomics, XCAS, XFLAG, XTASK at issue (R300 to R304) -/

/-- A transfer of one word accepted, with its R295 failure if it has one. -/
def State.wordIssue (s : State) (r : Remote) (n : Nat) (f : Fp) : State :=
  s.remoteIssue r false (notMultiple n [BitVec.ofNat 64 r.at]) fun s =>
    match s.remoteRange r n none with
    | (.error e, s) => s.acceptRemote r (f.failed e)
    | (.ok rs, s) => s.acceptRemote r { f with far := rs }

/-- The operand of a type: the low word for .s32 and .f32 (R301). -/
def operandAs (ty : BitVec 2) (v : Word) : Word := zextTo (8 * tySize ty) v

/-- XADD, XMIN and XMAX issued (R301). -/
def State.combIssue (s : State) (op : BitVec 2) (t a b : BitVec 5) (o y : BitVec 2) : State :=
  let r := s.remoteOf a
  s.wordIssue r (tySize y) ((Fp.ofOp t (.xcomb r op y (operandAs y (s.g b)))).ordered o)

/-- XADD (R301). -/
def execXadd (l : BitVec 4) (t a b : BitVec 5) (o y : BitVec 2) (s : State) : Out :=
  issue (.xadd l t a b o y) s fun s => s.combIssue 0 t a b o y

/-- XMIN (R301). -/
def execXmin (l : BitVec 4) (t a b : BitVec 5) (o y : BitVec 2) (s : State) : Out :=
  issue (.xmin l t a b o y) s fun s => s.combIssue 1 t a b o y

/-- XMAX (R301). -/
def execXmax (l : BitVec 4) (t a b : BitVec 5) (o y : BitVec 2) (s : State) : Out :=
  issue (.xmax l t a b o y) s fun s => s.combIssue 2 t a b o y

/-- XCAS (R302). -/
def execXcas (l : BitVec 4) (t a b : BitVec 5) (o y : BitVec 2) (s : State) : Out :=
  issue (.xcas l t a b o y) s fun s =>
    let r := s.remoteOf a
    s.wordIssue r (tySize y) ((Fp.ofOp t (.xcas r y (operandAs y (s.g t)) (operandAs y (s.g b)))).ordered o)

/-- XFLAG (R300): always a release. -/
def execXflag (l : BitVec 4) (t a b : BitVec 5) (s : State) : Out :=
  issue (.xflag l t a b) s fun s =>
    let r := s.remoteOf a
    s.wordIssue r 8 { Fp.ofOp t (.xflag r (s.g b)) with rel := true }

/-- XTASK (R304). -/
def execXtask (l : BitVec 4) (t a b : BitVec 5) (s : State) : Out :=
  issue (.xtask l t a b) s fun s =>
    let r := s.remoteOf a
    let rec' := s.g b
    let f := Fp.ofOp t (.xtask r rec')
    s.remoteIssue r true (notMultiple 64 [rec']) fun s =>
      if r.at ≠ 0 then
        match s.remoteRange r 0 none with
        | (.error e, s) => s.acceptRemote r (f.failed e)
        | (.ok _, s) => s.acceptRemote r (f.failed { stat := 3, reason := 13, addr := r.at })
      else
        match s.remoteRange r 0 none with
        | (.error e, s) => s.acceptRemote r (f.failed e)
        | (.ok _, s) =>
          if inScratch rec'.toNat 64 then s.acceptRemote r { f with rd := [(s.scratchPA s.lcn rec'.toNat, 64)] }
          else s.acceptRemote r (f.failed { stat := 3, reason := 13, addr := rec'.toNat })

/-! ## Combining lines (R271, R303) -/

/-- The core is a shadow: it sends hash packets (R327). -/
def State.hashes (s : State) (lcn : Nat) : Bool := s.twinned lcn && (s.shadowCore lcn).isNone

/-- The bytes of a packet with n bytes of payload: a header flit and payload flits of 128 bytes; one flit for a hash packet (R373,
R327). -/
def State.packetSize (s : State) (lcn n : Nat) : Nat := if s.hashes lcn then 128 else 128 * (1 + (n + 127) / 128)

/-- A core's packet with n bytes of payload is injected: its bytes counted (event 14; DEDUCED, log entry 84), its way to the mesh
interface's port, its leg. -/
def State.injectPacket (s : State) (lcn : Nat) (way : Route) (cls dst n : Nat) : Option Leg × State :=
  let (leg, s) := s.newLeg way cls (towerOf lcn) dst
  match leg with
  | some l => (leg, (s.updCoreAt lcn fun c => c.countEvent 14 none (s.packetSize lcn n)).ringOut lcn l.yx)
  | none => (leg, s)

/-- The route of a transfer of a core: for a twin that of its primary, so that both meet the same (R326; DEDUCED, log entry 91). -/
def State.routeFor (s : State) (lcn cls dst : Nat) : Route := s.route cls (towerOf (s.lcnShown lcn)) dst

/-- A line sent to its home's stage, or discarded where it meets a stale generation, a retired tower or no route (R303). -/
def State.sendLine (s : State) (lcn : Nat) (l : CombLine) : State :=
  let s := s.updCoreAt lcn fun c => { c with comb := c.comb.filter (· ≠ l) }
  if l.gen ≠ s.fab.mapgen then s.lineFailed lcn 2 15 l.home
  else
    let way := s.routeFor lcn clsBulk (towerOf l.target.toNat)
    match way with
    | .retired => s.lineFailed lcn 1 16 l.home
    | .unreachable => s.lineFailed lcn 7 14 l.home
    | _ =>
      let seq := (s.coreAt lcn).combSeq
      let s := s.updCoreAt lcn fun c => { c.countEvent 16 none 1 with combSeq := seq + 1 }
      let (leg, s) := s.injectPacket lcn way clsBulk (towerOf l.target.toNat) (8 * l.words.length)
      { s with arb := { s.arb with sent := s.arb.sent ++ [{ lcn := lcn, seq := seq, line := l, leg := leg, arrived := false }] } }

/-- A partial entered into a line that its core holds. -/
def CombLine.enter (l : CombLine) (off : Nat) (v : Word) : CombLine :=
  { l with words := Tab.put l.words off (match Tab.find? l.words off with
      | some x => BitVec.ofNat 64 (comb l.op l.ty x.toNat v.toNat)
      | none => v) }

/-- A combining atomic of a core enters a line (R271). -/
def State.enterLine (s : State) (lcn : Nat) (r : Remote) (pa : Nat) (op ty : BitVec 2) (v : Word) : State :=
  let home := pa / 128 * 128
  let fresh : CombLine := { home := home, target := BitVec.ofNat 12 r.lcn, gen := BitVec.ofNat 16 (bits r.cap 22 16), op := op,
                            ty := ty, words := [(pa % 128, v)] }
  let same := fun (l : CombLine) => l.home == home && (l.op == op && l.ty == ty)
  let add := fun (s : State) => s.updCoreAt lcn fun c => { c with comb := c.comb ++ [fresh] }
  let lines := (s.coreAt lcn).comb
  if lines.any same then
    s.updCoreAt lcn fun c => { c with comb := mapIf same (fun l => l.enter (pa % 128) v) c.comb }
  else
    match lines.find? (fun l => l.home == home) with
    | some l => add (s.sendLine lcn l)
    | none =>
      match lines with
      | l :: _ => if 8 ≤ lines.length then add (s.sendLine lcn l) else add s
      | [] => add s

/-- A combining line overlaps some ranges, at their homes. -/
def State.lineMeets (s : State) (l : CombLine) (rs : List (Nat × Nat)) : Bool :=
  rs.any fun r => r.2 != 0 && (List.range (pagesOf r.1 r.2)).any fun j =>
    let pa := (r.1 / 2 ^ 18 + j) * 2 ^ 18 + l.home % 2 ^ 18
    r.1 < pa + 128 && (pa < r.1 + r.2 && s.homeOf pa == s.homeOf l.home)

/-- Lines of the issuer that a non-combining access overlaps, at either end, are sent first (R271). -/
def State.sendOverlap (s : State) (lcn : Nat) (rs : List (Nat × Nat)) : State :=
  ((s.coreAt lcn).comb.filter fun l => s.lineMeets l rs).foldl (fun s l => s.sendLine lcn l) s

/-! ## Homes and twins (R326) -/

/-- The cores at which a packet for a target performs: the target, and its shadow where the target is twinned. -/
def State.homesAt (s : State) (tgt : Nat) : List Nat :=
  tgt :: (match s.shadowCore tgt with | some h => [h] | none => [])

/-- The homes of bytes at a target core or its shadow: memory of the gang is each twin's own, other memory is written once. -/
def State.homeCells (s : State) (tgt h : Nat) (cells : List (Nat × Byte)) : List (Nat × Byte) :=
  if h = tgt then cells
  else (cells.filter fun c => s.relocate h c.1 ≠ c.1).map fun c => (s.relocate h c.1, c.2)

/-! ## Landing counters (R298) -/

/-- The arrival of b bytes counted on counter k. -/
def Core.landed (c : Core) (k b : Nat) : Core :=
  if b = 0 then c
  else
    let r := c.reg (0x110 + k)
    let fired := bit r 63
    let cnt := (bits r 0 48 + 2 ^ 48 - b % 2 ^ 48) % 2 ^ 48
    let c := if fired then c.setReg 0x120 (withBits (c.reg 0x120) k 1 1) else c
    c.setReg (0x110 + k) (BitVec.ofNat 64 (b2n (fired || (bit r 62 && cnt == 0)) * 2 ^ 63 + b2n (bit r 62) * 2 ^ 62 + cnt))

/-- XEXPECT (R298). -/
def execXexpect (a : BitVec 5) (k : BitVec 4) (s : State) : Out :=
  issue (.xexpect a k) s fun s =>
    let r := s.core.reg (0x110 + k.toNat)
    let cnt := (bits r 0 48 + satNat (s.g a).toNat (2 ^ 47 - 1)) % 2 ^ 48
    (s.updCore fun c => c.setReg (0x110 + k.toNat) (BitVec.ofNat 64 (b2n (cnt == 0) * 2 ^ 63 + 2 ^ 62 + cnt))).retire

/-- XWAIT (R298). -/
def execXwait (k : BitVec 4) (s : State) : Out :=
  issue (.xwait k) s fun s =>
    let r := s.core.reg (0x110 + k.toNat)
    if bit r 63 || (!bit r 62 && bits r 0 48 == 0) then s.retire else s.stall .landing

/-- LND_WRITE (R279): a supervisor SETS of a landing counter writes COUNT, POST and FIRED as given. -/
def execLndWrite (lcn n : Nat) (v : BitVec 64) (s : State) : Out := .next (s.supWrite lcn (0x110 + n % 16) v)

/-! ## Performing at a home (R296 to R304) -/

/-- Steps 3 and 4 of R296: the target tower has been retired, or the target's domain is not in its exchange phase. -/
def State.meetTarget (s : State) (f : Fp) (r : Remote) : Option Failure :=
  if !s.towerServes (towerOf r.lcn) then some { stat := 1, reason := 16, addr := f.op.target }
  else if !s.openTo r.lcn then some { stat := 6, reason := 12, addr := f.op.target }
  else none

/-- Spots of remote bytes: with their virtual addresses where the remote address is virtual (R347). -/
def remoteSpots (r : Remote) (off : Nat) (cells : List Nat) : List Spot :=
  cells.zipIdx.map fun p => { ea := if r.at < 2 ^ 32 then none else some (r.at + off + p.2), pa := some p.1 }

/-- Bytes written at their homes for core `lcn`, counted where `counted` names a counter (R297, R298). -/
def State.landBytes (s : State) (lcn k : Nat) (r : Remote) (off : Nat) (counted : Option Nat) (cells : List (Nat × Byte)) :
    State :=
  (s.homesAt r.lcn).foldl (fun s h =>
    let cs := s.homeCells r.lcn h cells
    let s := s.performWrite (Party.remote lcn k h) cs (remoteSpots r off (cs.map (·.1)))
    let s := s.updCoreAt h fun c => c.countEvent 15 none cs.length
    match counted with
    | some n => s.updCoreAt h (·.landed n ((cs.filter fun c => (s.viewOf h c.1).isSome).length))
    | none => s) s

/-- Packets of n bytes (R297). -/
def packetsOf (n : Nat) : Nat := (n + 1023) / 1024

/-- The bytes of an XPUT packet read from local memory. -/
def State.packetBytes (s : State) (lcn : Nat) (f : Fp) (src : Word) (p : Nat) : List Byte × State :=
  let pas := ((flat f.rd).drop (1024 * p)).take 1024
  let s := s.performRead (Party.own lcn f.ctx) (spotsFrom (src.toNat + 1024 * p) pas)
  (pas.map s.byteAt, s)

/-- An XPUT's packet is injected. -/
def State.notePacket (s : State) (lcn : Nat) (f : Fp) (n p : Nat) : State :=
  match f.leg with
  | some l => (s.updCoreAt lcn fun c => c.countEvent 14 none (s.packetSize lcn (min 1024 (n - 1024 * p)))).ringOut lcn l.yx
  | none => s

/-- One packet of an XPUT performs at its home. -/
def State.putPacket (s : State) (lcn : Nat) (f : Fp) (r : Remote) (p : Nat) (bs : List Byte) : State :=
  s.landBytes lcn f.ctx r (1024 * p) (some r.counter) ((((flat f.far).drop (1024 * p)).take 1024).zip bs)

/-- The data of an XGET read at its home, `h` the target or its shadow. -/
def State.getBytes (s : State) (lcn : Nat) (f : Fp) (r : Remote) (h : Nat) : List Byte × State :=
  let pas := (flat f.far).map fun a => if h = r.lcn then a else s.relocate h a
  let s := s.performRead (Party.remote lcn f.ctx h) (remoteSpots r 0 pas)
  (pas.map s.byteAt, s)

/-- The data of an XGET, or part of it, written at its local destination. -/
def State.getLand (s : State) (lcn : Nat) (f : Fp) (dst : Word) (part : Option Nat) (bs : List Byte) : State :=
  let pas := flat f.wr
  let cells := cut part ((pas.zip bs).zip (spotsFrom dst.toNat pas))
  s.performWrite (Party.own lcn f.ctx) (cells.map (·.1)) (cells.map (·.2))

/-- An XGET that ends early writes part of its data (R281). -/
def State.getPart (s : State) (lcn : Nat) (f : Fp) (r : Remote) (dst : Word) (t : Nat) : State :=
  let (bs, s) := s.getBytes lcn f r r.lcn
  s.getLand lcn f dst (some t) bs

/-- XCAS at its home: the old value (R302). -/
def State.casAt (s : State) (lcn : Nat) (f : Fp) (r : Remote) (ty : BitVec 2) (e v : Word) : Word × State :=
  match flat f.far with
  | [] => (0, s)
  | pa :: _ =>
    let one := fun (s : State) (h : Nat) =>
      s.amoAt (Party.remote lcn f.ctx h) 2 (tySize ty) v.toNat e.toNat none (if h = r.lcn then pa else s.relocate h pa)
    let (old, t) := one s r.lcn
    let t := match s.shadowCore r.lcn with | some h => if s.relocate h pa = pa then t else (one t h).2 | none => t
    (if ty = 0 then sextTo 32 (BitVec.ofNat 64 old) else BitVec.ofNat 64 old, t)

/-- First byte of a core's arrival queue and its number of slots, where it is enabled and lies wholly in the own dome (R304). -/
def Core.arrivalQueue (c : Core) : Option (Nat × Nat) :=
  let q := c.reg 0x108
  let base := bits q 12 36 * 4096
  let n := bits q 0 8 + 1
  if bit q 63 && (0x8000000 ≤ base && base + 64 * n ≤ 0xC000000) then some (base, n) else none

/-- A task record is accepted by a core's arrival queue, or refused (R304). -/
def State.taskAt (s : State) (lcn k h : Nat) (record : List Byte) : Bool × State :=
  let c := s.coreAt h
  let st := c.reg 0x109
  match c.arrivalQueue with
  | none => (false, s)
  | some (base, n) =>
    if n ≤ bits st 8 9 then (false, s)
    else
      let a := base + 64 * ((bits st 0 8 + bits st 8 9) % n)
      match s.viewPA h a with
      | none => (false, s)
      | some pa =>
        let pas := (List.range 64).map (pa + ·)
        let s := s.performWrite (Party.remote lcn k h) (pas.zip record) (spotsAt pa 64)
        (true, s.updCoreAt h fun c =>
          c.setReg 0x109 (withBits (withBits st 17 9 (bits st 17 9 + 1)) 8 9 (bits st 8 9 + 1)))

/-- The 64 bytes that arrive for an XTASK: the sender and its sstep, and bytes 8 to 63 of its record (R304). -/
def State.taskRecord (s : State) (lcn : Nat) (f : Fp) (record : Word) : List Byte × State :=
  let pas := flat f.rd
  let s := s.performRead (Party.own lcn f.ctx) (spotsFrom record.toNat pas)
  (leBytes 8 (s.lcnShown lcn + (s.domOf lcn).sstep % 2 ^ 48 * 2 ^ 16) ++ (pas.map s.byteAt).drop 8, s)

/-! ## Beginning and arrivals -/

/-- A release waits for everything that a FENCE.R would, and for the tasks of its context (R265, R268). -/
def Core.releaseHeld (c : Core) (f : Fp) : Bool :=
  f.rel && (c.sb.any (fun e => e.ctx == f.ctx && e.seq ≤ f.after) ||
    (c.pend.stores.any (fun t => t.ctx == f.ctx && t.seq ≤ f.after) ||
    ((f.ctx == 0 && c.mat.queue.any (fun o => o.seq ≤ f.after)) ||
    (olderThan f.id c.fps).any fun o => o.ctx == f.ctx && match o.op with
      | .sbind _ => false
      | .xcomb _ _ _ _ => false
      | _ => true)))

/-- The traffic class in which a transfer is injected (R374). -/
def EngineOp.cls (op : EngineOp) : Nat :=
  match op with
  | .xget _ _ _ => clsRequest
  | .xcas _ _ _ _ => clsRequest
  | _ => clsBulk

/-- The payload bytes of the packet that begins a transfer (R373); those of an XPUT follow one by one. -/
def EngineOp.payload (op : EngineOp) : Nat :=
  match op with
  | .xcas _ ty _ _ => 2 * tySize ty
  | .xflag _ _ => 8
  | .xtask _ _ => 64
  | _ => 0

/-- The leg of a transfer's packets read, its first packet injected; an XPUT's are injected as they arrive. -/
def State.injectFirst (s : State) (lcn : Nat) (f : Fp) (way : Route) (dst : Nat) : State :=
  let (leg, s) := match f.op with
    | .xput _ _ _ => s.newLeg way f.op.cls (towerOf lcn) dst
    | op => s.injectPacket lcn way op.cls dst op.payload
  s.updFp lcn f.id fun f => { f with stage := .begun, leg := leg }

/-- An exchange transfer is injected: steps 1 and 2 of R296, with a route for the response that lets its token be written (R374,
R375; DEDUCED, log entry 91), the issuer's overlapping lines first; a combining atomic enters its line (R271, R301). -/
def State.inject (s : State) (lcn : Nat) (f : Fp) (r : Remote) : State :=
  let fail := fun stat reason addr =>
    s.updFp lcn f.id fun f => f.failed { stat := stat, reason := reason, addr := addr }
  let src := towerOf (s.lcnShown lcn)
  let dst := towerOf r.lcn
  let way := s.routeFor lcn f.op.cls dst
  match way with
  | .retired => fail 1 16 f.op.target
  | .unreachable => fail 7 14 r.lcn
  | _ =>
    match f.op with
    | .xcomb r op ty v =>
      match flat f.far with
      | pa :: _ => (s.enterLine lcn r pa op ty v).updFp lcn f.id fun f => f.done (BitVec.ofNat 64 (tySize ty))
      | [] => s
    | _ => if !s.reaches clsResponse dst src then fail 7 14 r.lcn else (s.sendOverlap lcn f.touched).injectFirst lcn f way dst

/-- ENGINE_TRANSFER_BEGIN (R285): an accepted transfer begins its accesses once nothing holds it; one of the copy or fill engine
that has begun moves its bytes. -/
def execEngineTransferBegin (lcn id : Nat) (s : State) : Out :=
  match s.fp? lcn id with
  | none => .next s
  | some f =>
    if !(s.coreAt lcn).enginesRun then .next s
    else
      match f.stage with
      | .accepted =>
        if s.engineHeld lcn f || (s.coreAt lcn).releaseHeld f then .next s
        else
          match f.op.remote? with
          | some r => .next (s.inject lcn f r)
          | none => .next (s.updFp lcn id fun f => { f with stage := .begun })
      | .begun => .next (if f.op.remote?.isSome then s else s.moveBytes lcn f)
      | _ => .next s

/-! ## Combining lines on their way (R271, R303, R327) -/

/-- The bytes of a combining line that the hash covers. -/
def CombLine.hashed (l : CombLine) : List Byte :=
  leBytes 8 l.home ++ (leBytes 2 l.target.toNat ++ (leBytes 2 l.gen.toNat ++ (leBytes 1 l.op.toNat ++ (leBytes 1 l.ty.toNat ++
    l.words.flatMap fun w => leBytes 2 w.1 ++ leBytes 8 w.2.toNat))))

/-- A sent line reaches the home's stage, and its copy the stage of the target's shadow (R271, R327). -/
def State.stageLine (s : State) (l : SentLine) : State :=
  let here := { l with arrived := true, line := { l.line with home := s.homeOf l.line.home } }
  let copy : List SentLine := match s.shadowCore l.line.target.toNat with
    | some h =>
      if s.relocate h l.line.home = l.line.home then []
      else [{ here with line := { l.line with home := s.relocate h l.line.home, target := BitVec.ofNat 12 h } }]
    | none => []
  { s with arb := { s.arb with sent := s.arb.sent.filter (· ≠ l) ++ (here :: copy) } }

/-- A line that reaches the home's tower is staged there, or is lost: its waypoint does not open (R375), or the tower does not
serve (R275, R303). -/
def State.landLine (s : State) (l : SentLine) : State :=
  let dst := towerOf l.line.target.toNat
  let gone := { s with arb := { s.arb with sent := s.arb.sent.filter (· ≠ l) } }
  if l.leg.any fun g => g.relay && !s.wayOpen g.dst dst then gone.lineFailed l.lcn 7 14 l.line.home
  else if !s.towerServes dst then gone.lineFailed l.lcn 1 16 l.line.home
  else s.stageLine l

/-- A twin mismatch of a primary core (R328), and an uncorrectable error (R324), reported: uerec of the core, and the gang's report
to the phase arbiter. -/
def State.reportError (s : State) (lcn k : Nat) (src : BitVec 3) (pa : Nat) : State :=
  let s := s.updCoreAt lcn fun c => c.setReg 0x187 (BitVec.ofNat 64 (2 ^ 63 + src.toNat * 2 ^ 60 + pa % 2 ^ 56))
  s.updGang (s.coreAt lcn).mem.gang fun g =>
    if g.gr.report.isSome then g
    else { g with gr := { g.gr with report := some (lcn, k, src, BitVec.ofNat 56 pa) } }

/-- A twin mismatch of a primary core (R328). -/
def State.twinMismatch (s : State) (lcn k : Nat) : State :=
  (s.updGang (s.coreAt lcn).mem.gang fun g => { g with gr := { g.gr with tmis := g.gr.tmis + 1 } }).reportError lcn k 3 0

/-- A sent line arrives: alone, or with its shadow's hash packet where the sender is twinned; a shadow's own waits. -/
def State.lineArrives (s : State) (l : SentLine) : State :=
  if l.arrived then s
  else if !s.twinned l.lcn then s.landLine l
  else
    match s.shadowCore l.lcn with
    | none => s
    | some h =>
      match s.arb.sent.find? (fun x => x.lcn == h && (x.seq == l.seq && !x.arrived)) with
      | none => s
      | some x =>
        let t := { s with arb := { s.arb with sent := s.arb.sent.filter (· ≠ x) } }
        if crc64 l.line.hashed = crc64 x.line.hashed then t.landLine l
        else { t with arb := { t.arb with sent := t.arb.sent.filter (· ≠ l) } }.twinMismatch l.lcn 0

/-- COMBINING_LINE_ARRIVAL (R271): sent partials arrive at the home's stage, in the order of their injection, and are held there,
unapplied. -/
def execCombiningLineArrival (n : Nat) (s : State) : Out :=
  match (s.arb.sent.drop n).head? with
  | some l => .next (if s.legAhead l.leg then s else s.lineArrives l)
  | none => .next s

/-- The issuer's sent lines that an access of its overlaps arrive before it performs (R271). -/
def State.linesFirst (s : State) (lcn : Nat) (rs : List (Nat × Nat)) : State :=
  (s.arb.sent.filter fun l => l.lcn == lcn && (!l.arrived && s.lineMeets l.line rs)).foldl State.lineArrives s

/-! ## Arrivals -/

/-- The ring's part of an arrival: the packet to the target core, its response, and that to the issuer (R368). -/
def State.ringArrival (s : State) (lcn : Nat) (f : Fp) (r : Remote) : State :=
  if f.leg.isNone then s
  else
    let src := towerOf lcn
    let dst := towerOf r.lcn
    let back := match s.route clsResponse dst src with | .direct yx => yx | .relay _ yx => yx | _ => false
    ((s.ringIn r.lcn (s.meshIn f.op.cls src dst)).ringOut r.lcn back).ringIn lcn (s.meshIn clsResponse dst src)

/-- A transfer of a core is injected, past its waypoint, and the next to arrive of those whose order is fixed (R373); its core's
exchange work is not suspended. -/
def State.arrivable (s : State) (lcn : Nat) (f : Fp) : Bool :=
  s.exchangeRuns lcn && (f.going && (!f.leg.any (·.relay) && (s.twinned lcn || match f.op with
    | .xput _ _ _ => true
    | _ => !s.legAhead f.leg)))

/-- A transfer of an untwinned core arrives: steps 3 and 4 of R296, then it performs. -/
def State.inFlight (s : State) (lcn id : Nat) (go : State → Fp → Remote → State) : Out :=
  match s.fp? lcn id with
  | none => .next s
  | some f =>
    match f.op.remote? with
    | none => .next s
    | some r =>
      if !s.arrivable lcn f || s.twinned lcn then .next s
      else
        match s.meetTarget f r with
        | some e => .next (s.updFp lcn id (·.failed e))
        | none => .next (go ((s.linesFirst lcn f.touched).ringArrival lcn f r) f r)

/-- A packet has performed; with the last one the transfer ends. -/
def Fp.packetDone (f : Fp) (n p : Nat) : Fp :=
  let f := { f with packets := p :: f.packets }
  if packetsOf n ≤ f.packets.length then f.done (BitVec.ofNat 64 n) else f

/-- The remote bytes of a transfer that the host refuses, or whose link is down; for an XPUT, those of one packet. -/
def State.remoteRefused (s : State) (f : Fp) (r : Remote) (p : Option Nat) : Option Failure :=
  match p with
  | some p => s.refusedAt (r.at + 1024 * p) (((flat f.far).drop (1024 * p)).take 1024)
  | none => s.refusedAt r.at (flat f.far)

/-- A packet of an XPUT with its bytes performs, or meets a refusal: what becomes of the transfer, and the state. -/
def State.putArrives (s : State) (lcn : Nat) (f : Fp) (r : Remote) (n p : Nat) (bs : List Byte) : (Fp → Fp) × State :=
  match s.remoteRefused f r (some p) with
  | some e => ((·.failed e), s)
  | none => ((·.packetDone n p), s.putPacket lcn f r p bs)

/-- XPUT_PACKET_ARRIVAL (R297): a packet is injected and performs at its remote home, once. -/
def execXputPacketArrival (lcn id packet : Nat) (s : State) : Out :=
  s.inFlight lcn id fun s f _ =>
    match f.op with
    | .xput r src n =>
      if packetsOf n ≤ packet ∨ f.packets.any (· == packet) = true then s
      else
        let (bs, s) := (s.notePacket lcn f n packet).packetBytes lcn f src packet
        let (u, s) := s.putArrives lcn f r n packet bs
        s.updFp lcn id u
    | _ => s

/-- The data of an XGET for its issuer: none where the target is twinned and its twins' data differ (R327). -/
def State.getData (s : State) (lcn : Nat) (f : Fp) (r : Remote) : Option (List Byte) × State :=
  let (bs, s) := s.getBytes lcn f r r.lcn
  match s.shadowCore r.lcn with
  | none => (some bs, s)
  | some t =>
    let (ds, s) := s.getBytes lcn f r t
    if crc64 bs = crc64 ds then (some bs, s) else (none, s.twinMismatch r.lcn 0)

/-- XGET_REQUEST_ARRIVAL (R297): the data is read at the remote home and performs at the local destination. -/
def execXgetRequestArrival (lcn id : Nat) (s : State) : Out :=
  s.inFlight lcn id fun s f r =>
    match f.op with
    | .xget _ dst n =>
      match s.remoteRefused f r none with
      | some e => ((s.getPart lcn f r dst s.tick).updFp lcn id (·.failed e)).fresh.2
      | none =>
        match s.getData lcn f r with
        | (some bs, s) => (s.getLand lcn f dst none bs).updFp lcn id (·.done (BitVec.ofNat 64 n))
        | (none, s) => s.updFp lcn id fun f => { f with stage := .lost 0 }
    | _ => s

/-- XCAS_ARRIVAL (R302). -/
def execXcasArrival (lcn id : Nat) (s : State) : Out :=
  s.inFlight lcn id fun s f r =>
    match f.op with
    | .xcas _ ty e v =>
      let (old, s) := s.casAt lcn f r ty e v
      s.updFp lcn id (·.done old)
    | _ => s

/-- XFLAG_ARRIVAL (R300): never counted. -/
def execXflagArrival (lcn id : Nat) (s : State) : Out :=
  s.inFlight lcn id fun s f r =>
    match f.op with
    | .xflag _ v => (s.landBytes lcn f.ctx r 0 none ((flat f.far).zip (leBytes 8 v.toNat))).updFp lcn id (·.done 8)
    | _ => s

/-- The final state of an XTASK: accepted at every home, or refused with REASON 11. -/
def State.taskAll (s : State) (lcn : Nat) (f : Fp) (r : Remote) (record : List Byte) : Option Failure × State :=
  let (ok, t) := s.taskAt lcn f.ctx r.lcn record
  if !ok then (some { stat := 3, reason := 11, addr := r.lcn }, s)
  else (none, match s.shadowCore r.lcn with | some h => (t.taskAt lcn f.ctx h record).2 | none => t)

/-- What an XTASK's token receives. -/
def Fp.taskEnd (e : Option Failure) (f : Fp) : Fp := match e with | some e => f.failed e | none => f.done 64

/-- TASK_ARRIVAL (R304). -/
def execTaskArrival (lcn id : Nat) (s : State) : Out :=
  s.inFlight lcn id fun s f r =>
    match f.op with
    | .xtask _ record =>
      let (bs, s) := s.taskRecord lcn f record
      let (e, s) := s.taskAll lcn f r bs
      s.updFp lcn id (Fp.taskEnd e)
    | _ => s

/-- RELAY_REINJECT (R375): the waypoint re-injects the packet in class 3 on the mesh of its own entry, or the transfer ends with
−7. -/
def execRelayReinject (lcn id : Nat) (s : State) : Out :=
  match s.fp? lcn id with
  | none => .next s
  | some f =>
    match f.op.remote?, f.leg with
    | some r, some l =>
      let dst := towerOf r.lcn
      let late := match f.op with | .xput _ _ _ => false | _ => s.legAhead f.leg
      if !f.going || (!l.relay || (!s.exchangeRuns lcn || late)) then .next s
      else if !s.wayOpen l.dst dst then .next (s.updFp lcn id (·.failed { stat := 7, reason := 14, addr := r.lcn }))
      else
        let (leg, s) := s.newLeg (.direct (nsCode (s.nsEntry l.dst clsRelay dst) == 1)) clsRelay l.dst dst
        .next (s.updFp lcn id fun f => { f with leg := leg })
    | _, _ => .next s

/-! ## Twin pairs (R327, R328) -/

/-- The entry of the other twin that stands for an entry: that of the same engine instruction of the same context. -/
def State.twinFp (s : State) (h : Nat) (f : Fp) : Option Fp :=
  (s.coreAt h).fps.find? fun g => g.ctx == f.ctx && (g.nth == f.nth && g.op.remote?.isSome)

/-- Header fields of a packet, as the hash covers them: what it is, its capability, address and size (R327). -/
def EngineOp.header (op : EngineOp) (p : Nat) : List Byte :=
  let rem := fun (code : Nat) (r : Remote) => leBytes 1 code ++ (leBytes 8 r.cap.toNat ++ leBytes 8 r.addr.toNat)
  match op with
  | .xput r _ n => rem 0 r ++ (leBytes 8 n ++ leBytes 8 p)
  | .xget r _ n => rem 1 r ++ leBytes 8 n
  | .xcas r ty e v => rem (16 + ty.toNat) r ++ (leBytes 8 e.toNat ++ leBytes 8 v.toNat)
  | .xflag r v => rem 2 r ++ leBytes 8 v.toNat
  | .xtask r _ => rem 3 r
  | _ => []

/-- The payload of a transfer's packet read from local memory. -/
def State.payloadOf (s : State) (lcn : Nat) (f : Fp) (p : Nat) : List Byte × State :=
  match f.op with
  | .xput _ src n => (s.notePacket lcn f n p).packetBytes lcn f src p
  | .xtask _ record => s.taskRecord lcn f record
  | _ => ([], s)

/-- The packet that goes next: the first of an XPUT that has not performed. -/
def Fp.nextPacket (f : Fp) : Nat :=
  match f.op with
  | .xput _ _ n => ((List.range (packetsOf n)).find? fun p => !f.packets.any (· == p)).getD 0
  | _ => 0

/-- A matched packet performs once: what becomes of both transfers, and the state. -/
def State.performPair (s : State) (lcn h : Nat) (f g : Fp) (r : Remote) (p : Nat) (bs : List Byte) : (Fp → Fp) × State :=
  match f.op, g.op with
  | .xput _ _ n, _ => s.putArrives lcn f r n p bs
  | .xget _ dst n, .xget _ dst' _ =>
    match s.remoteRefused f r none with
    | some e => ((·.failed e), s)
    | none =>
      match s.getData lcn f r with
      | (none, s) => ((fun f => { f with stage := .lost 0 }), s)
      | (some bs, s) => ((·.done (BitVec.ofNat 64 n)), (s.getLand lcn f dst none bs).getLand h g dst' none bs)
  | .xcas _ ty e v, _ =>
    let (old, s) := s.casAt lcn f r ty e v
    ((·.done old), s)
  | .xflag _ v, _ => ((·.done 8), s.landBytes lcn f.ctx r 0 none ((flat f.far).zip (leBytes 8 v.toNat)))
  | .xtask _ _, _ =>
    let (e, s) := s.taskAll lcn f r bs
    (Fp.taskEnd e, s)
  | _, _ => (id, s)

/-- TWIN_PAIR_MATCH (R327, R328): a twinned core's packet and its shadow's hash packet have both arrived. They meet the target
together; with equal hashes the packet performs once, otherwise it is a twin mismatch. -/
def execTwinPairMatch (lcn id : Nat) (s : State) : Out :=
  match s.shadowCore lcn, s.fp? lcn id with
  | some h, some f =>
    match s.twinFp h f, f.op.remote? with
    | some g, some r =>
      if !s.arrivable lcn f || !s.arrivable h g then .next s
      else
        let both := fun (s : State) (u : Fp → Fp) => (s.updFp lcn id u).updFp h g.id u
        match s.meetTarget f r with
        | some e => .next (both s (·.failed e))
        | none =>
          let p := f.nextPacket
          let s := ((s.linesFirst lcn f.touched).linesFirst h g.touched).ringArrival lcn f r
          let (bs, s) := s.payloadOf lcn f p
          let (ds, s) := s.payloadOf h g p
          if crc64 (f.op.header p ++ bs) = crc64 (g.op.header p ++ ds) then
            let (u, s) := s.performPair lcn h f g r p bs
            .next (both s u)
          else .next ((both s fun f => { f with stage := .lost 0 }).twinMismatch lcn f.ctx)
    | _, _ => .next s
  | _, _ => .next s

/-! ## Transfers that end early (R281, R324) -/

/-- A transfer under way writes part of what it would have written before it ends early. -/
def State.partTransfer (s : State) (lcn : Nat) (f : Fp) : State :=
  let (t, s) := s.fresh
  if !f.going then s
  else
    match f.op with
    | .xget r dst _ => if f.leg.any (·.relay) then s else s.getPart lcn f r dst t
    | .xput _ _ _ => s
    | _ => s.moveLocal lcn f (some t)

/-- Transfers of a core that a test picks end with −6, part of their words written (R140, R149, R281). -/
def State.endFps (s : State) (lcn : Nat) (p : Fp → Bool) : State :=
  (((s.coreAt lcn).fps.filter p).foldl (fun s f => s.partTransfer lcn f) s).abortFps lcn p

end Sys2Proof.Machine
end

