-- ==== Sys2Proof/Machine/Record.lean ====
section
/-!
DEFINITION. The context record of a core (R319, R335): as it is written into checkpoints, context areas and dumps, and as it
is loaded by rollback and restore; the checkpoint (R322).
-/

namespace Sys2Proof.Machine

/-! ## Writing -/

/-- Nonzero bytes of a segment at an offset. -/
def seg (off : Nat) (bs : List Byte) : Tab Byte := Tab.sparse 0 off bs

/-- Eight-byte words at an offset. -/
def segWords (off : Nat) (ws : List Nat) : Tab Byte := seg off (ws.flatMap (leBytes 8))

/-- A register belongs to a context's own state. -/
def perContext (n : Nat) : Bool := match srRow n with | some r => r.context || r.control | none => false

/-- Registers of 0x100 to 0x1FF that the core holds: gang, tower, module and partition registers are not among them. -/
def heldByCore (n : Nat) : Bool :=
  !(n == 0x16D || (n == 0x180 || (n == 0x181 || (n == 0x182 || (n == 0x186 || (n == 0x190 || (n == 0x191 || (n == 0x193 ||
    (n == 0x196 || (n == 0x197 || (0x1A0 ≤ n && n ≤ 0x1A7)))))))))))

/-- Register n as the record holds it. -/
def State.recordReg (s : State) (lcn : Nat) (idle : Bool) (n : Nat) : Nat :=
  if (srRow n).isNone || (idle && perContext n) || (0x100 ≤ n && !heldByCore n) then 0
  else (s.srRead lcn 0 n true).toNat

/-- Code of a context's state: a STOPPED or FREE context is 0. -/
def CtxSt.code (x : CtxSt) : Nat :=
  match x with
  | .free => 0
  | .running => 1
  | .blocked => 2
  | .suspended => 3
  | .stopped => 0

/-- A helper's 512 bytes. -/
def State.helperSeg (s : State) (lcn h : Nat) : Tab Byte :=
  let x := ((s.coreAt lcn).ctx h).beforePair
  let off := 0x2000 + 512 * (h - 1)
  if x.st = .free then []
  else
    segWords off (((List.range 32).map fun r => (x.gr (BitVec.ofNat 5 r)).toNat) ++
      ([x.pc.toNat, x.priv.toNat] ++
        ([0x07A, 0x07B, 0x07C, 0x07D, 0x07E, 0x07F, 0x001, 0x002, 0x003, 0x041, 0x082, 0x083, 0x084, 0x085].map fun n =>
          (s.srRead lcn h n true).toNat)))

/-- A phaser's 64 bytes for a core. -/
def Phaser.seg (p : Phaser) (n lcn : Nat) : Tab Byte :=
  let byte := fun k => match p.members.find? (fun m => m.lcn == lcn && m.k == k) with
    | some m => (m.mode + 1) % 4 + (m.sigma - p.p) % 2 * 4 + (m.w + 1 - p.p) % 4 * 8
    | none => 0
  Machine.seg (0xF800 + 64 * n) (leBytes 8 p.p ++ (List.range 11).map fun k => BitVec.ofNat 8 (byte k))

/-- Entry e of the store-buffer listing (R335): DISC marks the entries younger than a queued store-fault record. -/
def Core.listSeg (c : Core) (e : Nat) (x : SbEntry) : Tab Byte :=
  let disc := c.sfq.any fun r => r.seq < x.seq
  let blocked := e == 0 && (Tab.find? c.mail 11).isSome
  seg (0xD000 + 320 * e)
    (leBytes 8 x.ea.toNat ++ (leBytes 2 x.size ++ (leBytes 1 x.ctx ++ (leBytes 1 x.kind ++ (leBytes 2 x.asid.toNat ++
      (leBytes 1 (1 + 2 * b2n disc + 4 * b2n blocked) ++ (zeros 17 ++ (leBytes 32 x.mask.toNat ++ leBytes 256 x.data.toNat))))))))

/-- The pending imprecise causes of a core, one bit per cause. -/
def Core.pendingMask (c : Core) : Nat :=
  c.pend.causes.foldl (fun a e => a + 2 ^ e.1) (if c.pend.stores.isEmpty then 0 else 2 ^ 6)

/-- The position of the next pop of a stream: the binder has read ahead of it by the ready vectors (R319). -/
def Stream.position (x : Stream) : Nat := x.tile * x.td.rows + x.row - x.ready.length

/-- The context record of a core: its nonzero bytes by offset, ascending. `listing` includes the store-buffer listing. A context
whose hinted instruction has not been issued stands before its hints (DEDUCED, log entry 72). -/
def State.contextRecord (s : State) (lcn : Nat) (listing : Bool) : Tab Byte :=
  let c := s.coreAt lcn
  let x := (c.ctx 0).beforePair
  let idle : Bool := !x.live
  let t := s.towerAt (towerOf lcn)
  segWords 0 [s.lcnShown lcn, (s.domOf lcn).sstep, c.pendingMask,
    (List.range 11).foldl (fun a k => a + (c.ctx k).st.code * 16 ^ k) 0] ++
  (segWords 0x1000 (if idle then [] else (List.range 32).map (fun r => (x.gr (BitVec.ofNat 5 r)).toNat) ++ [x.pc.toNat]) ++
  (segWords 0x1800 ((List.range 256).map (s.recordReg lcn idle)) ++
  ((List.range 10).flatMap (fun j => s.helperSeg lcn (j + 1)) ++
  (seg 0x4000 ((List.range 32).flatMap fun i => leBytes 256 (Tab.get VReg.zero c.vec.v i).data.toNat) ++
  (seg 0x6000 ((List.range 8).flatMap fun i => leBytes 256 (Tab.get VReg.zero c.vec.q i).data.toNat) ++
  (seg 0x6800 (leBytes 256 c.vec.h0.data.toNat ++ leBytes 256 c.vec.h1.data.toNat) ++
  (seg 0x6A00 ((List.range 7).flatMap fun i => leBytes 32 (Tab.get 0 c.vec.m (i + 1)).toNat) ++
  (c.mat.code.map (fun e => (e.1 + 0x8000, e.2)) ++
  (segWords 0xC000 ((List.range 256).map fun j => s.recordReg lcn idle (0x100 + j)) ++
  ((List.range 8).flatMap (fun q => segWords (0xC800 + 128 * q) ((Tab.get [] c.hq q).map (·.toNat))) ++
  (c.streams.flatMap (fun e => seg (0xCC00 + 64 * e.1) e.2.record) ++
  (c.streams.flatMap (fun e => segWords (0xCD00 + 16 * e.1) [e.2.position / e.2.td.rows, e.2.position % e.2.td.rows]) ++
  (segWords 0xCE00 (c.sfq.flatMap fun r => [r.va.toNat, r.data.toNat, r.info.toNat, r.pc.toNat, r.grp.toNat, r.ss.toNat]) ++
  ((if listing then c.sb.zipIdx.flatMap fun e => c.listSeg e.2 e.1 else []) ++
  (t.phasers.flatMap (fun e => e.2.seg e.1 lcn) ++
  c.mat.el.flatMap (fun e => seg (0x10000 + 4 * e.1) (leBytes 4 e.2.toNat)))))))))))))))))

/-- Bytes placed in memory at consecutive homes from `pa`: those listed, and zeros. They are neither journalled nor watched; a
registration of their pages is removed (R417). -/
def State.putSparse (s : State) (pa len : Nat) (cells : Tab Byte) : State :=
  let s := s.deregister ((List.range (pagesOf pa len)).map (pa / 2 ^ 18 + ·))
  if s.fab.migs.isEmpty then
    { s with mem := s.mem.filter (fun e => e.1 < pa) ++ ((Tab.rising 0 len 0 cells).map (fun e => (pa + e.1, e.2)) ++
        s.mem.filter fun e => pa + len ≤ e.1) }
  else (List.range len).foldl (fun s i => s.putByte (pa + i) (Tab.get 0 cells i)) s

/-- The checkpoint of a core (R322): its context record as it stands, where its journal is on. The scales and rounding modes of its
streams are kept beside it (DEDUCED, log entry 85). -/
def State.writeCheckpoint (s : State) (lcn : Nat) : State :=
  let c := s.coreAt lcn
  match if c.journalOn then s.viewPA lcn c.journalBase else none with
  | some pa => (s.putSparse pa 0x20000 (s.contextRecord lcn false)).updCoreAt lcn fun c => { c with kept := c.streams }
  | none => s

/-! ## Loading -/

/-- A number of n bytes at an offset of a record. -/
def recNat (r : List Byte) (off n : Nat) : Nat := ofLeBytes ((r.drop off).take n)

/-- An 8-byte word at an offset. -/
def recWord (r : List Byte) (off : Nat) : Word := BitVec.ofNat 64 (recNat r off 8)

/-- Register n of a record. -/
def recReg (r : List Byte) (n : Nat) : Word :=
  if n < 0x100 then recWord r (0x1800 + 8 * n) else recWord r (0xC000 + 8 * (n - 0x100))

/-- General registers from an offset. -/
def recG (r : List Byte) (off : Nat) : Tab Word :=
  (List.range 32).foldl (fun t i => if i = 0 then t else Tab.set 0 t i (recWord r (off + 8 * i))) []

/-- Context states from their codes. -/
def stOfCode (control : Bool) (n : Nat) : CtxSt :=
  match n with
  | 1 => .running
  | 2 => .blocked
  | 3 => .suspended
  | _ => if control then .stopped else .free

/-- Register n from its value in a record: reserved fields are not loaded, and a saved level is group or supervisor (R17). -/
def recRaw (n : Nat) (v : Word) : Word :=
  let w := match srRow n with | some r => v &&& r.shown | none => v
  if n = 0x00C then withBits w 9 1 0 else if n = 0x046 then withBits w 49 1 0 else w

/-- A pc of a record: a multiple of 4 (R12). -/
def recPc (w : Word) : BitVec 48 := BitVec.ofNat 48 (bits w 2 46 * 4)

/-- A level of a record: a compute core's contexts run at group or supervisor level (R17). -/
def recLevel (w : Word) : BitVec 2 := BitVec.ofNat 2 (bits w 0 1)

/-- The per-context registers that stand raw. -/
def rawCtxRegs : List Nat := [0x001, 0x002, 0x041, 0x07A, 0x07B, 0x07C, 0x07D, 0x07E, 0x07F, 0x082, 0x083, 0x084, 0x085]

/-- The control context of a record. -/
def recControl (r : List Byte) (clock : Nat) : Ctx :=
  let st := stOfCode true (recNat r 0x18 8 % 16)
  let x := Ctx.empty st
  { x with
    pc := recPc (recWord r 0x1100), priv := recLevel (recReg r 0x000), g := recG r 0x1000
    sr := rawCtxRegs.foldl (fun t n => Tab.set 0 t n (recRaw n (recReg r n))) []
    liveBefore := (recReg r 0x003).toNat, liveFrom := clock }

/-- Helper h of a record. -/
def recHelper (r : List Byte) (clock h : Nat) : Ctx :=
  let off := 0x2000 + 512 * (h - 1)
  let st := stOfCode false (recNat r 0x18 8 / 16 ^ h % 16)
  if st = .free then Ctx.empty .free
  else
    let at' := fun d => recWord r (off + d)
    { Ctx.empty st with
      pc := recPc (at' 0x100), priv := recLevel (at' 0x108), g := recG r off
      sr := [(0x07A, 0x110), (0x07B, 0x118), (0x07C, 0x120), (0x07D, 0x128), (0x07E, 0x130), (0x07F, 0x138), (0x001, 0x140),
             (0x002, 0x148), (0x041, 0x158), (0x082, 0x160), (0x083, 0x168), (0x084, 0x170), (0x085, 0x178)].foldl
               (fun t e => Tab.set 0 t e.1 (recRaw e.1 (at' e.2))) []
      liveBefore := (at' 0x150).toNat, liveFrom := clock }

/-- The registers of a core that a load of a record writes raw. uerec is left by a rollback (R325). -/
def rawCoreRegs (rollback : Bool) : List Nat :=
  [0x008, 0x009, 0x00A, 0x00B, 0x00C, 0x010, 0x011, 0x012, 0x013, 0x043, 0x046, 0x048, 0x049, 0x04A, 0x04B, 0x080, 0x081, 0x086,
   0x08F, 0x0C2, 0x0C3, 0x0C8] ++
  ((List.range 48).map (0x0CA + ·)).filter (fun n => (srRow n).isSome && n != 0x0FF) ++
  [0x101, 0x102, 0x108, 0x109, 0x120] ++ ((List.range 16).map (0x110 + ·) ++
  (((List.range 48).map (0x140 + ·)).filter (fun n => (srRow n).isSome && n != 0x16D) ++
  [0x183, 0x184, 0x185, 0x192, 0x195] ++ (if rollback then [] else [0x187])))

/-- A register of n bytes with a domain code from a field of two bits per register. -/
def recVReg (r : List Byte) (off : Nat) (codes : Word) (i : Nat) : VReg :=
  { data := BitVec.ofNat 2048 (recNat r off 256), dom := BitVec.ofNat 2 (bits codes (2 * i) 2) }

/-- The vector state of a record. -/
def recVec (r : List Byte) : VecState :=
  let d := recReg r 0x0C0
  let e := recReg r 0x0C1
  { v := (List.range 32).foldl (fun t i => Tab.set VReg.zero t i (recVReg r (0x4000 + 256 * i) d i)) []
    q := (List.range 8).foldl (fun t i => Tab.set VReg.zero t i (recVReg r (0x6000 + 256 * i) e i)) []
    h0 := recVReg r 0x6800 e 8, h1 := recVReg r 0x6900 e 9
    m := (List.range 7).foldl (fun t i => Tab.set 0 t (i + 1) (BitVec.ofNat 256 (recNat r (0x6A00 + 32 * i) 32))) [] }

/-- Consecutive numbers of n bytes. -/
def leChunks (n : Nat) : Nat → List Byte → List Nat
  | 0, _ => []
  | k + 1, bs => ofLeBytes (bs.take n) :: leChunks n k (bs.drop n)

/-- The matrix state of a record. -/
def recMat (r : List Byte) (rem : Int) : MatState :=
  { el := Tab.sparse 0 0 ((leChunks 4 16384 ((r.drop 0x10000).take 65536)).map (BitVec.ofNat 32 ·))
    tag := (List.range 4).foldl (fun t k => Tab.set 0 t k (BitVec.ofNat 16 (bits (recReg r (0x0C4 + k)) 16 16))) []
    kc := (List.range 4).foldl (fun t k => Tab.set 0 t k (BitVec.ofNat 10 (bits (recReg r (0x0C4 + k)) 0 10))) []
    code := Tab.sparse 0 0 ((r.drop 0x8000).take 16384)
    codeFmt := BitVec.ofNat 8 (recReg r 0x0C9).toNat, queue := [], rem := rem, winAt := (recReg r 0x003).toNat }

/-- A bound stream of a record (R224, R293). The record holds neither the scales nor the rounding mode that the binder took: they are
those kept for the stream where its binding is still the one bound then; otherwise the scales are copied again from the own
scratchpad, and the mode is left open (DEDUCED, log entry 85). -/
def State.recStream (s : State) (lcn : Nat) (r : List Byte) (kept : Option Stream) (k : Nat) : Option Stream :=
  if !bit (recReg r 0x104) (8 * k + 7) then none
  else
    let x : Stream :=
      { record := (r.drop (0xCC00 + 64 * k)).take 64, scale := [], rm := BitVec.ofNat 2 (Config.freeIndex s.tick),
        tile := recNat r (0xCD00 + 16 * k) 8, row := recNat r (0xCD08 + 16 * k) 8, ready := [],
        past := bit (recReg r 0x104) (8 * k + 6), olds := [] }
    match kept.filter fun y => y.record == x.record with
    | some y => some { x with scale := y.scale, rm := y.rm }
    | none =>
    some (if x.ops / 8 % 2 = 1 then
        { x with scale := (List.range 64).map fun j =>
            BitVec.ofNat 32 (ofLeBytes (s.bytesAt (s.scratchPA lcn (x.u 0x38 8 + 4 * j)) 4)) }
      else x)

/-- The store-fault records of a record. -/
def recSfq (r : List Byte) : List SfRec :=
  (List.range (bits (recReg r 0x088) 0 3)).map fun i =>
    let w := fun j => recWord r (0xCE00 + 48 * i + 8 * j)
    { va := w 0, data := w 1, info := w 2, pc := w 3, grp := w 4, ss := w 5, ctx := bits (w 2) 44 4, retired := 0, seq := 0 }

/-- tinfo of a cause that a record shows as pending, in the layout of R311: what the record does not tell is left open (log entry
21). -/
def State.recCause (s : State) (r : List Byte) (n : Nat) : Word :=
  let dmem := recReg r 0x048
  let f := (Config.freeWord (s.tick + n)).toNat
  match n with
  | 0x13 => recReg r 0x120 &&& 0xFFFF
  | 0x0D => recWord r 0x08 - 1
  | 0x0C =>
    let l := syncLevel dmem
    BitVec.ofNat 64 (l * 2 ^ 16 + domIdent dmem l * 2 ^ 8 + bits (recReg r 0x04C) 40 8)
  | 0x0E => BitVec.ofNat 64 (2 ^ 63 + f / 2 ^ 56 % 7 * 2 ^ 60 + f % 2 ^ 56)
  | 0x0F => BitVec.ofNat 64 (f % 2 ^ 51)
  | _ => BitVec.ofNat 64 (f % 2 ^ 48)

/-- The imbalance record that imbal0 to imbal3 of a record show (R123). -/
def recImbal (r : List Byte) : Imbal :=
  let w := recReg r 0x057
  { early := (recReg r 0x054).toNat, late := (recReg r 0x055).toNat, sum := (recReg r 0x056).toNat, k := bit w 63
    ncore := bits w 44 16, ss := bits w 12 32, last := bits w 0 12 }

/-- What a core's record says of its synchronising domain (R319): SCNT and OVR of dstat, sstep, gridc, the imbalance record. -/
def State.loadDomain (s : State) (lcn : Nat) (r : List Byte) : State :=
  s.updDom (s.coreAt lcn).domKey fun d =>
    let n := bits (recReg r 0x045) 0 48
    { d with sstep := recNat r 0x08 8, scnt := bits (recReg r 0x04C) 40 8, ovr := bit (recReg r 0x04C) 2, count := n, startCount := n
             record := recImbal r }

/-- A governor window starts where the record of a core is loaded (DESIGN CHOICE, log entry 9). -/
def Core.restartGovernor (c : Core) : Core :=
  let c := c.setReg mgovNow (c.reg 0x0C2)
  { c with mat := { c.mat with rem := ((c.governor.2 : Nat) : Int) + min c.mat.rem 0 } }

/-- A core's record loaded as its whole state (R319, R325, R331); `kept`, the streams as they stood when it was written. -/
def State.loadRecord (s : State) (lcn : Nat) (r : List Byte) (kept : Tab Stream) (rollback : Bool) : State :=
  let mask := recWord r 0x10
  let gst := recReg r 0x044
  let sfq := recSfq r
  let streams := (List.range 4).foldl (fun t k =>
    match s.recStream lcn r (Tab.find? kept k) k with | some x => Tab.put t k x | none => t) []
  let causes := ([0x0C, 0x0D, 0x0E, 0x0F, 0x12, 0x13].filter (bit mask ·)).map fun n => (n, s.recCause r n)
  let s := s.updCoreAt lcn fun c =>
    let ctxs := ((List.range 10).foldl (fun t j =>
      let x := recHelper r s.clock (j + 1)
      if x.st = .free then t else Tab.put t (j + 1) x) [(0, recControl r s.clock)])
    let base := (rawCoreRegs rollback).foldl (fun c n => c.setReg n (recRaw n (recReg r n))) c
    Core.restartGovernor { base with
      ctxs := ctxs, ta := bit (recReg r 0x000) 2, vec := recVec r, mat := recMat r c.mat.rem, streams := streams
      hq := (List.range 8).foldl (fun t q =>
        Tab.set [] t q ((List.range (bits (recReg r 0x042) (5 * q) 5)).map fun i => recWord r (0xC800 + 128 * q + 8 * i))) []
      sb := [], hold := bit (recReg r 0x090) 8, sfq := sfq, mail := [], fps := [], comb := []
      pend := { causes := causes, helpers := [], double := none, fatal := false, flags := c.pend.flags
                stores := if bit mask 6 then sfq.map fun f =>
                    { ctx := f.ctx, va := BitVec.ofNat 48 f.va.toNat, seq := f.seq } else [] }
      mem := { c.mem with
        opened := bit gst 63, task := bit gst 62, ident := BitVec.ofNat 48 gst.toNat, holdsTask := bit gst 63 && bit gst 62
        killed := BitVec.ofNat 8 (bits gst 48 8), gmis := bit (recReg r 0x04C) 3, arrived := none, held := false
        proposal := none, ahead := [], dmem := recRaw 0x048 (recReg r 0x048)
        drect := [0x049, 0x04A, 0x04B].map fun n => (n - 0x048, recRaw n (recReg r n)) } }
  let s := s.loadDomain lcn r
  let s := s.updTowerAt (towerOf lcn) fun t =>
    let lane := 5 * (lcn % 8)
    let keep : BitVec 40 := ~~~(BitVec.ofNat 40 (31 * 2 ^ lane))
    { t with flagu := (t.flagu &&& keep) ||| BitVec.ofNat 40 (bits (recReg r 0x0FF) lane 5 * 2 ^ lane) }
  { streams.foldl (fun s e => s.updCoreAt lcn fun c =>
      { c with count := c.count + 1
               fps := c.fps ++ [{ Fp.ofOp 0 (.sbind e.1) with id := c.count + 1, after := c.count
                                                              rd := ({ s with lcn := lcn, k := 0 } : State).bindRanges e.2 }] }) s with
    tick := s.tick + 64 }

/-- The registrations of a core that a record holds, re-established on the phasers of its tower, and P with them; `take`, a
restore takes ownership of unowned phasers (R153, R325, R331). -/
def State.loadPhasers (s : State) (lcn : Nat) (r : List Byte) (gang : Nat) (take : Bool) : State :=
  s.updTowerAt (towerOf lcn) fun t =>
    { t with phasers := (List.range 32).foldl (fun ps n =>
        let off := 0xF800 + 64 * n
        let p := recNat r off 8
        let mine : List PhMember := (List.range 11).filterMap fun k =>
          let b := recNat r (off + 8 + k) 1
          if b % 4 = 0 then none
          else some { lcn := lcn, k := k, mode := b % 4 - 1, sigma := p + b / 4 % 2, w := p + b / 8 % 4 - 1 }
        let old := Tab.get Phaser.fresh ps n
        if !(old.owner == gang || (take && old.owner == 0)) || (mine.isEmpty && (old.owner == 0 && p == 0)) then ps
        else Tab.put ps n { old with p := p, owner := gang, members := old.members.filter (·.lcn ≠ lcn) ++ mine,
                                     dropped := false }) t.phasers }

end Sys2Proof.Machine
end

