-- ==== Sys2Proof/Machine/Sync.lean ====
section
/-!
DEFINITION. Contexts and their queues (R124, R125, R131, R132), groups and grids (R135 to R140), supersteps, windows and
budgets (R144 to R150), imbalance records (R154), phasers (R151 to R153), and changes of domain registers (R142).
-/

namespace Sys2Proof.Machine

/-! ## Groups and tasks (R137 to R140, R305) -/

/-- The open group of a core closes; a task's slot is released. -/
def Core.closeGroup (c : Core) : Core :=
  let q := c.reg 0x109
  let n := bits (c.reg 0x108) 0 8 + 1
  let c := if c.mem.opened && c.mem.holdsTask then
      c.setReg 0x109 (withBits (withBits q 0 8 ((bits q 0 8 + 1) % n)) 8 9 (bits q 8 9 - 1))
    else c
  { c with mem := { c.mem with opened := false, task := false, holdsTask := false } }

/-- Tasks that GNEXT may hand out: those accepted before the compute phase began. -/
def Core.tasksDue (c : Core) : Nat := bits (c.reg 0x109) 8 9 - bits (c.reg 0x109) 17 9

/-- A group opened. -/
def Core.openGroup (c : Core) (task : Bool) (id : Nat) : Core :=
  { c with mem := { c.mem with opened := true, task := task, ident := BitVec.ofNat 48 id, holdsTask := task }
           trace := { c.trace with groups := c.trace.groups + 1 } }

/-- A step at the state that twins share: the first of the two makes it, and the other is given the same result (R326). -/
def State.asTwin (s : State) (f : State → Word × State) : Word × State :=
  match s.core.mem.ahead with
  | w :: t => (w, s.updCore fun c => { c with mem := { c.mem with ahead := t } })
  | [] =>
    let (w, s) := f s
    (w, match s.otherTwin s.lcn with
      | some h => s.updCoreAt h fun c => { c with mem := { c.mem with ahead := c.mem.ahead ++ [w] } }
      | none => s)

/-- The lowest index of the domain's grid that has not been returned, or all ones. -/
def State.nextIndex (s : State) : Word × State :=
  let d := s.domOf s.lcn
  if d.next < d.count then (BitVec.ofNat 64 d.next, s.updDom s.core.domKey fun x => { x with next := x.next + 1 })
  else (BitVec.allOnes 64, s)

/-- The domain's grid raised by n: its new count (R138). -/
def State.raiseGrid (n : Nat) (s : State) : Word × State :=
  let m := satNat ((s.domOf s.lcn).count + n) (2 ^ 48 - 1)
  (BitVec.ofNat 64 m, s.updDom s.core.domKey fun x => { x with count := m })

/-- GNEXT (R137): the oldest task, else the lowest unreturned index of the grid (DEDUCED from R135, log entry 22), else all
ones. -/
def execGnext (d : BitVec 5) (s : State) : Out :=
  issue (.gnext d) s fun s =>
    let s := s.updCore (·.closeGroup)
    let c := s.core
    if 0 < c.tasksDue then
      let t := bits (c.reg 0x108) 12 36 * 4096 + 64 * bits (c.reg 0x109) 0 8
      ((s.updCore (·.openGroup true t)).setG d (BitVec.ofNat 64 (2 ^ 63 + t))).retire
    else
      let (w, s) := s.asTwin State.nextIndex
      ((if w = BitVec.allOnes 64 then s else s.updCore (·.openGroup false w.toNat)).setG d w).retire

/-- GRAISE (R138): one indivisible step at the domain's grid, for both twins of a core. -/
def execGraise (d a : BitVec 5) (s : State) : Out :=
  issue (.graise d a) s fun s =>
    let (w, s) := s.asTwin (State.raiseGrid (s.g a).toNat)
    (s.setG d w).retire

/-- GRID (R136): the core's proposed count. -/
def execGrid (a : BitVec 5) (s : State) : Out :=
  issue (.grid a) s fun s =>
    (s.updCore fun c => { c with mem := { c.mem with proposal := some (satNat (s.g a).toNat (2 ^ 48 - 1)) } }).retire

/-- Store-buffer entries younger than a store named in the record queue are discarded, with the mailbox wait of a discarded head;
then HOLD clears (R140, R253). While HOLD is set every entry is younger than a store that faulted, its record popped or not
(R315; DEDUCED, log entry 69). -/
def Core.discardYounger (c : Core) : Core :=
  let kept := if c.hold then [] else c.sb.filter fun e => !(c.sfq.any fun r => r.seq < e.seq)
  { c with sb := kept, hold := false, mail := if kept.head? = c.sb.head? then c.mail else Tab.erase c.mail 11 }

/-- A transfer of the copy or fill engine. -/
def Fp.local? (f : Fp) : Bool :=
  match f.op with
  | .cpy _ _ _ => true
  | .cpyv _ _ => true
  | .fill _ _ _ => true
  | _ => false

/-- GKILL (R140); the dispatcher counts it for a member, not for its shadow (R406). -/
def execGkill (s : State) : Out :=
  issue .gkill s fun s =>
    if !s.core.mem.opened then s.trapWord 0x01 .gkill
    else
      let s := (s.killHelpers s.lcn).endFps s.lcn Fp.local?
      let s := s.updCore fun c =>
        let c := (c.discardYounger).closeGroup
        let c := { c with hq := [], mail := Tab.erase c.mail 0 }
        let c := c.updCtx 0 fun x => ((x.setReg 0x07A 0).setReg 0x07B 0).setReg 0x07C 0
        let c := (c.setReg 0x00A (c.reg 0x043)).setReg 0x00C (withBits (withBits (c.reg 0x00C) 12 4 0) 8 2 0)
        { c with mem := { c.mem with killed := BitVec.ofNat 8 (satNat (c.mem.killed.toNat + 1) 255) } }
      (s.updGang s.core.mem.gang fun g =>
        if g.covers s.lcn then { g with killed := satNat (g.killed + 1) (2 ^ 32 - 1) } else g).retire

/-! ## Helpers and queues (R124, R125, R131, R132) -/

/-- A helper at its start (R124). -/
def Core.newHelper (c : Core) (h : Nat) (pc arg lcn idx : Word) (clock : Nat) : Core :=
  let x := c.ctx 0
  let f := c.ctx h
  let y := { Ctx.empty .running with pc := pc.setWidth 48, priv := x.priv, liveFrom := clock, retired := f.retired, born := f.retired,
                                     boost := f.boost, boostEnd := f.boostEnd }
  let y := ((y.setGr 1 arg).setGr 2 lcn).setGr 3 idx
  c.setCtx h (((y.setReg 0x082 (x.reg 0x082)).setReg 0x083 (x.reg 0x083)).setReg 0x084 (x.reg 0x084))

/-- HSTART (R124). -/
def execHstart (d a b : BitVec 5) (s : State) : Out :=
  issue (.hstart d a b) s fun s =>
    let t := s.g a
    if t.toNat % 4 ≠ 0 then s.trap 0x04 t
    else
      match ((List.range 10).map (· + 1)).find? (fun h => (s.core.ctx h).st == .free) with
      | none => (s.setG d 0).retire
      | some h =>
        let arg := s.g b
        let s := s.updCore fun c =>
          c.newHelper h t arg (BitVec.ofNat 64 (s.lcnShown s.lcn)) (BitVec.ofNat 64 (s.lcn % 8)) s.clock
        (s.setG d (BitVec.ofNat 64 h)).retire

/-- HEXIT (R125): in the control context it is illegal (R43). -/
def execHexit (s : State) : Out :=
  issue .hexit s fun s =>
    if s.olderPending || s.drainsFirst then s.stall .drain else s.retire.killHelper s.lcn s.k

/-- Some live context of a core other than k names queue q in a byte of stg: OUT at bit 0, IN at bit 8 (R132). -/
def Core.partner (c : Core) (k q lo : Nat) : Bool :=
  (List.range 11).any fun j => j != k && ((c.ctx j).live && bit ((c.ctx j).reg 0x041) (lo + q))

/-- A hardware queue. -/
def Core.queue (c : Core) (q : Nat) : List Word := Tab.get [] c.hq q

/-- QPUSH (R131, R132). -/
def execQpush (a : BitVec 5) (q : BitVec 3) (s : State) : Out :=
  issue (.qpush a q) s fun s =>
    let xs := s.core.queue q.toNat
    if 16 ≤ xs.length then
      if s.core.partner s.k q.toNat 8 then s.stall (.queueFull q.toNat) else s.trapWord 0x10 (.qpush a q)
    else (s.updCore fun c => { c with hq := Tab.set [] c.hq q.toNat (xs ++ [s.g a]) }).retire

/-- QPOP (R131, R132). -/
def execQpop (d : BitVec 5) (q : BitVec 3) (s : State) : Out :=
  issue (.qpop d q) s fun s =>
    match s.core.queue q.toNat with
    | [] => if s.core.partner s.k q.toNat 0 then s.stall (.queueEmpty q.toNat) else s.trapWord 0x10 (.qpop d q)
    | x :: xs => ((s.updCore fun c => { c with hq := Tab.set [] c.hq q.toNat xs }).setG d x).retire

/-- The word at the pc of the context whose turn it is, where it can be fetched without waiting. -/
def State.wordHere (s : State) : Option Word32 :=
  if isVirtual s.cx.pc.toNat then
    match (s.locate s.lcn s.k (s.query s.lcn s.k false false true false) [s.cx.pc.toNat]).1 with
    | .ok frames => s.fetchWord frames
    | _ => none
  else s.fetchWord []

/-- A context waits on a queue for which no other live context stands (R132). -/
def Core.lonely (c : Core) (k : Nat) : Bool :=
  let x := c.ctx k
  !x.halted && (!c.mem.held && match x.wait with
    | some (.queueFull q) => 16 ≤ (c.queue q).length && !c.partner k q 8
    | some (.queueEmpty q) => (c.queue q).isEmpty && !c.partner k q 0
    | _ => false)

/-- QUEUE_OVERFLOW_OR_UNDERFLOW (R132): the check that a QPUSH or QPOP repeats in each cycle in which it waits. -/
def execQueueOverflowOrUnderflow (lcn k : Nat) (s : State) : Out :=
  if !(s.coreAt lcn).lonely k then .next s
  else
    .next (s.at lcn k fun s => match s.wordHere with
      | some w => s.trap 0x10 (w.setWidth 64)
      | none => s)

/-! ## Phasers (R151 to R153) -/

/-- A phaser of the tower. -/
def State.phaser (s : State) (n : BitVec 5) : Phaser := Tab.get Phaser.fresh s.tower.phasers n.toNat

/-- A phaser replaced. -/
def State.setPhaser (s : State) (n : BitVec 5) (p : Phaser) : State :=
  s.updTower fun t => { t with phasers := Tab.put t.phasers n.toNat p }

/-- The context's registration. -/
def State.member? (s : State) (n : BitVec 5) : Option PhMember :=
  (s.phaser n).members.find? fun m => m.lcn == s.lcn && m.k == s.k

/-- The context's registration changed; the phase completes if its condition now holds. -/
def State.updMember (s : State) (n : BitVec 5) (f : PhMember → PhMember) : State :=
  let p := s.phaser n
  s.setPhaser n (Phaser.settle { p with members := mapIf (fun m => m.lcn == s.lcn && m.k == s.k) f p.members })

/-- PHREG (R152, R153). -/
def execPhreg (b : BitVec 5) (m : BitVec 2) (s : State) : Out :=
  issue (.phreg b m) s fun s =>
    let p := s.phaser b
    if (s.member? b).isSome || (p.owner != 0 && p.owner != s.core.mem.gang) then s.trapWord 0x01 (.phreg b m)
    else
      let x : PhMember := { lcn := s.lcn, k := s.k, mode := m.toNat, sigma := p.p + 1, w := if m = 1 then p.p else p.p + 1 }
      (s.setPhaser b (Phaser.settle { p with owner := s.core.mem.gang, members := p.members ++ [x] })).retire

/-- PHDROP (R152). -/
def execPhdrop (b : BitVec 5) (s : State) : Out :=
  issue (.phdrop b) s fun s =>
    if (s.member? b).isNone then s.trapWord 0x01 (.phdrop b)
    else (s.setPhaser b ((s.phaser b).drop s.lcn s.k)).retire

/-- PHSIG (R152). -/
def execPhsig (b : BitVec 5) (s : State) : Out :=
  issue (.phsig b) s fun s =>
    match s.member? b with
    | none => s.trapWord 0x01 (.phsig b)
    | some m =>
      if m.mode = 1 then s.trapWord 0x01 (.phsig b)
      else if s.drainsFirst then s.stall .drain
      else if m.sigma ≠ (s.phaser b).p then s.stall (.phaser b.toNat)
      else (s.updMember b fun m => { m with sigma := m.sigma + 1 }).retire

/-- PHWAIT (R152). -/
def execPhwait (b : BitVec 5) (s : State) : Out :=
  issue (.phwait b) s fun s =>
    match s.member? b with
    | none => s.trapWord 0x01 (.phwait b)
    | some m =>
      if m.mode = 0 then s.trapWord 0x01 (.phwait b)
      else if (s.phaser b).p ≤ m.w then s.stall (.phaser b.toNat)
      else (s.updMember b fun m => { m with w := m.w + 1 }).retire

/-- The wait of PHNEXT, after its signal. -/
def State.phnextWait (s : State) (b : BitVec 5) : State :=
  match s.member? b with
  | none => s
  | some m =>
    if (s.phaser b).p ≤ m.w then s.stall (.phaser b.toNat)
    else ((s.updMember b fun m => { m with w := m.w + 1 }).updCx fun x => { x with signalled := none }).retire

/-- PHNEXT (R152): PHSIG, then PHWAIT; once the signal has taken effect it is not repeated. -/
def execPhnext (b : BitVec 5) (s : State) : Out :=
  issue (.phnext b) s fun s =>
    match s.member? b with
    | none => s.trapWord 0x01 (.phnext b)
    | some m =>
      if m.mode ≠ 2 then s.trapWord 0x01 (.phnext b)
      else if s.cx.signalled = some b.toNat then s.phnextWait b
      else if s.drainsFirst then s.stall .drain
      else if m.sigma ≠ (s.phaser b).p then s.stall (.phaser b.toNat)
      else
        ((s.updMember b fun m => { m with sigma := m.sigma + 1 }).updCx fun x =>
          { x with signalled := some b.toNat }).phnextWait b

/-! ## Arrivals (R143, R145, R154, R326) -/

/-- The control context of a core is STOPPED, its shadow's too. -/
def State.coreStopped (s : State) (lcn : Nat) : Bool :=
  ((s.coreAt lcn).ctx 0).st == .stopped &&
    match s.shadowCore lcn with
    | some h => ((s.coreAt h).ctx 0).st == .stopped
    | none => true

/-- The arrival cycle of a member core: once both twins have arrived, the later. -/
def State.arrivedAt (s : State) (lcn : Nat) : Option Nat :=
  match (s.coreAt lcn).mem.arrived, s.shadowCore lcn with
  | some a, none => some a
  | some a, some h => (s.coreAt h).mem.arrived.map (max a)
  | none, _ => none

/-- The record of a barrier: `ms` the members, `k` whether it is an exchange barrier. -/
def State.imbalOf (s : State) (ms : List Nat) (k : Bool) (sstep : Nat) : Imbal :=
  let xs := ms.filterMap fun l => (s.arrivedAt l).map fun a => (l, a)
  let late := xs.foldl (fun m x => max m x.2) 0
  { early := (leastOf (xs.map (·.2))).getD 0, late := late, sum := xs.foldl (fun t x => t + x.2) 0 % 2 ^ 64, k := k,
    ncore := xs.length, ss := sstep % 2 ^ 32,
    last := (leastOf ((xs.filter fun x => x.2 == late).map (·.1))).getD 0xFFF }

/-- A domain of a running gang that has members and is not parked (R148, R343). -/
def State.isActive (s : State) (d : Domain) : Bool :=
  !d.parked && ((match s.gang? d.key.gang with | some g => g.active | none => false) && !(s.domMembers d.key).isEmpty)

/-- The active domains. -/
def State.activeDoms (s : State) : List Domain := s.arb.doms.filter s.isActive

/-- Every member control context of a domain is STOPPED. -/
def State.domIdle (s : State) (d : Domain) : Bool := (s.domMembers d.key).all s.coreStopped

/-! ## The close of a window (R148, R149, R271, R272, R299) -/

/-- A straggler trap for every member (R148, R311). -/
def State.straggle (s : State) (d : Domain) : State :=
  let ident := if d.key.level = 0 then (match s.gang? d.key.gang with | some g => g.d0 | none => 0) else d.key.ident
  let info := BitVec.ofNat 64 (d.key.level * 2 ^ 16 + ident * 2 ^ 8 + d.scnt)
  (s.domMembers d.key ++ (s.domMembers d.key).filterMap s.shadowCore).foldl (fun s l => s.postCause l 0x0C info) s

/-- A domain at the close of a compute window: it enters the exchange window, or misses the window (R148). -/
def State.closeOne (s : State) (d : Domain) : State :=
  if d.done then s
  else if d.dph ≠ 0 then s.updDom d.key fun d => { d with entered := true, scnt := 0 }
  else if s.domIdle d then s
  else
    let n := satNat (d.scnt + 1) 255
    let s := s.updDom d.key fun d => { d with scnt := n }
    let slim := match s.gang? d.key.gang with | some g => g.slim | none => 0
    if slim ≠ 0 ∧ n = slim ∧ d.scnt ≠ slim then s.straggle { d with scnt := n } else s

/-- The compute window closes. -/
def State.closeCompute (s : State) : State :=
  let s := s.activeDoms.foldl State.closeOne s
  { s with arb := { s.arb with win := .turnX } }

/-- Ascending numbers without repeats. -/
def ascending (xs : List Nat) : List Nat := (xs.foldl (fun t x => Tab.put t x ()) ([] : Tab Unit)).map (·.1)

/-- Every core's lines are sent, arrive, and are applied at their homes (R271, R272); a twin's unmatched half is a mismatch. The
lines of a parked domain's cores wait for the close of the window in which it finishes its phase (R343; DEDUCED, log entry 82). -/
def State.flushLines (s : State) : State :=
  let parked := fun (s : State) l => (s.domOf l).parked
  let s := s.cores.foldl (fun s e => if parked s e.1 then s else e.2.comb.foldl (fun s l => s.sendLine e.1 l) s) s
  let s := (s.arb.sent.filter fun l => !parked s l.lcn).foldl State.lineArrives s
  let odd := s.arb.sent.filter fun l => !l.arrived && !parked s l.lcn
  let s := { s with arb := { s.arb with sent := s.arb.sent.filter fun l => !odd.contains l } }
  let s := odd.foldl (fun s l => s.twinMismatch l.lcn 0) s
  (ascending ((s.arb.sent.filter (·.arrived)).map (·.line.home))).foldl (fun s h => s.applyHeld h s.arb.sent.length) s

/-- A primary core's packets whose pair is not complete at the close (R328). -/
def State.unpaired (s : State) (lcn : Nat) : Bool :=
  match s.shadowCore lcn with
  | none => false
  | some h =>
    let alone := fun a b => (s.coreAt a).fps.any fun f =>
      f.op.remote?.isSome && (f.going && match s.twinFp b f with | some g => !g.going | none => true)
    alone lcn h || alone h lcn

/-- Every core a domain's members and shadows occupy. -/
def State.domCores (s : State) (key : DomKey) : List Nat :=
  let ms := s.domMembers key
  ms ++ ms.filterMap s.shadowCore

/-- A domain that has overrun (R149, R150): its missing STEP.C counts as made. -/
def State.overrun (s : State) (d : Domain) : State :=
  let rec' := s.imbalOf (s.domMembers d.key) true d.sstep
  let s := (s.domCores d.key).foldl (fun s l => s.updCoreAt l fun c => { c with mem := { c.mem with held := true } }) s
  s.updDom d.key fun d =>
    { d with dph := 0, ovr := true, overrun := true, formed := some rec', barrierAt := s.clock }

/-- What the cores of a domain still have in flight as its window closes: an unmatched pair is a twin mismatch (R328), and
transfers end with −6, those that a member which has HALTed left behind too (R149, R281; DEDUCED from R146, log entry 82). -/
def State.endExchange (s : State) (d : Domain) : State :=
  let s := ((s.domMembers d.key).filter s.unpaired).foldl (fun s l => s.twinMismatch l 0) s
  (s.domCores d.key).foldl (fun s l => s.endFps l fun f => f.op.remote?.isSome) s

/-- Landing counters below zero at the close (R299). -/
def Core.landingCheck (c : Core) : Core :=
  (List.range 16).foldl (fun c k => if bit (c.reg (0x110 + k)) 47 then c.setReg 0x120 (withBits (c.reg 0x120) k 1 1) else c) c

/-! ## The window group (R419) -/

/-- Rounds of the dissemination barrier of n modules: the least r with 2 ^ r ≥ n, n at most 16 (R419). -/
def rounds (n : Nat) : Nat := if n ≤ 1 then 0 else if n ≤ 2 then 1 else if n ≤ 4 then 2 else if n ≤ 8 then 3 else 4

/-- The positions to which this module sends in round r, and from which it waits for a token. -/
def Fabric.sendsTo (f : Fabric) (r : Nat) : Nat := (f.gpos + 2 ^ r) % f.gsz
def Fabric.waitsFor (f : Fabric) (r : Nat) : Nat := (f.gpos + f.gsz - 2 ^ r % f.gsz) % f.gsz

/-- A module is a partner of this one in the group's barrier. -/
def Fabric.partner (f : Fabric) (m : Nat) : Bool :=
  match Config.windowPosition f.gsz m with
  | some p => (List.range (rounds f.gsz)).any fun r => p == f.sendsTo r || p == f.waitsFor r
  | none => false

/-- Round r is over: its token has arrived, or none will come since the link to the module it would come from is down. -/
def Fabric.roundOver (f : Fabric) (r : Nat) : Bool :=
  f.tokens.contains r || f.lost.any fun m => Config.windowPosition f.gsz m == some (f.waitsFor r)

/-- The rounds, from the first, that are over. -/
def Fabric.roundsOver (f : Fabric) : Nat := ((List.range (rounds f.gsz)).takeWhile f.roundOver).length

/-- The module sends its tokens in turn: that of a round once the round before it is over, and none before its exchange window has
closed, when every write of the window has performed (R419). -/
def State.sendTokens (s : State) : State :=
  if s.arb.win = .turnC then { s with fab := { s.fab with sentRounds := min (rounds s.fab.gsz) (s.fab.roundsOver + 1) } } else s

/-- A removal that has been ordered takes effect: new size and position. -/
def Fabric.regroup (f : Fabric) : Fabric :=
  match f.newGroup with
  | some (n, i) =>
    let g := { f with gsz := n, gpos := i, newGroup := none }
    { g with lost := f.downLinks.filter g.partner }
  | none => f

/-- The exchange window closes. -/
def State.closeExchange (s : State) : State :=
  let s := s.flushLines
  let ent := s.activeDoms.filter (·.entered)
  let s := ent.foldl State.endExchange s
  let s := (ent.filter fun d => d.dph == 2 && !s.domIdle d).foldl State.overrun s
  let s := (ent.flatMap fun d => s.domCores d.key).foldl (fun s l => s.updCoreAt l (·.landingCheck)) s
  { s with arb := { s.arb with win := .turnC }, fab := s.fab.regroup }.sendTokens

/-- A window closes in the first cycle in which its condition holds; no window turns during a module stop (R148, R149, R157). -/
def State.windowCheck (s : State) : State :=
  if s.arb.stopped then s
  else
    match s.arb.win with
    | .compute =>
      let act := s.activeDoms.filter fun d => !d.done
      let due := s.activeDoms.any fun d => d.done && d.carried
      if (due || act.any fun d => !s.domIdle d) && act.all fun d => d.dph != 0 || (d.spent || s.domIdle d) then
        s.closeCompute
      else s
    | .exchange =>
      if (s.activeDoms.filter (·.entered)).all fun d => d.dph != 2 || (d.spent || s.domIdle d) then s.closeExchange else s
    | _ => s

/-- The last arrival of a barrier (R150, R154); a domain whose members disagree never completes one (R142). -/
def State.domCheck (s : State) (key : DomKey) : State :=
  let d := s.dom key
  let ms := s.domMembers key
  if d.done || (d.overrun || (d.dph % 2 == 1 || (s.domIdle d || (!s.agrees key ||
      !ms.all fun l => s.coreStopped l || (s.arrivedAt l).isSome)))) then s
  else
    s.updDom key fun d =>
      { d with dph := d.dph + 1, formed := some (s.imbalOf ms (d.dph == 2) d.sstep)
               barrierAt := if d.dph = 2 then s.clock else d.barrierAt }

/-- An arrival of a core, its trace record, and what follows from it (R145, R354). -/
def State.arriveStep (s : State) : State :=
  let d := s.domOf s.lcn
  let cyc := satNat (s.clock - d.phaseStart) (2 ^ 32 - 1)
  let s := s.updCore fun c =>
    { c.updCtx 0 (fun x => { x with st := .blocked }) with mem := { c.mem with arrived := some cyc, held := true } }
  let t := s.core.trace
  let row := [s.cx.retired - t.retiredAt, s.cx.cycles s.clock - t.liveAt, cyc, t.groups]
  let s := s.updCore fun c => { c with trace := { c.trace with sums := List.zipWith (· + ·) c.trace.sums row } }
  ((s.trace s.lcn 0 5 (row.map (BitVec.ofNat 64 ·))).domCheck s.core.domKey).windowCheck

/-- Every older instruction of the core that can complete has completed: results, the matrix queue, signals of PHNEXT, accesses
that wait on a mailbox, atomics at the proxy, invalidations (R96, R145, R243). -/
def State.coreQuiet (s : State) (lcn : Nat) : Bool :=
  let c := s.coreAt lcn
  c.mat.queue.isEmpty && (c.ctxs.all (fun e => e.2.late.isEmpty && e.2.signalled.isNone) && c.mail.all (fun e => e.1 == 11 || e.2.kind == kindFetch) &&
    (!s.fab.proxies.any (fun o => o.lcn == lcn && o.k != 11) && !s.fab.flushing.any (fun f => f.lcn == lcn && f.k != 11)))

/-- A STEP may send its arrival: the core is quiet, no other context stands between a hint and its instruction, every store has
drained and no store-fault trap can still be delivered, and no transfer that a test picks is in flight (R51, R145; DEDUCED, log
entry 72). -/
def State.stepReady (s : State) (p : Fp → Bool) : Bool :=
  let c := s.core
  s.coreQuiet s.lcn && (c.ctxs.all (fun e => e.1 == s.k || !e.2.amidPair) && c.sb.isEmpty && (c.pend.stores.all (fun t => t.ctx == 0 && c.ta) && !c.fps.any p))

/-- STEP.X (R145): the open group closes even where the STEP then waits. -/
def execStepX (s : State) : Out :=
  issue .stepX s fun s =>
    let s := s.updCore (·.closeGroup)
    if s.stepReady Fp.local? then s.retire.arriveStep else s.stall .drain

/-- STEP.C (R145). -/
def execStepC (s : State) : Out :=
  issue .stepC s fun s =>
    if s.stepReady fun f => f.op.remote?.isSome then s.retire.arriveStep else s.stall .drain

/-! ## The start of a phase -/

/-- A core released into the next phase. -/
def Core.release (c : Core) : Core :=
  { c.updCtx 0 (fun x => if x.st = .blocked ∧ x.wait = none then { x with st := .running } else x) with
    mem := { c.mem with arrived := none, held := false } }

/-- What a core's trace record of an arrival counts starts with its phase (R354). -/
def Core.markPhase (c : Core) (clock : Nat) : Core :=
  { c with trace := { c.trace with groups := 0, retiredAt := (c.ctx 0).retired, liveAt := (c.ctx 0).cycles clock } }

/-- The imbalance record is written and traced as a phase begins (R154). -/
def State.showRecord (s : State) (key : DomKey) : State :=
  match (s.dom key).formed with
  | none => s
  | some r =>
    let s := s.updDom key fun d => { d with record := r, formed := none }
    (s.domCores key).foldl (fun s l => s.trace l 0 1 [r.word false 0, r.word false 1, r.word false 2, r.word false 3]) s

/-- An exchange phase begins for a domain that entered the window (R150). A domain resumed within its exchange phase goes on
with the budget it had left (R343). -/
def State.beginExchange (s : State) (key : DomKey) : State :=
  let d := s.dom key
  if d.dph = 1 then
    let s := s.updDom key fun d => { d with dph := 2, phaseStart := s.clock, since := s.clock, spent := false }
    let s := (s.domCores key).foldl (fun s l => s.updCoreAt l fun c => c.release.markPhase s.clock) s
    s.showRecord key
  else s.updDom key fun d => { d with since := s.clock - d.since }

/-- EXCHANGE_WINDOW_OPEN (R147, R150). -/
def execExchangeWindowOpen (s : State) : Out :=
  if s.arb.win ≠ .turnX ∨ s.arb.stopped = true then .next s
  else
    let s := { s with arb := { s.arb with win := .exchange, winAt := s.clock, phase := (s.arb.phase + 1) % 2 ^ 64 } }
    .next (((s.activeDoms.filter (·.entered)).foldl (fun s d => s.beginExchange d.key) s).windowCheck)

/-- The grid of the next compute phase: the proposal of the lowest-LCN member that arrived with one (R136). -/
def State.nextGrid (s : State) (d : Domain) : Nat × State :=
  let ps := (s.domMembers d.key).filterMap fun l =>
    if (s.arrivedAt l).isSome then ((s.coreAt l).mem.proposal).map fun p => (l, p) else none
  match ps with
  | [] => (d.startCount, s)
  | (_, n) :: _ =>
    (n, (s.domCores d.key).foldl (fun s l => s.updCoreAt l fun c =>
      if c.mem.arrived.isSome && (c.mem.proposal.isSome && c.mem.proposal != some n) then
        { c with mem := { c.mem with gmis := true } } else c) s)

/-- The exchange phase of a domain ends: sstep, the new grid, the overrun trap (R136, R146, R149). -/
def State.finishExchange (s : State) (key : DomKey) : State :=
  let d := s.dom key
  let (n, s) := s.nextGrid d
  let s := s.updGang key.gang fun g => { g with gr := { g.gr with rbHere := 0 } }
  let s := if d.overrun then (s.domCores key).foldl (fun s l => s.postCause l 0x0D (BitVec.ofNat 64 d.sstep)) s else s
  s.updDom key fun d =>
    { d with sstep := (d.sstep + 1) % 2 ^ 64, count := n, startCount := n, next := 0, entered := false, overrun := false,
             dph := 3, done := true }

/-- The registers of a core that change as its compute phase begins: landing counters, NEW, KCNT, journal and its place, the
domain registers (R123, R142, R298, R305, R318, R321). -/
def Core.startCompute (c : Core) : Core :=
  let ovf := bits (c.reg 0x120) 0 16
  let c := if ovf = 0 ∨ (Tab.find? c.pend.causes 0x13).isSome then c
    else { c with pend := { c.pend with causes := Tab.put c.pend.causes 0x13 (BitVec.ofNat 64 ovf) } }
  let c := (List.range 16).foldl (fun c k => c.setReg (0x110 + k) 0) c
  let c := (c.setReg 0x109 (withBits (c.reg 0x109) 17 9 0)).setReg 0x185 0
  let c := (c.setReg jbaseNow (c.reg 0x183)).setReg jlenNow (c.reg 0x184)
  let c := if c.journalOn then c else c.setReg 0x185 (BitVec.ofNat 64 (2 ^ 63 + 2 * 2 ^ 59))
  { c with
    blocks := []
    mem := { c.mem with killed := 0, proposal := none, ahead := [], dmem := c.reg 0x048
                        drect := [(1, c.reg 0x049), (2, c.reg 0x04A), (3, c.reg 0x04B)] } }

/-- A policy bound since takes effect at the partition's next compute phase; values latched under the old one are gone
(R358). -/
def State.newPolicy (s : State) (lcn : Nat) : State :=
  match s.partHeld lcn with
  | none => s
  | some p =>
    let q := s.partAt p
    if q.newPol = q.dpol then s
    else
      let s := s.updPartAt p fun q => { q with dpol := q.newPol }
      { s with cores := Tab.mapEntries (fun l c =>
          if s.partHeld l = some p then { c with trace := { c.trace with latched := [] } } else c) s.cores }

/-- Where the counted value of a register of context k is latched. -/
def latchKey (k n : Nat) : Nat := n + 0x1000 * k

/-- The counted values latched at the start of a compute phase (R351, R356), ccount of every helper among them. -/
def State.latchCounted (s : State) (lcn : Nat) : State :=
  let names := [0x003, 0x054, 0x055, 0x056, 0x057, 0x0C3, 0x0C8] ++ (List.range 8).map (0x158 + ·)
  let v := fun n => if 0x054 ≤ n ∧ n ≤ 0x057 then s.imbal lcn false (n - 0x054) else s.srView lcn 0 n true
  let helpers := (List.range 10).map fun j => (latchKey (j + 1) 0x003, s.srView lcn (j + 1) 0x003 true)
  s.updCoreAt lcn fun c => { c with trace := { c.trace with latched := names.map (fun n => (n, v n)) ++ helpers } }

/-- A core's compute phase begins (R145, R146, R320, R321). -/
def State.startCore (s : State) (lcn : Nat) : State :=
  let s := s.updCoreAt lcn fun c => (c.startCompute).release.markPhase s.clock
  let s := s.updTowerAt (towerOf lcn) fun t => { t with pmdomeNow := t.pmdome, blocks := [] }
  let s := s.newPolicy lcn
  if (s.policy lcn).toNat % 4 = 1 then s.latchCounted lcn else s

/-- The gang has no member that made the superstep non-rollbackable (R318, R323). -/
def State.settleNrg (s : State) (gang : Nat) : State :=
  match s.gang? gang with
  | none => s
  | some g =>
    let any := g.occupied.any fun l => bit ((s.coreAt l).reg 0x185) 63
    s.updGang gang fun g => { g with gr := { g.gr with nrg := any } }

/-- Keys without repeats. -/
def distinctKeys : List DomKey → List DomKey
  | [] => []
  | k :: t => if t.any (· == k) then distinctKeys t else k :: distinctKeys t

/-- A compute phase begins for the cores of a domain that is done with its exchange, or has just been dispatched. Where the
domain registers take effect and name another domain, the cores join it: it keeps its own count of supersteps, and its grid is
that of the domain they leave (DESIGN CHOICE, log entry 23). -/
def State.beginCompute (s : State) (key : DomKey) : State :=
  let d := s.dom key
  let all := s.domCores key
  let s := all.foldl State.startCore s
  let s := s.updDom key fun d => { d with dph := 0, done := false }
  let keys := distinctKeys (all.map fun l => (s.coreAt l).domKey)
  let s := keys.foldl (fun s k => s.updDom k fun x =>
    { x with dph := 0, done := false, entered := false, spent := false, phaseStart := s.clock, since := s.clock,
             count := d.count, startCount := d.startCount, next := 0, formed := d.formed }) s
  let s := keys.foldl State.showRecord s
  let s := s.settleNrg key.gang
  all.foldl State.writeCheckpoint s

/-- Every domain that waits for a compute phase, and not for the next window, begins one. -/
def State.beginDone (s : State) : State :=
  (s.activeDoms.filter fun d => d.done && !d.carried).foldl (fun s d => s.beginCompute d.key) s

/-! ## What is taken at an exchange barrier (R329, R345) -/

/-- dsk0 and dsk1 of skids. -/
def skidWord (xs : List Nat) : Word := BitVec.ofNat 64 (xs.foldr (fun x a => satNat x 1023 + 1024 * a) 0)

/-- A core debug-halted: its contexts' clocks stop, dbgs, dtss, the skids and, where a trigger names one, the address are
written, and its trace record (R342, R343, R354). -/
def State.haltCore (s : State) (lcn : Nat) (dbgs : Word) (st : Stop) (addr : Option Nat) (skids : List Nat) : State :=
  let s := s.updCoreAt lcn fun c =>
    let c := { c with ctxs := Tab.mapEntries (fun _ x => if x.halted then x else { x.beforePair.stopClock s.clock with halted := true }) c.ctxs
                      dbg := { c.dbg with halt := true, step := none, trigger := none, stop := some st } }
    let c := (((c.setReg 0x141 dbgs).setReg 0x143 (skidWord (skids.take 6))).setReg 0x144 (skidWord (skids.drop 6))).setReg
      0x145 st.ss
    match addr with
    | some a => c.setReg 0x142 (BitVec.ofNat 64 a)
    | none => c
  let c := s.coreAt lcn
  s.trace lcn 0 3 [c.reg 0x141, c.reg 0x142, c.reg 0x143, c.reg 0x144]

/-- A pre-emption of the gang is due at this barrier: it completed at least 64 cycles after the request (R329). -/
def State.preemptDue (s : State) (d : Domain) : Bool :=
  d.key.level == 0 &&
  match s.gang? d.key.gang with
  | some g => g.gr.req && g.gr.reqAt + 64 ≤ d.barrierAt
  | none => false

/-- The gang is out of the set of active domains; its members write their checkpoints (R329, R330). -/
def State.takePreempt (s : State) (key : DomKey) : State :=
  let s := s.updGang key.gang fun g => { g with active := false, gr := { g.gr with st := 1, progress := 0 } }
  (s.domCores key).foldl (fun s l =>
    (s.updCoreAt l fun c => { c.setReg 0x185 0 with blocks := [] }).writeCheckpoint l) s

/-- A precise stop is due at this barrier (R345): the members whose PREQ is set, where one was set 64 cycles before. -/
def State.preciseDue (s : State) (key : DomKey) : List Nat :=
  let asked := (s.domCores key).filter fun l => bit ((s.coreAt l).reg 0x140) 61
  if asked.any fun l => (s.coreAt l).dbg.preqAt + 64 ≤ (s.dom key).barrierAt then asked else []

/-- A precise stop is taken: every member halts with zero skid, and the domain is parked. -/
def State.takePrecise (s : State) (key : DomKey) (due : List Nat) : State :=
  let st : Stop := { scope := 3, tlcn := s.lcnShown ((leastOf due).getD 0), ss := BitVec.ofNat 64 (s.dom key).sstep, rets := [] }
  let dbgs := 3 * 2 ^ 62 + 3 * 2 ^ 59 + st.tlcn % 4096 * 2 ^ 32
  let s := (s.domCores key).foldl (fun s l =>
    (s.haltCore l (BitVec.ofNat 64 (dbgs + bits ((s.coreAt l).reg 0x141) 0 16)) st none []).updCoreAt l fun c =>
      c.setReg 0x140 (withBits (c.reg 0x140) 61 1 0)) s
  s.updDom key fun d => { d with parked := true }

/-- A domain whose exchange phase has ended: pre-emption, precise stop, or its next compute phase. -/
def State.passBarrier (s : State) (key : DomKey) : State :=
  let s := s.finishExchange key
  if s.preemptDue (s.dom key) then s.takePreempt key
  else
    match s.preciseDue key with
    | [] => s
    | due => s.takePrecise key due

/-! ## The map generation (R379) -/

/-- A logical tower that has moved to a spare site starts with an empty dome and scratchpads, its cores reset (R333). -/
def State.emptyTower (s : State) (t : Nat) : State :=
  let lo := s.domePA t 0
  let a := s.scratchPA (8 * t) 0
  { s with
    mem := s.mem.filter fun e => !((lo ≤ e.1 && e.1 < lo + 0x4000000) || (a ≤ e.1 && e.1 < a + 0x400000))
    cores := (List.range 8).foldl (fun cs c => Tab.erase cs (8 * t + c)) s.cores }

/-- A site changed. -/
def State.updSite (s : State) (n : Nat) (f : Site → Site) : State :=
  { s with fab := { s.fab with sites := Tab.put s.fab.sites n (f (s.site n)) } }

/-- The site across a side, where one lies there; a side of the plinth's edge has a turret port (R385, R387). -/
def across (n side : Nat) : Option Nat :=
  let px := n % 18
  let py := n / 18
  match side with
  | 0 => if px = 0 then none else some (n - 1)
  | 1 => if py = 0 then none else some (n - 18)
  | 2 => if px = 17 then none else some (n + 1)
  | 3 => if py = 17 then none else some (n + 18)
  | _ => none

/-- The same bond seen from the other end: west and east, south and north. -/
def otherSide (side : Nat) : Nat := (side + 2) % 4

/-- A bond decided at one end in a step. -/
def Site.decide (x : Site) (side : Nat) (up : Bool) (t : Nat) : Site :=
  let b : BitVec 4 := BitVec.ofNat 4 (2 ^ side)
  { x with decided := x.decided ||| b, absent := if up then x.absent &&& ~~~b else x.absent ||| b, decidedAt := max x.decidedAt t }

/-- A bond decided at both ends. -/
def State.decideBond (s : State) (n side : Nat) (up : Bool) (t : Nat) : State :=
  let s := s.updSite n fun x => x.decide side up t
  match across n side with
  | some m => s.updSite m fun x => x.decide (otherSide side) up t
  | none => s

/-- Every undecided bond of a site, or with `all` every bond, marked absent at both ends (R380, R387). -/
def State.dropBonds (s : State) (n : Nat) (all : Bool) (t : Nat) : State :=
  (List.range 4).foldl (fun s side => if all || !(s.site n).decided.getLsbD side then s.decideBond n side false t else s) s

/-- A site that trains no bond: it carries no tower, or its tower is FAILED or RETIRED (R387). -/
def Site.noPeer (x : Site) : Bool := x.st == 4 || (x.bs == 8 || x.bs == 9)

/-- The bonds of a site that face one that trains none, marked absent at once (R387). -/
def State.facing (s : State) (n t : Nat) : State :=
  (List.range 4).foldl (fun s side =>
    match across n side with
    | some m => if (s.site m).noPeer then s.decideBond n side false t else s
    | none => s) s

/-- A site of the generation that takes effect (R379, R380): a retired site's routers are off and its bonds absent; one
returned to the spares is DARK; a logical tower placed at a DARK site has it brought up, the wavefront reaching it from the
first neighbour that has locked (DESIGN CHOICE, log entry 26). -/
def State.changeSite (s : State) (c : SiteChange) : State :=
  let t := s.fab.bstep
  let s := s.updSite c.site fun x => { x with st := c.st, lt := c.lt }
  let x := s.site c.site
  if c.st = 2 then s.dropBonds c.site true t
  else if c.st = 1 then
    (s.updSite c.site fun x => { x with bs := 0, step := 0, side := 0, turret := 0, decided := 0, waves := [], passed := false }).facing
      c.site t
  else if c.st = 0 ∧ x.bs = 0 ∧ x.waves = [] then
    let from' := (List.range 4).filterMap fun d => (across c.site d).bind fun m =>
      let y := s.site m
      if 2 ≤ y.bs ∧ y.bs ≤ 7 then some (t, d, y.turret) else none
    s.updSite c.site fun x => { x with waves := from'.take 1 }
  else s

/-- The generation issued takes effect in every mesh interface together: sites, MAPGEN, the service layout (R376, R379). -/
def State.applyMap (s : State) : State :=
  if s.fab.pendingMap.isEmpty then s
  else
    let moved := s.fab.pendingMap.filter fun c => c.st == 0 && s.siteOf c.lt != some c.site
    let s := s.fab.pendingMap.foldl State.changeSite s
    let s := moved.foldl (fun s c => s.emptyTower c.lt) s
    { s with
      fab := { s.fab with pendingMap := [], mapgen := s.fab.mapgen + 1, laid := some s.fab.sites, turned := true }
      towers := Tab.mapEntries (fun _ t => { t with ns := [] }) s.towers }

/-- A partner whose link is down holds the compute window until it is removed from the group (R419). -/
def Fabric.holds (f : Fabric) (m : Nat) : Bool :=
  match f.newGroup with | some (n, _) => (Config.windowPosition n m).isSome | none => true

/-- The window group lets the compute window open (R419): no partner whose link is down is still of the group, and the barrier of
this close is over: every round's token has been sent and, but for that of a partner being removed, has arrived (DEDUCED, log
entry 27). -/
def State.groupReady (s : State) : Bool :=
  let f := s.fab
  f.gsz ≤ 1 || (!f.lost.any f.holds && (f.sentRounds == rounds f.gsz && (List.range (rounds f.gsz)).all f.roundOver))

/-- The tokens of a barrier are used as its window opens. -/
def State.useTokens (s : State) : State :=
  { s with fab := { s.fab with
    tokens := (List.range (rounds s.fab.gsz)).foldl (fun l r => l.erase r) s.fab.tokens, sentRounds := 0 } }

/-- COMPUTE_WINDOW_OPEN (R146, R147, R150, R379, R419). -/
def execComputeWindowOpen (s : State) : Out :=
  if s.arb.win ≠ .turnC ∨ s.arb.stopped = true ∨ s.groupReady = false then .next s
  else
    let s := s.useTokens.applyMap
    let s := (s.activeDoms.filter (·.entered)).foldl (fun s d => s.passBarrier d.key) s
    let s := { s with arb := { s.arb with win := .compute, winAt := s.clock } }
    let s := s.activeDoms.foldl (fun s d => s.updDom d.key fun d =>
      if d.done then { d with carried := false }
      else { d with spent := false, carried := false, since := if d.carried then s.clock - d.since else s.clock }) s
    .next (s.beginDone.windowCheck)

/-! ## Budgets (R148, R149) -/

/-- The budgets of a domain: those of its gang. -/
def State.budgets (s : State) (d : Domain) : Nat × Nat :=
  match s.gang? d.key.gang with
  | some g => (g.cbud, g.xbud)
  | none => (0, 0)

/-- COMPUTE_BUDGET_SPENT (R148): counted from the domain's phase start or the window's opening, whichever is later. -/
def execComputeBudgetSpent (dom : DomKey) (s : State) : Out :=
  let d := s.dom dom
  if s.arb.win = .compute ∧ s.isActive d = true ∧ d.done = false ∧ d.dph = 0 ∧ d.spent = false ∧
      d.since + (s.budgets d).1 ≤ s.clock then
    .next ((s.updDom dom fun d => { d with spent := true }).windowCheck)
  else .next s

/-- EXCHANGE_BUDGET_SPENT (R149): counted from the window's opening. -/
def execExchangeBudgetSpent (dom : DomKey) (s : State) : Out :=
  let d := s.dom dom
  if s.arb.win = .exchange ∧ s.isActive d = true ∧ d.entered = true ∧ d.dph = 2 ∧ d.spent = false ∧
      d.since + (s.budgets d).2 ≤ s.clock then
    .next ((s.updDom dom fun d => { d with spent := true }).windowCheck)
  else .next s

/-! ## Domain registers (R142) -/

/-- DRECT_WRITE (R142): a supervisor's SETS of drect1 to drect3; one that R142 refuses writes nothing. -/
def execDrectWrite (lcn level : Nat) (v : BitVec 64) (s : State) : Out :=
  .next (if 1 ≤ level ∧ level ≤ 3 then s.supWrite lcn (0x048 + level) v else s)

/-- DMEM_WRITE (R142): a supervisor's SETS of dmem; it takes effect at the core's next compute-phase start. -/
def execDmemWrite (lcn : Nat) (v : BitVec 64) (s : State) : Out :=
  .next (s.supWrite lcn 0x048 v)

end Sys2Proof.Machine
end

