-- ==== Sys2Proof/Machine/Traps.lean ====
section
/-!
DEFINITION. The delivery of traps at instruction boundaries (R31, R127, R129, R254, R310 to R312), supervisor calls and
returns (R32, R95, R128, R313), and the stop of a core by HALT, by its gang's end, or by core reset (R35, R96, R314).
-/

namespace Sys2Proof.Machine

/-! ## Boundaries (R51, R129) -/

/-- The context stands at an instruction boundary at which a trap can land: it is live and not held, its older instructions
have completed, no hint has just been issued, and what it waits on can be abandoned (R129). -/
def State.trapOpen (s : State) (lcn k : Nat) : Bool :=
  let c := s.coreAt lcn
  let x := c.ctx k
  x.live && (!x.halted && (decide (x.st ≠ .suspended) && (x.late.isEmpty && ((k != 0 || c.mat.queue.isEmpty) &&
    (!c.mem.held && (!x.amidPair && (x.signalled.isNone && (x.appended == 0 &&
      (x.wait != some .proxy && !s.fab.flushing.any (fun f => f.lcn == lcn && f.k == k))))))))))

/-- The control context can take an imprecise cause or a helper's trap. -/
def State.controlOpen (s : State) (lcn : Nat) : Bool := s.trapOpen lcn 0 && !(s.coreAt lcn).ta

/-- TRAP_ENTRY (R31, R33): the control context takes a trap once its older instructions have completed. An imprecise one
waits for TA = 0. -/
def execTrapEntry (lcn : Nat) (cause : BitVec 8) (info : BitVec 64) (imp : Bool) (s : State) : Out :=
  let c := s.coreAt lcn
  let x := c.ctx 0
  let ep := if cause = 0x11 then x.pc + 4 else x.faultPc
  if imp then .next (if s.controlOpen lcn then s.trapAt lcn 0 cause info true ep else s)
  else if x.live && (!x.halted && (!c.mem.held && (x.late.isEmpty && c.mat.queue.isEmpty))) then
    .next (s.trapAt lcn 0 cause info false ep)
  else .next s

/-! ## Imprecise causes (R254, R311, R312) -/

/-- The order in which pending causes are taken. -/
def impreciseOrder : List Nat := [0x0E, 0x0D, 0x0C, 0x13, 0x12, 0x0F]

/-- tinfo of a store-fault trap, and the state with SKID in its record: the position of a record already removed is left open
(log entry 2). -/
def State.storeInfo (s : State) (lcn : Nat) (t : StoreTrap) : Word × State :=
  let c := s.coreAt lcn
  let pos := c.sfq.findIdx? fun r => r.seq == t.seq
  let skid := fun (r : SfRec) =>
    let x := c.ctx r.ctx
    let upTo := if x.born < r.retired ∨ r.ctx = 0 then x.retired else x.born
    satNat (upTo - r.retired) 65535
  let s := s.updCoreAt lcn fun c =>
    { c with sfq := mapIf (fun r => r.seq == t.seq) (fun r => { r with info := withBits r.info 48 16 (skid r) }) c.sfq
             pend := { c.pend with stores := c.pend.stores.filter fun x => x.seq ≠ t.seq } }
  match pos with
  | some p => (BitVec.ofNat 64 (p % 8 * 2 ^ 48 + t.va.toNat), s)
  | none =>
    let (n, s) := s.fresh
    (BitVec.ofNat 64 (Config.freeIndex n % 8 * 2 ^ 48 + t.va.toNat), s)

/-- A store-fault trap delivered to the context it is for. -/
def State.takeStore (s : State) (lcn : Nat) (t : StoreTrap) : State :=
  let ep := ((s.coreAt lcn).ctx t.ctx).faultPc
  let (info, s) := s.storeInfo lcn t
  s.trapAt lcn t.ctx 0x06 info true ep

/-- The imprecise cause that the control context takes next, other than a helper's trap. -/
def Core.nextCause (c : Core) : Option (Nat × Word) :=
  impreciseOrder.findSome? fun n => (Tab.find? c.pend.causes n).map fun i => (n, i)

/-- The next store-fault trap that a context can take; none during a HALT that raises none (R96). -/
def State.nextStore (s : State) (lcn : Nat) : Option StoreTrap :=
  if (s.coreAt lcn).haltsMute then none
  else (s.coreAt lcn).pend.stores.find? fun t => if t.ctx = 0 then s.controlOpen lcn else s.trapOpen lcn t.ctx

/-- IMPRECISE_TRAP_TAKEN (R312): the control context takes the first pending cause of the order at a boundary with TA = 0;
store faults come last, each for the context that stored. -/
def execImpreciseTrapTaken (lcn : Nat) (s : State) : Out :=
  let c := s.coreAt lcn
  match (if s.controlOpen lcn then c.nextCause else none), s.nextStore lcn with
  | some (n, info), _ =>
    let ep := (c.ctx 0).faultPc
    let t := s.updCoreAt lcn fun c => { c with pend := { c.pend with causes := Tab.erase c.pend.causes n } }
    .next (t.trapAt lcn 0 (BitVec.ofNat 8 n) info true ep)
  | none, some t => .next (s.takeStore lcn t)
  | none, none => .next s

/-- HELPER_TRAP_ENTRY (R127): the oldest pending trap of a suspended helper, once nothing of R312 comes before it. -/
def execHelperTrapEntry (lcn : Nat) (s : State) : Out :=
  let c := s.coreAt lcn
  match c.pend.helpers with
  | [] => .next s
  | t :: rest =>
    if !s.controlOpen lcn || (c.nextCause.isSome || c.pend.stores.any (fun t => t.ctx == 0)) then .next s
    else
      let x := c.ctx 0
      let s := s.updCoreAt lcn fun c =>
        { c.setReg 0x046 (BitVec.ofNat 64 (x.priv.toNat * 2 ^ 48 + x.faultPc.toNat / 4 * 4)) with
          pend := { c.pend with helpers := rest } }
      .next (s.enterControl lcn t.cause t.info t.h (c.ctx t.h).priv t.imp t.ep)

/-! ## The stop of a core (R35, R96, R121, R143, R314) -/

/-- What is still due to the control context of a core goes on for no context. -/
def State.forsake (s : State) (lcn : Nat) : State :=
  { s with fab := { s.fab with
    flushing := mapIf (fun f => f.lcn == lcn && f.k == 0) (fun f => { f with k := 11 }) s.fab.flushing
    proxies := mapIf (fun o => o.lcn == lcn && o.k == 0) (fun o => { o with k := 11 }) s.fab.proxies } }

/-- Every context of a core stops: the control context is STOPPED, every helper FREE; results still due are discarded. -/
def State.stopCore (s : State) (lcn : Nat) : State :=
  ((s.killHelpers lcn).forsake lcn).updCoreAt lcn fun c =>
    { c.updCtx 0 (fun x =>
        { x.become .stopped s.clock with wait := none, hint := Hint.none, late := [], signalled := none, appended := 0 }) with
      mail := Tab.erase c.mail 0
      pend := { c.pend with helpers := [], stores := [] } }

/-- What follows for the barriers and windows of a core's domain. -/
def State.settleCore (s : State) (lcn : Nat) : State := (s.domCheck (s.coreAt lcn).domKey).windowCheck

/-- A stopped core's entries drain; one that waits on a mailbox is abandoned, and after a fault the rest is discarded (R314).
What a footprint holds drains later. -/
def State.emptyStores (s : State) (lcn : Nat) : Nat → State
  | 0 => s
  | n + 1 =>
    let c := s.coreAt lcn
    if c.hold then s.updCoreAt lcn fun c => { c with sb := [], hold := false, mail := Tab.erase c.mail 11 }
    else
      match c.sb with
      | [] => s
      | e :: _ =>
        let skip := fun (s : State) => (s.updCoreAt lcn fun c =>
          { c with sb := c.sb.tail, mail := Tab.erase c.mail 11 }).emptyStores lcn n
        if (Tab.find? c.mail 11).isSome then skip s
        else
          match s.headPlaces lcn e with
          | (.absent _, s) => skip s
          | (.fault _ r, s) => s.drainFault lcn 0x05 r
          | (.ok frames, s) =>
            match s.drainHead lcn e frames with
            | (.done, s) => s.emptyStores lcn n
            | (_, s) => s

/-- A member core stopped by the dispatcher: its helpers are killed, its store buffer empties as R314 says, its stream
bindings are released. -/
def State.endCore (s : State) (lcn : Nat) : State :=
  let s := s.stopCore lcn
  let s := s.emptyStores lcn ((s.coreAt lcn).sb.length + 1)
  (s.updCoreAt lcn fun c => (List.range 4).foldl Core.unbind c).updCoreAt lcn fun c => { c with streams := [] }

/-- HALT completes (R96): every context stops, and the message goes to the belfry core. -/
def State.finishHalt (s : State) : State :=
  let pc := s.cx.pc + 4
  let lcn := s.lcn
  let s := s.retire.updCore fun c => { c with sb := [], hold := false, mail := Tab.erase c.mail 11 }
  ((s.stopCore lcn).postBelfry lcn (.halt lcn pc)).settleCore lcn

/-- HALT (R96); `final`, the RETT of R313. Its wait for the store buffer ends in a store-fault trap where a fault appears while
TA = 0, HOLD being 0 when it issued; otherwise what stands behind a hold is discarded. A fault that finds the record queue full
posts no trap (R253), and the HALT then stops the core (DEDUCED, log entry 78). -/
def State.haltStep (s : State) (final : Bool) : State :=
  let c := s.core
  let mute := match s.cx.wait with | some (.halt m) => m | _ => final || c.hold
  if !s.coreQuiet s.lcn then s.stall (.halt mute)
  else if c.hold then
    if !mute && (!c.ta && !(c.pend.stores.isEmpty && c.pend.helpers.isEmpty)) then s.stall (.halt mute)
    else s.finishHalt
  else if c.sb.isEmpty then s.finishHalt
  else s.stall (.halt mute)

/-- HALT (R96). -/
def execHalt (s : State) : Out := issue .halt s fun s => s.haltStep false

/-- The trap being handled is a fatal 0x0E (R313): as entered, or as tcause and tinfo stand. -/
def Core.fatal (c : Core) : Bool := c.pend.fatal || (c.reg 0x009 == 0x0E && bit (c.reg 0x00B) 63)

/-- RETT (R32, R128, R313). -/
def execRett (s : State) : Out :=
  issue .rett s fun s =>
    if s.core.fatal then s.haltStep true
    else if s.olderPending then s.stall .older
    else s.updCore fun c => c.returnTrap.countEvent 2 (some 0) 1

/-- CALLSV (R95). -/
def execCallsv (n : BitVec 16) (s : State) : Out := issue (.callsv n) s fun s => s.trapNext 0x11 (n.setWidth 64)

/-- CORE_RESET (R35): every context stops and every register takes its reset value (log entry 5); the core stays in its gang,
and records the operator stream already holds stay. A number of no core of the tenant array (R6) resets nothing. -/
def execCoreReset (lcn : Nat) (s : State) : Out :=
  if !s.isCore lcn then .next s else
  let s := (s.killHelpers lcn).forsake lcn
  let s := (s.updTowerAt (towerOf lcn) (·.dropPhasers lcn 0)).updCoreAt lcn fun c =>
    { Core.reset with
      mem := { Core.reset.mem with gang := c.mem.gang, shown := c.mem.shown, dmem := c.mem.dmem, drect := c.mem.drect }
      trace := { Core.reset.trace with operator := c.trace.operator } }
  .next (s.settleCore lcn)

/-- HELPER_KILL (R126): a SETS of ctxs with the KILL bit of helper h. -/
def execHelperKill (lcn h : Nat) (s : State) : Out := .next (s.killHelper lcn h)

end Sys2Proof.Machine
end

