-- ==== Sys2Proof/Machine/Translation.lean ====
section
/-!
DEFINITION. Invalidation and retirement of translations (R249, R250), and page migration (R256, R275).
-/

namespace Sys2Proof.Machine

/-! ## Invalidation (R249, R250) -/

/-- Which cached entries an invalidation drops. -/
structure Drop where
  part : Nat
  asid : Option (BitVec 10)
  va : Option Nat
deriving DecidableEq, Repr

/-- A TLB entry is dropped. -/
def Drop.tlb (d : Drop) (e : TlbEnt) : Bool :=
  e.part == d.part && ((match d.asid with | some n => e.asid == n | none => true) &&
    (match d.va with | some a => e.vpn.toNat == a / 2 ^ 18 | none => true))

/-- A walk-cache entry is dropped: by address, those on the walk of the page. -/
def Drop.walk (d : Drop) (e : WalkEnt) : Bool :=
  e.part == d.part && ((match d.asid with | some n => e.asid == n | none => true) &&
    (match d.va with | some a => e.index == (if e.level = 0 then a / 2 ^ 36 else a / 2 ^ 27) | none => true))

/-- The matching entries of every TLB and walk cache of the module are dropped. -/
def State.dropEntries (s : State) (d : Drop) : State :=
  { s with
    cores := Tab.mapEntries (fun _ c => { c with tlb := c.tlb.filter fun e => !d.tlb e }) s.cores
    towers := Tab.mapEntries (fun _ t => { t with walk := t.walk.filter fun e => !d.walk e }) s.towers }

/-- Transfers of a partition's cores that hold translated addresses: all but the footprints of stream bindings, whose tiles are
translated as they are read. -/
def State.transfersOf (s : State) (part : Nat) : List (Nat × Nat) :=
  s.cores.flatMap fun e =>
    if s.partOf e.1 = part then
      (e.2.fps.filter (fun f => match f.op with | .sbind _ => false | _ => true)).map fun f => (e.1, f.id)
    else []

/-- Queued drains of a partition's cores that hold translated addresses. -/
def State.drainsOf (s : State) (part : Nat) : List (Nat × Nat) :=
  s.cores.flatMap fun e =>
    if s.partOf e.1 = part then (e.2.mat.queue.filter MatOp.drains).map fun o => (e.1, o.seq) else []

/-- The invalidation of the context whose turn it is, if its entries have been dropped. -/
def State.flush? (s : State) : Option Flush := s.fab.flushing.find? fun f => f.lcn == s.lcn && f.k == s.k

/-- The wait of an invalidation: it completes once every access that used a dropped entry has performed; one whose context is
gone is forgotten then. -/
def State.flushWait (s : State) (f : Flush) : State :=
  if !s.flushDone f then s.stall .drain
  else { s with fab := { s.fab with flushing := s.fab.flushing.filter fun x => x ≠ f && !(x.k == 11 && s.flushDone x) } }.retire

/-- An invalidation begins: entries are dropped, and what used them is awaited. -/
def State.flushBegin (s : State) (d : Drop) (retired : Option (BitVec 10)) : State :=
  let f : Flush :=
    { lcn := s.lcn, k := s.k, part := d.part, asid := retired, fps := s.transfersOf d.part,
      ops := (s.fab.proxies.filter fun o => s.partOf o.lcn == d.part).map (·.id), drains := s.drainsOf d.part }
  let s := s.dropEntries d
  { s with fab := { s.fab with flushing := s.fab.flushing ++ [f] } }.flushWait f

/-- TLBINV (R249): it waits for the context's stores, drops entries and waits for what used them. `d` is none where nothing is
dropped. -/
def tlbinv (i : Instr) (d : State → Option Drop) (s : State) : Out :=
  issue i s fun s =>
    match s.flush? with
    | some f => s.flushWait f
    | none =>
      if s.olderPending || s.drainsFirst then s.stall .drain
      else
        match d s with
        | some d => s.flushBegin d none
        | none => s.retire

/-- TLBINV by address (R249). -/
def execTlbinvVa (a b : BitVec 5) (s : State) : Out :=
  tlbinv (.tlbinvVa a b) (fun s =>
    let va := (s.g a).toNat
    if va < 0x100000000 then none
    else some { part := s.partOf s.lcn, asid := some (BitVec.ofNat 10 (bits (s.g b) 0 10)), va := some va }) s

/-- TLBINV by ASID (R249). -/
def execTlbinvAsid (b : BitVec 5) (s : State) : Out :=
  tlbinv (.tlbinvAsid b) (fun s =>
    some { part := s.partOf s.lcn, asid := some (BitVec.ofNat 10 (bits (s.g b) 0 10)), va := none }) s

/-- TLBINV of the whole partition (R249). -/
def execTlbinvPart (s : State) : Out :=
  tlbinv .tlbinvPart (fun s => some { part := s.partOf s.lcn, asid := none, va := none }) s

/-- An ASID is unbound on every core of a partition, and buffered stores that carry it lose their address space. -/
def State.unbindAsid (s : State) (part : Nat) (n : BitVec 10) : State :=
  { s with cores := Tab.mapEntries (fun l c =>
      if s.partOf l = part then
        { (if c.bound = some n then c.setReg 0x080 (withBits (c.reg 0x080) 63 1 0) else c) with
          sb := mapIf (fun e => e.asid == n) (fun e => { e with bound := false }) c.sb }
      else c) s.cores }

/-- TLBRETIRE (R250): one of the same ASID waits for an earlier one. -/
def execTlbretire (a : BitVec 5) (s : State) : Out :=
  issue (.tlbretire a) s fun s =>
    match s.flush? with
    | some f => s.flushWait f
    | none =>
      let n := BitVec.ofNat 10 (bits (s.g a) 0 10)
      let p := s.partOf s.lcn
      if s.olderPending || s.asidBusy p n then s.stall .drain
      else (s.unbindAsid p n).flushBegin { part := p, asid := some n, va := none } (some n)

/-! ## Registers written by an event -/

/-- XLAT_WRITE (R243): once every older instruction of the core has completed. -/
def execXlatWrite (lcn : Nat) (v : BitVec 64) (s : State) : Out :=
  .next (if s.coreQuiet lcn then s.supWrite lcn 0x080 v else s)

/-- PSPACE_WRITE (R400). -/
def execPspaceWrite (lcn : Nat) (v : BitVec 64) (s : State) : Out := .next (s.supWrite lcn 0x1A3 v)

/-- SFQ_POP (R242). -/
def execSfqPop (lcn : Nat) (s : State) : Out := .next (s.supWrite lcn 0x088 8)

/-- SBST_HOLD_CLEAR (R253). -/
def execSbstHoldClear (lcn : Nat) (s : State) : Out := .next (s.supWrite lcn 0x090 256)

/-! ## Migration (R256, R275) -/

/-- The engine of a frame: the mesh interface of a dome's tower, or the far-memory controller; none for other frames. -/
def State.migEngine (s : State) (frame : Nat) : Option Nat :=
  match s.place (frame * 2 ^ 18) with
  | .dome t _ => some t
  | .far _ => some Config.towers
  | _ => none

/-- MIGRATION_START (R256): the engine at the old home takes the page of a present leaf that is not pinned, where it has fewer
than eight migrations. -/
def execMigrationStart (mig part : Nat) (asid : BitVec 10) (leaf : BitVec 56) (frame : BitVec 38) (s : State) : Out :=
  let v := s.wordAt leaf.toNat
  let old := bits v 18 38
  let engine := s.migEngine old
  let same := s.fab.migs.filter fun m => s.migEngine m.old.toNat == engine
  if !s.backed part leaf.toNat || (!bit v 0 || (bit v 6 || (engine.isNone || (8 ≤ same.length ||
      (s.migEngine frame.toNat).isNone || (s.fab.migs.any (fun m => m.id == mig || m.old.toNat == old)))))) then .next s
  else
    let m : Migration := { id := mig, part := part, asid := asid, leaf := leaf, old := BitVec.ofNat 38 old, new := frame, copied := 0 }
    .next { s with fab := { s.fab with migs := s.fab.migs ++ [m] } }

/-- MIGRATION_LINE_COPY (R256, R275): the next line in ascending order, with the partials held for it. -/
def execMigrationLineCopy (mig : Nat) (s : State) : Out :=
  match s.fab.migs.find? (fun m => m.id == mig) with
  | none => .next s
  | some m =>
    if 2048 ≤ m.copied then .next s
    else
      let src := m.old.toNat * 2 ^ 18 + 128 * m.copied
      let dst := m.new.toNat * 2 ^ 18 + 128 * m.copied
      let data := s.bytesAt src 128
      let migs := mapIf (fun x => x.id == mig) (fun x => { x with copied := x.copied + 1 }) s.fab.migs
      let move := fun (l : SentLine) => { l with line := { l.line with home := dst } }
      let sent := mapIf (fun l => l.arrived && l.line.home == src) move s.arb.sent
      let s := { s with fab := { s.fab with migs := migs }, arb := { s.arb with sent := sent } }
      .next (s.placeBytes dst data)

/-- A transfer in flight, a combining line, a queued drain or a proxied atomic holds an address of a frame. -/
def State.frameInUse (s : State) (frame : Nat) : Bool :=
  let inFrame := fun (r : Nat × Nat) => r.2 != 0 && (r.1 / 2 ^ 18 ≤ frame && frame ≤ (r.1 + r.2 - 1) / 2 ^ 18)
  s.cores.any (fun e => e.2.fps.any fun f => match f.op with
    | .sbind _ => false
    | _ => f.rd.any inFrame || (f.wr.any inFrame || f.far.any inFrame)) ||
  s.cores.any (fun e => e.2.mat.queue.any fun o => match o.a with
    | .dest _ _ frames _ => frames.any fun f => f.2 / 2 ^ 18 == frame
    | _ => false) ||
  s.cores.any (fun e => e.2.comb.any fun l => l.home / 2 ^ 18 == frame) ||
  s.arb.sent.any (fun l => l.line.home / 2 ^ 18 == frame) ||
  s.fab.proxies.any fun o => o.pa.toNat / 2 ^ 18 == frame && (match o.st with | .queued | .sent => true | _ => false)

/-- MIGRATION_REMOVE (R256): after the last line the service writes the new frame into the leaf and drops the page's TLB
entries; once every access by the old frame has performed, forwarding ends. -/
def execMigrationRemove (mig : Nat) (s : State) : Out :=
  match s.fab.migs.find? (fun m => m.id == mig) with
  | none => .next s
  | some m =>
    if m.copied < 2048 || s.frameInUse m.old.toNat then .next s
    else
      let leaf := withBits (s.wordAt m.leaf.toNat) 18 38 m.new.toNat
      let s := s.placeBytes m.leaf.toNat (leBytes 8 leaf.toNat)
      let gone := fun (e : TlbEnt) => e.part == m.part && (e.asid == m.asid && e.ppn == m.old)
      .next { s with
        cores := Tab.mapEntries (fun _ c => { c with tlb := c.tlb.filter fun e => !gone e }) s.cores
        fab := { s.fab with migs := s.fab.migs.filter fun x => x.id ≠ mig } }

end Sys2Proof.Machine
end

