-- ==== Sys2Proof/Machine/System.lean ====
section
/-!
DEFINITION. System registers by instruction (R20, R21, R94, R243), capabilities (R381, R382), and the union of flags (R110).
-/

namespace Sys2Proof.Machine

/-- A refused access of R20. -/
def State.srRefused (s : State) (i : Instr) (f : SrFail) : State :=
  match f with
  | .illegal => s.trapWord 0x01 i
  | .privilege => s.trapWord 0x02 i

/-- The counter advanced past a free value that a register showed. -/
def State.shown (s : State) (n : Nat) : State := if srFree n then { s with tick := s.tick + 1 } else s

/-- GETS (R94), after the checks of R20 and the wait of R21. -/
def execGets (d : BitVec 5) (n : BitVec 12) (s : State) : Out :=
  issue (.gets d n) s fun s =>
    let sup := s.cx.priv != 0
    match srCheck n.toNat (s.k != 0) sup none with
    | some f => s.srRefused (.gets d n) f
    | none =>
      if s.olderPending then s.stall .older
      else ((s.shown n.toNat).setG d (s.srRead s.lcn s.k n.toNat sup)).retire

/-- SETS (R94), after the checks of R20 and the wait of R21; a value that the register's own rule refuses takes cause 0x01. A
SETS of xlat waits for the older instructions of the whole core (R243). -/
def execSets (d : BitVec 5) (n : BitVec 12) (s : State) : Out :=
  issue (.sets d n) s fun s =>
    let sup := s.cx.priv != 0
    let v := s.g d
    match srCheck n.toNat (s.k != 0) sup (some v) with
    | some f => s.srRefused (.sets d n) f
    | none =>
      if s.olderPending || (n == 0x080 && !s.coreQuiet s.lcn) then s.stall .older
      else if n = 0x040 then (s.retire.srWrite s.lcn s.k n.toNat v sup).getD s
      else
        match s.srWrite s.lcn s.k n.toNat v sup with
        | none => s.trapWord 0x01 (.sets d n)
        | some t => t.retire

/-- CAPMINT (R382): the partition, its key and the map generation at issue. -/
def execCapmint (d a : BitVec 5) (s : State) : Out :=
  issue (.capmint d a) s fun s =>
    let f := s.g a
    if bits f 16 48 ≠ 0 then s.trap 0x0B f
    else
      let part := s.partOf s.lcn
      let c := f.toNat + part % 64 * 2 ^ 16 + s.fab.mapgen.toNat * 2 ^ 22
      (s.setG d (BitVec.ofNat 64 (sealOf (s.partAt part).key c * 2 ^ 38 + c))).retire

/-- FLAGU_UPDATE (R110): the flags a core has raised are set in its field of flagu. -/
def execFlaguUpdate (lcn : Nat) (s : State) : Out := .next (s.flushFlags lcn)

end Sys2Proof.Machine
end

