-- ==== Sys2Proof/Machine/Debug.lean ====
section
/-!
DEFINITION. The debugger (R338 to R349, R420): stops, resumption, single steps, writes through the debug port, dumps (R334,
R335), and the trace unit with the disclosure policy (R353 to R358).
-/

namespace Sys2Proof.Machine

/-! ## Stops (R341 to R345) -/

/-- The instructions each context of a core has retired. -/
def Core.retiredAll (c : Core) : List Nat := (List.range 11).map fun k => (c.ctx k).retired

/-- Instructions that each context has retired since counts were taken: the skids (R342, R349). -/
def Core.skidsSince (c : Core) (rets : List Nat) : List Nat :=
  (List.range 11).map fun k => if (c.ctx k).st = .free then 0 else (c.ctx k).retired - nth 0 rets k

/-- The broadcast of a stop reaches the cores of its target: one already stopped, or about to, keeps its own. -/
def State.broadcast (s : State) (targets : List Nat) (scope tlcn : Nat) (ss : Option Word) : State :=
  targets.foldl (fun s l =>
    let c := s.coreAt l
    if c.dbg.halt || c.dbg.stop.isSome then s
    else
      let st : Stop := { scope := scope, tlcn := tlcn, ss := ss.getD (BitVec.ofNat 64 (s.domOf l).sstep), rets := c.retiredAll }
      s.setCoreAt l { c with dbg := { c.dbg with stop := some st } }) s

/-- The cores of a stop: of the core's synchronising domain, or of its gang; the core alone where it is in no gang. -/
def State.stopTargets (s : State) (lcn : Nat) (gang : Bool) : List Nat :=
  match s.gangOf lcn with
  | none => [lcn]
  | some g => if gang then g.occupied else s.domCores (s.coreAt lcn).domKey

/-- A core is neither halted nor about to be. -/
def Core.unstopped (c : Core) : Bool := !c.dbg.halt && c.dbg.stop.isNone

/-- A stop trigger of a core is to be accepted (R341): the core is not stopped, or the trigger's gang is not; one that finds its
target halted is taken off the core. While a step runs, the step's end comes first (R349). -/
def State.triggerDue (s : State) (lcn : Nat) : Bool :=
  let c := s.coreAt lcn
  match c.dbg.trigger with
  | none => false
  | some t =>
    if c.dbg.halt then c.dbg.step.isNone
    else c.dbg.stop.isNone || (t.gang && (s.stopTargets lcn true).any fun l => (s.coreAt l).unstopped)

/-- The stop of a trigger broadcast over its target. -/
def State.stopBy (s : State) (lcn : Nat) (t : Trigger) : State :=
  s.broadcast (s.stopTargets lcn t.gang) (b2n t.gang) (s.lcnShown lcn) (some (BitVec.ofNat 64 (s.domOf lcn).sstep))

/-- STOP_TRIGGER (R341): the event arbiter accepts a core's trigger, and the stop is broadcast. -/
def execStopTrigger (lcn : Nat) (s : State) : Out :=
  match (s.coreAt lcn).dbg.trigger with
  | none => .next s
  | some t =>
    if !s.triggerDue lcn then .next s
    else
      .next ((s.stopBy lcn t).updCoreAt lcn fun c =>
        if c.dbg.halt then { c with dbg := { c.dbg with trigger := none } } else c)

/-- Nothing of a core is between a hint and its instruction, and what it has issued has completed (R51, R342). -/
def Core.haltReady (c : Core) : Bool :=
  c.mat.queue.isEmpty && c.ctxs.all fun e => e.2.late.isEmpty && !e.2.amidPair

/-- dbgs of a halt: TK, NUM, AH and ALCN of the core's own trigger, or TK as given. -/
def dbgsWord (tr : Option Trigger) (tk tlcn steps : Nat) : Word :=
  match tr with
  | some t => BitVec.ofNat 64 (2 ^ 63 + t.tk % 8 * 2 ^ 59 + t.num % 4 * 2 ^ 57 + b2n t.ah * 2 ^ 56 + t.alcn % 4096 * 2 ^ 44 +
      tlcn % 4096 * 2 ^ 32 + steps % 65536)
  | none => BitVec.ofNat 64 (2 ^ 63 + tk * 2 ^ 59 + tlcn % 4096 * 2 ^ 32 + steps % 65536)

/-- The domain of a core leaves the set of active domains, and its budgets stop (R343). -/
def State.park (s : State) (key : DomKey) : State :=
  if (s.dom key).parked then s
  else
    (s.updDom key fun d =>
      { d with parked := true, carried := false, entered := false, since := if d.carried then d.since else s.clock - d.since }).windowCheck

/-- DEBUG_HALT (R341 to R343): a core that a stop broadcast has reached halts, once what it has issued has completed. -/
def execDebugHalt (lcn : Nat) (s : State) : Out :=
  let c := s.coreAt lcn
  match c.dbg.stop with
  | none => .next s
  | some st =>
    if c.dbg.halt || !c.haltReady then .next s
    else
      let dbgs := dbgsWord c.dbg.trigger (if st.scope = 2 then 6 else 5) st.tlcn (bits (c.reg 0x141) 0 16)
      let s := s.haltCore lcn dbgs st (c.dbg.trigger.bind (·.addr)) (c.skidsSince st.rets)
      .next (if c.mem.gang = 0 then s else s.park c.domKey)

/-- A context goes on after a debug halt: what counts its cycles has stood (R343). -/
def Ctx.goOn (x : Ctx) (clock : Nat) : Ctx :=
  if x.halted then { x with halted := false, liveFrom := clock, boostEnd := x.boostEnd + (clock - x.liveFrom) } else x

/-- A core's contexts go on in the states they held; HLT and PRC clear. -/
def State.freeCore (s : State) (lcn : Nat) : State :=
  s.updCoreAt lcn fun c =>
    let c := c.setReg 0x141 (withBits (c.reg 0x141) 62 2 0)
    { c with ctxs := Tab.mapEntries (fun _ x => x.goOn s.clock) c.ctxs
             dbg := { c.dbg with halt := false, stop := none, step := none, trigger := none } }

/-- A parked domain none of whose cores is halted any more rejoins the windows (R343, R345): in its compute phase the window
now open or the next, in its exchange phase the next; one held before its compute phase begins it at the next window. -/
def State.unpark (s : State) (key : DomKey) : State :=
  let d := s.dom key
  if !d.parked || (s.domCores key).any (fun l => (s.coreAt l).dbg.halt) then s
  else
    let s := s.updDom key fun d => { d with parked := false }
    if d.done then s.updDom key fun d => { d with carried := true }
    else if 2 ≤ d.dph then s
    else if s.arb.win = .compute then s.updDom key fun d => { d with since := s.clock - d.since }
    else s.updDom key fun d => { d with carried := true }

/-- Cores resume, and their domains with them. -/
def State.resumeCores (s : State) (cores : List Nat) : State :=
  let s := cores.foldl State.freeCore s
  let keys := distinctKeys ((cores.filter fun l => (s.coreAt l).mem.gang != 0).map fun l => (s.coreAt l).domKey)
  (keys.foldl State.unpark s).windowCheck

/-- RESUME (R344): a write of RES to a halted core; none where it is not halted or held by a module stop. -/
def State.resume (s : State) (lcn : Nat) : State :=
  let c := s.coreAt lcn
  match c.dbg.stop with
  | none => s
  | some st =>
    if !c.dbg.halt || (st.scope == 2 || s.arb.stopped) then s
    else s.resumeCores ((s.stopTargets lcn (st.scope == 1)).filter fun l => (s.coreAt l).dbg.halt)

/-- RESUME (R344). -/
def execResume (lcn : Nat) (s : State) : Out := .next (s.resume lcn)

/-- STOP_DOMAIN_REQUEST (R341): a write of dbgc.SREQ. -/
def execStopDomainRequest (lcn : Nat) (s : State) : Out :=
  .next (s.supWrite lcn 0x140 (withBits ((s.coreAt lcn).reg 0x140) 63 1 1))

/-- STOP_GANG_REQUEST (R341): a write of dbgc.GREQ. -/
def execStopGangRequest (lcn : Nat) (s : State) : Out :=
  .next (s.supWrite lcn 0x140 (withBits ((s.coreAt lcn).reg 0x140) 62 1 1))

/-- PRECISE_STOP_REQUEST (R345): a write of dbgc.PREQ. -/
def execPreciseStopRequest (lcn : Nat) (on : Bool) (s : State) : Out :=
  .next (s.supWrite lcn 0x140 (withBits ((s.coreAt lcn).reg 0x140) 61 1 (b2n on)))

/-- MODULE_STOP (R341): every core of a tower that serves, idle ones too; the windows stand. TLCN names no core (log entry 24). -/
def execModuleStop (s : State) : Out :=
  if s.arb.stopped then .next s
  else
    let all := (List.range (128 * s.rowsUp)).filter fun l => (Tab.find? s.cores l).isSome || s.towerServes (towerOf l)
    .next ({ s with arb := { s.arb with stopped := true } }.broadcast all 2 0xFFF none)

/-- A core is held by a module stop, or about to be. -/
def Core.moduleHeld (c : Core) : Bool := match c.dbg.stop with | some st => st.scope == 2 | none => false

/-- MODULE_STOP_END (R344). -/
def execModuleStopEnd (s : State) : Out :=
  if !s.arb.stopped then .next s
  else
    let s := { s with arb := { s.arb with stopped := false } }
    .next (s.resumeCores ((s.cores.filter fun e => e.2.moduleHeld).map (·.1)))

/-! ## Single steps (R349) -/

/-- A write of STP to a halted core releases the contexts it names; none where a precise or module stop holds the core. -/
def State.stepCore (s : State) (lcn : Nat) : State :=
  let c := s.coreAt lcn
  let ctl := c.reg 0x140
  let free : Bool := match c.dbg.stop with | some st => st.scope < 2 | none => false
  if !c.dbg.halt || (c.dbg.step.isSome || (!free || s.arb.stopped)) then s
  else
    s.setCoreAt lcn { c with
      ctxs := Tab.mapEntries (fun k x => if bit ctl (48 + k) then x.goOn s.clock else x) c.ctxs
      dbg := { c.dbg with step := some (BitVec.ofNat 11 (bits ctl 48 11), max 1 (bits ctl 0 16)), issued := 0, rets := [], trigger := none } }

/-- SINGLE_STEP (R349): a write of dbgc with STP, SMSK and SCNT. -/
def execSingleStep (lcn : Nat) (smsk : BitVec 11) (scnt : BitVec 16) (s : State) : Out :=
  let v := withBits (withBits ((s.coreAt lcn).reg 0x140) 48 11 smsk.toNat) 0 16 scnt.toNat
  .next ((s.supWrite lcn 0x140 v).stepCore lcn)

/-- A context that a step has released. -/
def Core.stepping (c : Core) (k : Nat) : Bool := match c.dbg.step with | some (m, _) => m.getLsbD k | none => false

/-- The next instruction of a context is one that a step does not cross. -/
def State.atBarrier (s : State) (lcn k : Nat) : Bool :=
  let s : State := { s with lcn := lcn, k := k }
  match s.wordHere with
  | some w => match decodeWord w with
    | .ok .stepX => true
    | .ok .stepC => true
    | .ok (.gnext _) => true
    | _ => false
  | none => false

/-- A step of the debugger is over. -/
def State.stepOver (s : State) (lcn : Nat) : Bool :=
  let c := s.coreAt lcn
  match c.dbg.step with
  | none => false
  | some (_, n) =>
    let out := (List.range 11).filter fun k => c.stepping k && (c.ctx k).st == .running
    n ≤ c.dbg.issued || (c.dbg.trigger.isSome || (out.isEmpty || out.any fun k => s.atBarrier lcn k))

/-- dbgs at the end of a step: TK 4 and STEPS over what the halt before it left, or the matching trigger's own (R349, R364). -/
def Core.stepWord (c : Core) (tlcn : Nat) : Word :=
  let n := satNat c.dbg.issued 65535
  match c.dbg.trigger with
  | some t => dbgsWord (some t) 4 tlcn n
  | none => withBits (withBits (withBits (c.reg 0x141) 0 16 n) 59 3 4) 63 1 1

/-- STEP_END (R349): the core halts again. The skids count from the issue that ended the step (DEDUCED, log entry 92); a trigger whose
target is the gang stops the rest of it. -/
def execStepEnd (lcn : Nat) (s : State) : Out :=
  let c := s.coreAt lcn
  match c.dbg.stop with
  | none => .next s
  | some st =>
    if !s.stepOver lcn || !c.haltReady then .next s
    else
      let t := s.haltCore lcn (c.stepWord st.tlcn) st (c.dbg.trigger.bind (·.addr)) (if c.dbg.rets.isEmpty then [] else c.skidsSince c.dbg.rets)
      .next (match c.dbg.trigger with | some g => if g.gang then t.stopBy lcn g else t | none => t)

/-! ## Writes through the debug port (R338, R420) -/

/-- An answer of the debug port or of firmware. -/
def State.answer (s : State) (status : Nat) (bytes : Tab Byte) : State :=
  { s with host := { s.host with reply := { status := status, bytes := bytes } } }

/-- An access through the port may reach register n of a core, or with none its record: the LCN names a core, of the partition that
the access names, or over the configuration path a register of R366 (R6, R338, R366). -/
def State.portReaches (s : State) (who : PortAccess) (lcn : Nat) (n : Option Nat) : Bool :=
  s.isCore lcn && match who with
    | .tenant p => s.partHeld lcn == some p
    | .operator p => s.partHeld lcn == some p
    | .config => n.any fun n => 0x190 ≤ n && n ≤ 0x198

/-- Register n is the copy of a context that is FREE. -/
def State.copyGone (s : State) (lcn k n : Nat) : Bool :=
  match srRow n with | some r => r.context && ((s.coreAt lcn).ctx k).st == .free | none => false

/-- REGISTER_WRITE (R420): checked as a SETS with supervisor rights would be, check 2 of R20 apart; refused, it changes nothing
and answers 1 (the operator's rights: log entry 25). -/
def execRegisterWrite (lcn k : Nat) (num : BitVec 12) (v : BitVec 64) (who : PortAccess) (s : State) : Out :=
  let n := num.toNat
  match srCheck n false true (some v) with
  | some _ => .next (s.answer 1 [])
  | none =>
    if !s.portReaches who lcn (some n) || s.copyGone lcn k n then .next (s.answer 1 [])
    else
      match s.srWrite lcn k n v true with
      | none => .next (s.answer 1 [])
      | some t =>
        let t := if n = 0x140 ∧ bit v 60 = true then t.resume lcn else t
        .next ((if n = 0x140 ∧ bit v 59 = true then t.stepCore lcn else t).answer 0 [])

/-- PREEMPT_REQUEST (R329): a supervisor's SETS of pmreq. -/
def execPreemptRequest (lcn : Nat) (v : BitVec 64) (s : State) : Out := .next (s.supWrite lcn 0x180 v)

/-! ## What the operator sees (R355 to R358) -/

/-- The counted values of R351 among the registers. -/
def countedReg (n : Nat) : Bool :=
  n == 0x003 || ((0x054 ≤ n && n ≤ 0x057) || (n == 0x0C3 || (n == 0x0C8 || (0x158 ≤ n && n ≤ 0x15F))))

/-- A counted value as the operator reads it: `v`, the live value. -/
def State.operatorCounted (s : State) (lcn n : Nat) (v : Word) : Word :=
  match (s.policy lcn).toNat % 4 with
  | 0 => v
  | 3 => 0
  | _ => Tab.get 0 (s.coreAt lcn).trace.latched n

/-- A register as the operator reads the copy of context k: FLT leaves tcause and TK alone of the trap, halt and store-fault
registers. -/
def State.operatorReg (s : State) (lcn k n : Nat) (v : Word) : Word :=
  let flt := (s.policy lcn).toNat / 16 % 4
  if countedReg n then
    s.operatorCounted lcn (latchKey k n) (if 0x054 ≤ n ∧ n ≤ 0x057 then s.imbal lcn false (n - 0x054) else v)
  else if flt = 0 then v
  else if n = 0x141 then BitVec.ofNat 64 (bits v 59 3 * 2 ^ 59)
  else if n = 0x00A ∨ n = 0x00B ∨ n = 0x00C ∨ (0x089 ≤ n ∧ n ≤ 0x08E) ∨ (0x142 ≤ n ∧ n ≤ 0x144) then 0
  else v

/-- Bytes of a context record that the operator sees. -/
def State.operatorRecord (s : State) (lcn : Nat) (r : Tab Byte) : Tab Byte :=
  let flt := (s.policy lcn).toNat / 16 % 4
  let cut := fun (t : Tab Byte) (off len : Nat) (b : List Byte) => Tab.splice 0 t off (b.take len)
  let reg := fun (t : Tab Byte) (n : Nat) =>
    let off := if n < 0x100 then 0x1800 + 8 * n else 0xC000 + 8 * (n - 0x100)
    let v := BitVec.ofNat 64 (ofLeBytes (Tab.dense 0 t off 8))
    cut t off 8 (leBytes 8 (s.operatorReg lcn 0 n v).toNat)
  let named := [0x003, 0x00A, 0x00B, 0x00C, 0x054, 0x055, 0x056, 0x057, 0x089, 0x08A, 0x08B, 0x08C, 0x08D, 0x08E, 0x0C3, 0x0C8,
    0x141, 0x142, 0x143, 0x144] ++ (List.range 8).map (0x158 + ·)
  let t := named.foldl reg r
  let t := (List.range 10).foldl (fun t j =>
    let off := 0x2150 + 512 * j
    cut t off 8 (leBytes 8 (s.operatorReg lcn (j + 1) 0x003 (BitVec.ofNat 64 (ofLeBytes (Tab.dense 0 t off 8)))).toNat)) t
  if flt = 0 then t else cut t 0xCE00 192 (zeros 192)

/-- First offset of the context record in a dump: the local memory stands below, at its core view addresses. -/
def dumpRecord : Nat := 2 ^ 48

/-- The core's local memory by core view address. -/
def State.localCells (s : State) (lcn : Nat) : Tab Byte :=
  if s.fab.migs.isEmpty then
    let a := s.scratchPA lcn 0
    let d := s.domePA (towerOf lcn) 0
    (s.mem.filter fun e => a ≤ e.1 && e.1 < a + 0x80000).map (fun e => (e.1 - a, e.2)) ++
    (s.mem.filter fun e => d ≤ e.1 && e.1 < d + 0x4000000).map fun e => (e.1 - d + 0x8000000, e.2)
  else
    Tab.sparse 0 0 (s.bytesAt (s.scratchPA lcn 0) 0x80000) ++
    Tab.sparse 0 0x8000000 (s.bytesAt (s.domePA (towerOf lcn) 0) 0x4000000)

/-- The access is made for the operator of a partition. -/
def byOperator (w : PortAccess) : Bool := match w with | .operator _ => true | _ => false

/-- The record and the local memory of a core for a debugger (R334, R335, R357): an operator's read is refused with status 2 where
the policy allows no dumps. -/
def State.portRecord (s : State) (who : PortAccess) (lcn : Nat) : State :=
  if !s.portReaches who lcn none then s.answer 1 []
  else if byOperator who && !(s.policy lcn).getLsbD 6 then s.answer 2 []
  else
    let r := s.contextRecord lcn true
    let r := if byOperator who then s.operatorRecord lcn r else r
    s.answer 0 (s.localCells lcn ++ r.map fun e => (dumpRecord + e.1, e.2))

/-- An eight-byte answer. -/
def State.answerWord (s : State) (w : Word) : State := s.answer 0 (seg 0 (leBytes 8 w.toNat))

/-- A register of a context read through the port, with supervisor rights (R338, R351): an operator's reads of counted values and of
what traps and stops leave follow the policy (R356, R357). -/
def State.portRegister (s : State) (who : PortAccess) (lcn k n : Nat) : State :=
  if (srCheck n false true none).isSome || (!s.portReaches who lcn (some n) || s.copyGone lcn k n) then s.answer 1 []
  else
    let v := s.srRead lcn k n true
    { s with tick := s.tick + b2n (srFree n) }.answerWord (if byOperator who then s.operatorReg lcn k n v else v)

/-- A register of R366 at a site (R366, R367): those of the logical tower placed there and its first core; at another site bstate and
the module's own, the rest as after reset (DESIGN CHOICE, log entry 89). -/
def State.siteReg (s : State) (n num : Nat) : Word :=
  let x := s.site n
  if x.st = 0 then s.srRead (8 * x.lt) 0 num true
  else
    match num with
    | 0x190 => BitVec.ofNat 64 x.bstate
    | 0x191 => s.srRead 0 0 0x191 true
    | 0x194 => BitVec.ofNat 64 (Ring.idle.shown 0)
    | 0x196 => s.srRead 0 0 0x196 true
    | 0x197 => BitVec.ofNat 64 (s.hottest * 2 ^ 40 + s.power)
    | 0x198 => 0x10000
    | _ => 0

/-- A register of the tower at a site, read by the service firmware over the configuration path. -/
def State.portSite (s : State) (who : PortAccess) (n num : Nat) : State :=
  if decide (who ≠ .config) || (Config.sites ≤ n || (num < 0x190 || 0x198 < num)) then s.answer 1 []
  else { s with tick := s.tick + b2n (srFree num) }.answerWord (s.siteReg n num)

/-- DUMP (R334, R335, R338, R357, R366): what the debugger, or the service firmware, reads through the port. -/
def execDump (lcn : Nat) (read : PortRead) (s : State) : Out :=
  .next (match read.what with
    | .record => s.portRecord read.who lcn
    | .register k num => s.portRegister read.who lcn k num.toNat
    | .site n num => s.portSite read.who n num.toNat)

/-! ## The trace unit (R353, R354, R257) -/

/-- A record as the operator stream carries it, if it does (R356, R357). -/
def State.operatorForm (s : State) (lcn : Nat) (r : List Byte) : Option (List Byte) :=
  let p := (s.policy lcn).toNat
  let kind := ofLeBytes (r.take 1)
  let cnt := p % 4
  let trc := p / 4 % 4
  let flt := p / 16 % 4
  if trc = 2 ∨ trc = 3 ∨ (trc = 1 ∧ kind ≠ 5 ∧ kind ≠ 6) ∨ (kind = 4 ∧ cnt ≠ 0) ∨ (kind = 5 ∧ 2 ≤ cnt) then none
  else
    let word := fun i => ofLeBytes ((r.drop (0x20 + 8 * i)).take 8)
    let r := if kind = 1 ∧ p / 128 % 2 = 1 then
        r.take 0x20 ++ (leBytes 8 (word 0 / 4096 * 4096) ++ (leBytes 8 (word 1 / 4096 * 4096) ++
          (leBytes 8 (word 2 / 4096 * 4096) ++ leBytes 8 (word 3 / 4096 * 4096 % 2 ^ 62 + word 3 / 2 ^ 63 * 2 ^ 63 + 2 ^ 62 + 0xFFF))))
      else r
    if flt = 0 ∨ ¬(kind = 2 ∨ kind = 3 ∨ kind = 7) then some r
    else
      let code := if kind = 2 then word 0 else if kind = 3 then word 0 / 2 ^ 59 % 8 else 2
      let head := if flt = 1 then r.take 0x20 else r.take 8 ++ zeros 24
      some (head ++ (leBytes 8 code ++ zeros 24))

/-- The place of trace record i in memory, where its page is present, writable, pinned and not under migration: reached through
the core's bound address space with supervisor rights (log entry 25). -/
def State.tracePlace (s : State) (lcn i : Nat) : Option Nat × State :=
  let c := s.coreAt lcn
  let va := bits (c.reg 0x168) 6 42 * 64 + 64 * i
  let q : Query := { part := s.partOf lcn, asid := c.bound, root := c.root, group := false, heap := none, rd := false, wr := true,
                     ex := false, ordinary := false, peer := false }
  if !isVirtual va then (none, s)
  else
    match s.translate lcn 0 q va with
    | (.ok pa leaf, s) =>
      (if leaf.getLsbD 6 && !s.fab.migs.any (fun m => m.old.toNat == pa / 2 ^ 18) then some pa else none, s)
    | (_, s) => (none, s)

/-- One record written at the next index, where it has a place. -/
def State.tryRecord (s : State) (lcn : Nat) (r : List Byte) : Bool × State :=
  let c := s.coreAt lcn
  let len := bits (c.reg 0x169) 0 32
  let wrap := bit (c.reg 0x16A) 62
  let i := bits (c.reg 0x16B) 0 32
  let i := if wrap ∧ len ≠ 0 then i % len else i
  if len ≤ i then (false, s)
  else
    match s.tracePlace lcn i with
    | (none, s) => (false, s)
    | (some pa, s) =>
      let next := if wrap then (i + 1) % len else i + 1
      (true, (s.placeBytes pa r).updCoreAt lcn fun c => c.setReg 0x16B (BitVec.ofNat 64 next))

/-- A record written, or dropped and counted. -/
def State.putRecord (s : State) (lcn : Nat) (r : List Byte) : State :=
  match s.tryRecord lcn r with
  | (true, s) => s
  | (false, s) => s.updCoreAt lcn fun c =>
    { c.setReg 0x16C (BitVec.ofNat 64 (satNat ((c.reg 0x16C).toNat + 1) (2 ^ 64 - 1))) with
      trace := { c.trace with dropped := true } }

/-- A record written to the buffer; the first after drops follows a record of kind 6, which itself counts as no drop. -/
def State.writeRecord (s : State) (lcn : Nat) (r : List Byte) : State :=
  let c := s.coreAt lcn
  if c.trace.dropped && bit (c.reg 0x16A) 6 then
    let lost := s.traceRecord lcn 0 6 [c.reg 0x16C, 0, 0, 0]
    match s.tryRecord lcn lost with
    | (false, s) => s.putRecord lcn r
    | (true, s) =>
      let s := s.updCoreAt lcn fun c =>
        { c with trace := { c.trace with dropped := false, operator := c.trace.operator ++ (s.operatorForm lcn lost).toList } }
      s.putRecord lcn r
  else s.putRecord lcn r

/-- The records formed are written to the buffer, and to the operator stream, in order. -/
def State.flushTrace (s : State) (lcn : Nat) : State :=
  let rs := (s.coreAt lcn).trace.queue
  let s := s.updCoreAt lcn fun c =>
    { c with trace := { c.trace with queue := [], operator := c.trace.operator ++ rs.filterMap (s.operatorForm lcn) } }
  rs.foldl (fun s r => s.writeRecord lcn r) s

/-- Every core's records written. -/
def State.flushTraces (s : State) : State :=
  ((s.cores.filter fun e => !e.2.trace.queue.isEmpty).map (·.1)).foldl State.flushTrace s

/-- A counter sample is due (R354): SINT cycles of the control context have passed since the last. -/
def State.sampleDue (s : State) (lcn : Nat) : Bool :=
  let c := s.coreAt lcn
  let x := c.ctx 0
  let sint := bits (c.reg 0x16A) 16 32
  bit (c.reg 0x16A) 63 && (sint != 0 && (x.live && (!x.halted && c.trace.sampleAt + sint ≤ x.cycles s.clock)))

/-- COUNTER_SAMPLE (R354): a record of kind 4 with pmc0 to pmc3. -/
def execCounterSample (lcn : Nat) (s : State) : Out :=
  if !s.sampleDue lcn then .next s
  else
    let c := s.coreAt lcn
    let s := s.updCoreAt lcn fun c => { c with trace := { c.trace with sampleAt := (c.ctx 0).cycles s.clock } }
    .next ((s.trace lcn 0 4 [c.reg 0x158, c.reg 0x159, c.reg 0x15A, c.reg 0x15B]).flushTrace lcn)

end Sys2Proof.Machine
end

