-- ==== Sys2Proof/Machine/Fabric.lean ====
section
/-!
DEFINITION. Bring-up (R385 to R390, R393), module reset (R388), the wafer map (R377 to R380), retirement (R333, R380), test
packages (R336, R337), signed records (R414), network-select writes (R376), ring test packets (R372), power (R391, R392), and
the links to other modules (R418, R419).
-/

namespace Sys2Proof.Machine

/-! ## Bring-up steps (R385 to R388) -/

/-- The first steps at which something happens at a site by itself: arrival, lock, configuration, self-test, bonds, links. -/
def State.bondStep (s : State) (n side : Nat) : Nat :=
  let x := s.site n
  match across n side with
  | none => x.testedAt + 1
  | some m =>
    let y := s.site m
    if 4 ≤ y.bs ∧ y.bs ≤ 7 then max x.testedAt y.testedAt + 1 else x.testedAt + 64

/-- The step of a site's next event, where it has one. -/
def State.siteStep (s : State) (n : Nat) : Option Nat :=
  let x := s.site n
  if x.st = 4 then none
  else
    match x.bs with
    | 0 => leastOf (x.waves.map (·.1))
    | 1 => some (x.step + 2)
    | 2 => some (x.step + 4)
    | 3 => some (x.step + 8)
    | 4 =>
      match (List.range 4).filter fun d => !x.decided.getLsbD d with
      | [] => some (max x.decidedAt x.testedAt + 1)
      | ds => leastOf (ds.map (s.bondStep n))
    | 5 => if x.st = 0 then some (max x.decidedAt x.testedAt + 2) else none
    | _ => none

/-- The least step in which an event of bring-up is due. -/
def State.leastStep (s : State) : Option Nat := leastOf (s.fab.sites.filterMap fun e => s.siteStep e.1)

/-- The step of an event of a site, if it is the next of the module: events go in the order of their steps. -/
def State.dueStep (s : State) (n : Nat) : Option Nat :=
  match s.siteStep n, s.leastStep with
  | some t, some u => if t ≤ u then some t else none
  | _, _ => none

/-- An event of bring-up at a site in a state, in its step; not due, it does nothing (log entry 12). Seeds start after it. -/
def State.bringUp (s : State) (n bs : Nat) (f : State → Nat → State) : Out :=
  match (if (s.site n).bs = bs then s.dueStep n else none) with
  | none => .next s
  | some t => .next (f { s with fab := { s.fab with bstep := max s.fab.bstep (t + 1) } } t)

/-- The sites that a turret seeds, and their side (R385). -/
def seedSites (turret : Nat) : Nat × List Nat :=
  let span := fun (lo hi : Nat) => (List.range (hi + 1 - lo)).map (lo + ·)
  let col := fun px lo hi => (span lo hi).map fun py => 18 * py + px
  let row := fun py lo hi => (span lo hi).map fun px => 18 * py + px
  match turret with
  | 0 => (0, col 0 13 17)
  | 15 => (0, col 0 9 12)
  | 14 => (0, col 0 5 8)
  | 13 => (0, col 0 0 4)
  | 1 => (3, row 17 0 4)
  | 2 => (3, row 17 5 8)
  | 3 => (3, row 17 9 12)
  | 4 => (3, row 17 13 17)
  | 5 => (2, col 17 13 17)
  | 6 => (2, col 17 9 12)
  | 7 => (2, col 17 5 8)
  | 8 => (2, col 17 0 4)
  | 9 => (1, row 0 13 17)
  | 10 => (1, row 0 9 12)
  | 11 => (1, row 0 5 8)
  | 12 => (1, row 0 0 4)
  | _ => (0, [])

/-- A wavefront on its way to a DARK site. -/
def State.sendWave (s : State) (n t side turret : Nat) : State :=
  if (s.site n).bs = 0 ∧ (s.site n).st ≠ 4 then s.updSite n fun x => { x with waves := x.waves ++ [(t, side, turret)] } else s

/-- TURRET_SEED_START (R385): in the step that now begins. -/
def execTurretSeedStart (turret : Nat) (s : State) : Out :=
  let now := s.clock / 1024
  let t := max s.fab.bstep (match s.leastStep with | some u => min now u | none => now)
  let (side, sites) := seedSites turret
  .next (sites.foldl (fun s n => s.sendWave n t side turret) s)

/-- WAVEFRONT_ARRIVAL (R386): west is taken before south, south before east, east before north. -/
def execWavefrontArrival (site : Nat) (s : State) : Out :=
  s.bringUp site 0 fun s t =>
    let here := (s.site site).waves.filter fun w => w.1 == t
    match (List.range 4).findSome? fun d => here.find? fun w => w.2.1 == d with
    | some (_, d, tur) => s.updSite site fun x => { x with bs := 1, step := t, side := d, turret := tur, waves := [] }
    | none => s

/-- A site that fails: its bonds are marked absent at both ends (R387, R388). -/
def State.failSite (s : State) (n t : Nat) : State := (s.updSite n fun x => { x with bs := 9 }).dropBonds n false t

/-- The bond carries no wavefront and does not train. -/
def bondIsDead (n side : Nat) : Bool :=
  Config.bondDead n side || match across n side with | some m => Config.bondDead m (otherSide side) | none => false

/-- CLOCK_LOCK (R386, R388): the wavefront goes on over every bond but its source, and arrives one step later. -/
def execClockLock (site : Nat) (ok : Bool) (s : State) : Out :=
  s.bringUp site 1 fun s t =>
    if !ok then s.failSite site t
    else
      let x := s.site site
      (List.range 4).foldl (fun s d =>
        match across site d with
        | some m => if d = x.side || (x.absent.getLsbD d || bondIsDead site d) then s else s.sendWave m (t + 1) (otherSide d) x.turret
        | none => s) (s.updSite site fun x => { x with bs := 2 })

/-- CONFIGURATION_ARRIVAL (R388). -/
def execConfigurationArrival (site : Nat) (s : State) : Out :=
  s.bringUp site 2 fun s _ => s.updSite site fun x => { x with bs := 3 }

/-- SELF_TEST_END (R388, R393): the dome and scratchpads of the logical tower placed there are zero. -/
def execSelfTestEnd (site : Nat) (ok : Bool) (s : State) : Out :=
  s.bringUp site 3 fun s t =>
    if !ok then s.failSite site t
    else
      let s := s.updSite site fun x => { x with bs := 4, testedAt := t }
      if (s.site site).st = 0 then s.emptyTower (s.site site).lt else s

/-- BOND_DECISION (R387): the training of a bond whose ends have passed self-test; a turret port's always trains. -/
def execBondDecision (site side : Nat) (ok : Bool) (s : State) : Out :=
  let tested : Bool := match across site side with
    | none => true
    | some m => 4 ≤ (s.site m).bs && (s.site m).bs ≤ 7
  if side < 4 ∧ (s.site site).decided.getLsbD side = false ∧ tested = true ∧ s.dueStep site = some (s.bondStep site side) then
    s.bringUp site 4 fun s t =>
      s.decideBond site side ((across site side).isNone || (ok && !bondIsDead site side)) t
  else .next s

/-- BOND_TIMEOUT (R387). -/
def execBondTimeout (site side : Nat) (s : State) : Out :=
  let short : Bool := match across site side with
    | none => false
    | some m => !(4 ≤ (s.site m).bs && (s.site m).bs ≤ 7)
  if side < 4 ∧ (s.site site).decided.getLsbD side = false ∧ short = true ∧ s.dueStep site = some (s.bondStep site side) then
    s.bringUp site 4 fun s t => s.decideBond site side false t
  else .next s

/-- ENTER_LINKED (R388): LINKED if at least one bond trained, otherwise FAILED. -/
def execEnterLinked (site : Nat) (s : State) : Out :=
  if (s.site site).decided ≠ 15 then .next s
  else s.bringUp site 4 fun s t =>
    if (s.site site).absent = 15 then s.failSite site t else s.updSite site fun x => { x with bs := 5 }

/-- In the boot generation the service firmware lays out the routes as each tower comes into service (DESIGN CHOICE, log entry 6). -/
def State.bootLayout (s : State) : State :=
  if s.fab.turned then s else { s with fab := { s.fab with laid := some s.fab.sites } }

/-- ENTER_SERVING_REDUCED (R388, R389): a placed tower; in full service it enters SERVING_FULL. -/
def execEnterServingReduced (site : Nat) (s : State) : Out :=
  s.bringUp site 5 fun s _ => (s.updSite site fun x => { x with bs := if s.fab.full then 7 else 6 }).bootLayout

/-- FULL_SERVICE_DECISION (R389). -/
def execFullServiceDecision (s : State) : Out :=
  .next (if s.fab.full then s else { s with fab := { s.fab with raisePending := true } })

/-- A gang that has not ended holds a SERVING_REDUCED tower. -/
def State.reducedHeld (s : State) (g : Gang) : Bool :=
  !g.ended && g.occupied.any fun l => match s.siteOf (towerOf l) with | some n => (s.site n).bs == 6 | none => false

/-- The raise can be made (R389). -/
def State.raiseReady (s : State) : Bool :=
  s.fab.raisePending && (s.fab.sites.all (fun e => !((1 ≤ e.2.bs && e.2.bs ≤ 4) || (e.2.bs == 5 && e.2.st == 0))) &&
    !s.arb.gangs.any s.reducedHeld)

/-- FULL_SERVICE_RAISE (R389). -/
def execFullServiceRaise (s : State) : Out :=
  if !s.raiseReady then .next s
  else
    .next { s with fab := { s.fab with
      raisePending := false, full := true
      sites := Tab.mapEntries (fun _ x => if x.bs = 6 then { x with bs := 7 } else x) s.fab.sites } }

/-! ## Signed records (R414) and what root firmware reads at boot (R383, R384) -/

/-- A signed record with a body of L bytes under the key that `keysel` names (R414). -/
def signedOk (r : List Byte) (l keysel key : Nat) : Bool :=
  recNat r l 4 == l && (recNat r (l + 4) 1 == keysel && (recNat r (l + 5) 3 == 0 &&
    (r.length == l + 108 + recNat r (l + 104) 4 && Config.signaturesVerify r key)))

/-- Bytes of a record that shall be zero. -/
def zeroAt (r : List Byte) (off n : Nat) : Bool := ((r.drop off).take n).all (· == 0)

/-- The logical towers of n rows from a row on are placed. -/
def State.rowsPlaced (s : State) (row n : Nat) : Bool := (List.range (16 * n)).all fun i => (s.siteOf (16 * row + i)).isSome

/-- Root firmware's check of the feature token (R384): 0 where it passes, otherwise the first of the listed conditions that fails
(the numbering is a DESIGN CHOICE, log entry 11). -/
def State.tokenCheck (s : State) : Nat :=
  let r := Config.featureToken
  let rows := recNat r 2 1
  if !signedOk r 64 0 0 then 1
  else if !(recNat r 0 1 == 4 && (recNat r 1 1 == 1 && (zeroAt r 3 1 && zeroAt r 0x14 44))) then 2
  else if recNat r 4 16 != Config.serialNumber.toNat then 3
  else if !(rows == 1 || rows == 2) then 4
  else if !s.rowsPlaced 16 rows then 5
  else 0

/-- ROWS as the feature token gives it (R384): 0 where a check fails. -/
def State.tokenRows (s : State) : Nat := if s.tokenCheck = 0 then recNat Config.featureToken 2 1 else 0

/-- A site at module reset (R387, R388): RETIRED where the map records it so, otherwise DARK. -/
def Site.afterReset (x : Site) : Site :=
  { x with bs := if x.st = 2 then 8 else 0, step := 0, side := 0, turret := 0, decided := 0, absent := 0, waves := [],
           decidedAt := 0, testedAt := 0 }

/-- MODULE_RESET (R35, R153, R384, R388): every core, tower and the host side as after reset; the wafer map, its generation,
the boot values and the serials of policies stay (log entry 6). -/
def execModuleReset (s : State) : Out :=
  let f := s.fab
  let s := { s with
    cores := [], towers := [], arb := Arbiter.reset
    fab := { Fabric.reset with
      sites := Tab.mapEntries (fun _ x => x.afterReset) f.sites, mapgen := f.mapgen
      modnum := f.modnum, gsz := f.gsz, gpos := f.gpos }
    host := { State.reset.host with serials := s.host.serials } }
  let s := (List.range Config.sites).foldl (fun s n =>
    if (s.site n).st = 2 ∨ (s.site n).st = 4 then s.dropBonds n true 0 else s) s
  .next { s with fab := { s.fab with rows := s.tokenRows, tokenWhy := s.tokenCheck } }

/-! ## The wafer map (R377 to R380, R333) -/

/-- A site's record in the wafer map (R377). -/
def Site.record (x : Site) : Nat :=
  x.st % 16 * 2 ^ 28 + x.absent.toNat * 2 ^ 24 + (if x.st = 0 then x.lt % 512 * 2 ^ 8 else 0)

/-- Surplus rows that the map places: the first, or both. -/
def State.surplusRows (s : State) : Nat := if s.rowsPlaced 16 2 then 2 else if s.rowsPlaced 16 1 then 1 else 0

/-- The wafer map (R377). -/
def State.waferMap (s : State) : List Byte :=
  leBytes 1 5 ++ (leBytes 1 1 ++ (leBytes 2 s.fab.mapgen.toNat ++ (leBytes 1 s.surplusRows ++ (zeros 3 ++
    (leBytes 16 Config.serialNumber.toNat ++ (zeros 40 ++ (List.range Config.sites).flatMap fun n => leBytes 4 (s.site n).record))))))

/-- The sites as they will stand once the generation being formed takes effect. -/
def State.formed (s : State) : State :=
  s.fab.pendingMap.foldl (fun s c => s.updSite c.site fun x => { x with st := c.st, lt := c.lt }) s

/-- A site's tower has failed or has not been reached by bring-up (R388). -/
def Site.lostTower (x : Site) : Bool := x.bs == 9 || x.bs == 0

/-- A change that the service firmware can make to a site as the map in effect has it, and as the generation being formed leaves it
(R379, R380, R388): a logical tower placed at a spare, which is LINKED where the tower's site has failed or was not reached, and
LINKED or DARK otherwise; a retired site recorded; one retired by an earlier generation that has passed its test package returned
to the spares; a failed or unreached one recorded. -/
def State.changeOk (s : State) (c : SiteChange) : Bool :=
  let x := s.site c.site
  let y := s.formed.site c.site
  let fled := match s.siteOf c.lt with | some n => (s.site n).lostTower | none => false
  c.site < Config.sites &&
  match c.st with
  | 0 => x.st == 1 && (y.st == 1 && ((x.bs == 5 || (x.bs == 0 && !fled)) && c.lt < Config.towers))
  | 1 => x.st == 2 && (y.st == 2 && (x.bs == 8 && x.passed))
  | 2 => x.st == 0 && x.bs == 8
  | 3 => x.st == 0 && (y.st == 0 && x.lostTower)
  | _ => false

/-- A generation that records a site as failed places its tower at a spare, unless no LINKED spare is left (R388). -/
def State.movesTower (s : State) (c : SiteChange) : Bool :=
  c.st != 3 || ((s.formed.siteOf (s.site c.site).lt).isSome ||
    !(List.range Config.sites).any fun n => (s.site n).bs == 5 && (s.formed.site n).st == 1)

/-- No logical tower is placed twice. -/
def State.placedOnce (s : State) : Bool :=
  let ps := (List.range Config.sites).filterMap fun n => if (s.site n).st == 0 then some (s.site n).lt else none
  (ascending ps).length == ps.length

/-- MAP_GENERATION_ISSUE (R379): the changes join the generation being formed, which takes effect at the next turn into a
compute window; changes that the rules do not allow are not made. -/
def execMapGenerationIssue (changes : List SiteChange) (s : State) : Out :=
  let t := { s with fab := { s.fab with pendingMap := s.fab.pendingMap ++ changes } }
  .next (if changes.isEmpty || (!changes.all s.changeOk || (!t.formed.placedOnce || !changes.all t.movesTower)) then s else t)

/-- tinfo of a fatal uncorrectable error (R311, R313). -/
def fatalInfo (src pa : Nat) : Word := BitVec.ofNat 64 (2 ^ 63 + src * 2 ^ 60 + pa % 2 ^ 56)

/-- A fatal uncorrectable error for a core's control context (R311 to R313): one already pending keeps its tinfo. -/
def State.postFatal (s : State) (src pa : Nat) (lcn : Nat) : State := s.postCause lcn 0x0E (fatalInfo src pa)

/-- A gang out for pre-emption that cannot be saved becomes active again to end with a fatal trap (R330). -/
def State.failSave (s : State) (id : Nat) (err : BitVec 4) : State :=
  let s := s.updGang id fun g => { g with active := true, gr := { g.gr with st := 5, err := err, req := false } }
  let key : DomKey := { gang := id, level := 0, ident := 0 }
  (s.updDom key fun d => { d with done := true, carried := true }).windowCheck

/-- A gang with a core in a retired tower (R330, R333): every other core takes a fatal 0x0E, SRC 4. -/
def State.loseTower (s : State) (tower : Nat) (g : Gang) : State :=
  let s := (g.occupied.filter fun l => towerOf l != tower).foldl (State.postFatal · 4 0 ·) s
  let s := s.updGang g.id fun g => { g with status := 8, gr := { g.gr with st := if g.gr.st = 3 then 5 else g.gr.st } }
  if g.gr.st = 1 then s.failSave g.id 6 else s

/-- TOWER_RETIRE (R333, R380): the tower's contexts stop with all that they had in flight, its gangs end, and the generation
that records the site as retired is formed. -/
def execTowerRetire (tower : Nat) (s : State) : Out :=
  match s.siteOf tower with
  | none => .next s
  | some n =>
    if !s.serves n then .next s
    else
      let cores := (List.range 8).map (8 * tower + ·)
      let s := cores.foldl (fun s l => (s.stopCore l).updCoreAt l fun c =>
        { c with sb := [], hold := false, mail := [], fps := [], comb := [], streams := []
                 mat := { c.mat with queue := [] } }) s
      let s := s.updSite n fun x => { x with bs := 8 }
      let s := { s with arb := { s.arb with
        sent := s.arb.sent.filter fun l => !(l.arrived && towerOf l.line.target.toNat == tower) } }
      let s := { s with fab := { s.fab with pendingMap := s.fab.pendingMap ++ [({ site := n, st := 2, lt := 0 } : SiteChange)] } }
      let hit := s.arb.gangs.filter fun g => !g.ended && g.occupied.any fun l => towerOf l == tower
      let s := hit.foldl (fun s g => s.loseTower tower g) s
      .next (cores.foldl (fun s l => s.settleCore l) s)

/-- Status of a test package (R337), and what it writes: the number of the first failing pattern. -/
def State.testStatus (s : State) (p : TestPackage) : Nat × List Byte :=
  let r := p.record
  let l := 64 + recNat r 0x18 4
  if !(signedOk r l 0 0 && (recNat r 0 1 == 3 && (recNat r 1 1 == 1 && (zeroAt r 2 2 && (zeroAt r 6 2 && zeroAt r 0x20 32))))) then
    (2, [])
  else if recNat r 8 16 ≠ Config.serialNumber.toNat then (3, [])
  else if (s.site p.site).bs ≠ 8 ∨ p.site ≥ Config.sites ∨ recNat r 4 1 + 18 * recNat r 5 1 ≠ p.site ∨ recNat r 4 1 ≥ 18 then (4, [])
  else
    match Config.patternFailure r p.site with
    | none => (0, [])
    | some n => (1, leBytes 4 n.toNat)

/-- TEST_PACKAGE (R336, R337). -/
def execTestPackage (pkg : TestPackage) (s : State) : Out :=
  let (st, bytes) := s.testStatus pkg
  let s := if st ≤ 1 then s.updSite pkg.site fun x => { x with passed := st == 0 } else s
  .next (s.answer st (seg 0 bytes))

/-! ## Network-select entries and the ring -/

/-- NSVAL_WRITE (R376): a SETS of nsval at group or supervisor level. -/
def execNsvalWrite (lcn : Nat) (group : Bool) (v : BitVec 64) (s : State) : Out :=
  .next (match srCheck 0x193 false (!group) (some v) with
    | none => (s.srWrite lcn 0 0x193 v (!group)).getD s
    | some _ => s)

/-- RING_TEST_INJECT (R372): a supervisor's SETS of rdiag. -/
def execRingTestInject (lcn : Nat) (v : BitVec 64) (s : State) : Out := .next (s.supWrite lcn 0x195 v)

/-- RING_TEST_FLIT_DELIVERY (R372): a test flit that the ring has delivered to the stop of a core is counted. -/
def execRingTestFlitDelivery (lcn : Nat) (s : State) : Out :=
  let stop := lcn % 8
  if !(s.ringOf lcn).landed.any (· == stop) then .next s
  else
    .next ((s.updTowerAt (towerOf lcn) fun t => { t with ring := { t.ring with landed := t.ring.landed.erase stop } }).updCoreAt lcn
      fun c => c.setReg 0x195 (withBits (c.reg 0x195) 16 16 (bits (c.reg 0x195) 16 16 + 1)))

/-! ## Power (R391, R392) -/

/-- POWER_CAP_SET (R391). -/
def execPowerCapSet (watts : Nat) (s : State) : Out :=
  .next { s with fab := { s.fab with pwcap := BitVec.ofNat 16 (max 18000 (min 30000 watts)) } }

/-- A core's ceiling rate set; the governor windows up to now have run under the old one (R392). -/
def Core.setRate (c : Core) (clock rate : Nat) : Core := (c.governNow clock).setReg 0x198 (BitVec.ofNat 64 (rate % 2 ^ 24))

/-- RATE_LOWERING (R391, R392): root firmware sets a core's rate, so that module power stays at or below the cap: a higher one than
before only while it does, and while the tower is not throttled. -/
def execRateLowering (lcn : Nat) (rate : BitVec 24) (s : State) : Out :=
  if !s.isCore lcn then .next s
  else
    let room := s.power ≤ s.fab.pwcap.toNat && !(s.towerAt (towerOf lcn)).thr
    .next (s.updCoreAt lcn fun c => c.setRate s.clock (if room then rate.toNat else min rate.toNat (bits (c.reg 0x198) 0 24)))

/-- THERMAL_THROTTLE (R392): a tower's rates lowered with THR set, or restored with THR cleared. -/
def execThermalThrottle (tower : Nat) (hot : Bool) (rate : BitVec 24) (s : State) : Out :=
  let s := s.updTowerAt tower fun t => { t with thr := hot }
  .next ((List.range 8).foldl (fun s j => s.updCoreAt (8 * tower + j) fun c =>
    c.setRate s.clock (if hot then min rate.toNat (bits (c.reg 0x198) 0 24) else rate.toNat)) s)

/-! ## Other modules (R418, R419) -/

/-- The number of modules of the window group once a removal that has been ordered is in effect. -/
def Fabric.groupSize (f : Fabric) : Nat := match f.newGroup with | some (n, _) => n | none => f.gsz

/-- MODULE_LINK_DOWN (R411, R419): the link to a partner; a module of a window group holds its compute window for it. -/
def execModuleLinkDown (module : Nat) (s : State) : Out :=
  if module ≥ 16 ∨ module = s.fab.modnum ∨ s.fab.downLinks.contains module = true then .next s
  else
    .next { s with fab := { s.fab with
      downLinks := s.fab.downLinks ++ [module]
      lost := if s.fab.partner module then s.fab.lost ++ [module] else s.fab.lost } }.sendTokens

/-- WINDOW_GROUP_TOKEN (R419): a round's token arrives. -/
def execWindowGroupToken (round : Nat) (s : State) : Out :=
  .next (if round < rounds s.fab.gsz then { s with fab := { s.fab with tokens := s.fab.tokens ++ [round] } }.sendTokens else s)

/-- GROUP_MEMBER_REMOVE (R419): the new size and position take effect at the next close. -/
def execGroupMemberRemove (gsz gpos : Nat) (s : State) : Out :=
  let n := s.fab.groupSize
  if 1 ≤ gsz ∧ gpos < gsz ∧ gsz < n then
    .next { s with fab := { s.fab with newGroup := some (gsz, gpos) } }
  else .next s

/-- LINK_WINDOW_SETUP (R418): memory of a peer module backed for a partition. -/
def execLinkWindowSetup (part module : Nat) (base : BitVec 52) (len : Nat) (s : State) : Out :=
  if module < 16 ∧ module ≠ s.fab.modnum ∧ (Tab.find? s.host.parts part).isSome = true ∧ base.toNat + len ≤ 2 ^ 52 then
    .next { s with fab := { s.fab with links := s.fab.links ++ [{ part := part, module := module, base := base, len := len }] } }
  else .next s

end Sys2Proof.Machine
end

