-- ==== Sys2Proof/Machine/Vector.lean ====
section
/-!
DEFINITION. What the vector instructions share: sources and stream pops (R41, R42, R293), elements and predicates (R158,
R159), domain checks (R164, R165), results written under a predicate (R163).
-/

namespace Sys2Proof.Machine

/-! ## Elements -/

/-- Element i of width w of a register held as a number. -/
def elem (w x i : Nat) : Nat := x / 2 ^ (w * i) % 2 ^ w

/-- The elements of width w of a register. -/
def elems (w : Nat) (x : BitVec 2048) : List Nat := (List.range (2048 / w)).map (elem w x.toNat)

/-- A register from its elements of width w, lowest first. -/
def ofElems (w : Nat) (xs : List Nat) : BitVec 2048 := BitVec.ofNat 2048 (xs.foldr (fun x acc => x % 2 ^ w + acc * 2 ^ w) 0)

/-- Element i of width w is active (R159). -/
def active (m : BitVec 256) (w i : Nat) : Bool := m.getLsbD (i * (w / 8))

/-- The numbers of the active elements. -/
def activeElems (m : BitVec 256) (w : Nat) : List Nat := (List.range (2048 / w)).filter (active m w)

/-- The predicate that an m field names (R158). -/
def VecState.pred (v : VecState) (m : BitVec 3) : BitVec 256 :=
  if m = 0 then BitVec.allOnes 256 else Tab.get 0 v.m m.toNat

/-- One element of a result under R163: computed, zeroed or kept, with its flags. -/
def choose (m : BitVec 256) (w : Nat) (z : Bool) (old : BitVec 2048) (res : Nat → FRes) (i : Nat) : FRes :=
  if active m w i then res i else (if z then 0 else elem w old.toNat i, 0)

/-- The register that R163 writes, from the result of each active element, with the flags of those. -/
def underMask (m : BitVec 256) (w : Nat) (z : Bool) (old : BitVec 2048) (res : Nat → FRes) : BitVec 2048 × Flags :=
  let rs := (List.range (2048 / w)).map (choose m w z old res)
  (ofElems w (rs.map (·.1)), flagsOf rs)

/-! ## Sources (R41, R42, R293) -/

/-- The stream slot that an operand number names. -/
def smSlot (x : BitVec 6) : Option Nat := if 42 ≤ x.toNat ∧ x.toNat ≤ 45 then some (x.toNat - 42) else none

/-- A register of the vector files. -/
def VecState.reg (v : VecState) (x : BitVec 6) : VReg :=
  let n := x.toNat
  if n < 32 then Tab.get VReg.zero v.v n
  else if n < 40 then Tab.get VReg.zero v.q (n - 32)
  else if n = 40 then v.h0
  else v.h1

/-- The domain code a source carries; a stream's code is fixed by its binding (R164). -/
def Core.tagOf (c : Core) (x : BitVec 6) : BitVec 2 :=
  match smSlot x with
  | none => (c.vec.reg x).dom
  | some k => match Tab.find? c.streams k with | some t => t.code | none => 0

/-- The vector that a pop past the end delivers (R293). -/
def Stream.pastEnd (x : Stream) : Ready := { vec := { data := 0, dom := x.code }, flags := 0, oor := none }

/-- The n-th vector waiting in a slot. -/
def Core.peek (c : Core) (k n : Nat) : Ready :=
  match Tab.find? c.streams k with
  | some t => nth t.pastEnd t.ready n
  | none => { vec := VReg.zero, flags := 0, oor := none }

/-- The values of the sources in the order a, b, d, each slot's vectors in that order, with the flags of popped vectors. -/
def Core.sources (c : Core) (done : List (BitVec 6)) : List (BitVec 6) → List VReg × Flags
  | [] => ([], 0)
  | x :: t =>
    let r := c.sources (x :: done) t
    match smSlot x with
    | none => (c.vec.reg x :: r.1, r.2)
    | some k =>
      let y := c.peek k (done.filter (· == x)).length
      (y.vec :: r.1, y.flags ||| r.2)

/-- One pop takes effect: the oldest ready vector leaves with its out-of-range record, or the slot is past its end. -/
def State.pop (s : State) (x : BitVec 6) : State :=
  match smSlot x with
  | none => s
  | some k =>
    match Tab.find? s.core.streams k with
    | none => s
    | some t =>
      match t.ready with
      | [] => s.updCore fun c => { c with streams := Tab.put c.streams k { t with past := true } }
      | r :: rest =>
        let s := s.updCore fun c => { c with streams := Tab.put c.streams k { t with ready := rest } }
        match r.oor with
        | some ea => s.updCx (·.recordOor ea.toNat false)
        | none => s

/-- The pops of an instruction, at its retirement. -/
def State.pops (s : State) (fs : List (BitVec 6)) : State := fs.foldl State.pop s

/-- A slot is filled until it holds n vectors or has ended; a fault or an absent page is that of the first vector missing. -/
def State.fillSlot (s : State) (k : Nat) : Nat → Nat → Fetched × State
  | 0, _ => (.ok, s)
  | fuel + 1, n =>
    match Tab.find? s.core.streams k with
    | none => (.ok, s)
    | some t =>
      if n ≤ t.ready.length || t.ended then (.ok, s)
      else
        match s.streamNext s.lcn k t with
        | (.ok, s) => s.fillSlot k fuel n
        | r => r

/-- The streams that the sources name have the vectors they pop, or the instruction waits or traps (R105, R293). -/
def State.withStreams (s : State) (i : Instr) (done : List (BitVec 6)) (fs : List (BitVec 6)) (f : State → State) : State :=
  match fs with
  | [] => f s
  | x :: t =>
    match smSlot x with
    | none => s.withStreams i (x :: done) t f
    | some k =>
      match s.streamBegin s.lcn k with
      | (false, s) => s.stall .engine
      | (true, s) =>
        let n := (done.filter (· == x)).length + 1
        s.underMail id fun s =>
          match s.fillSlot k 3 n with
          | (.ok, s) => s.withStreams i (x :: done) t f
          | (.mixed, s) => s.trap 0x09 (tileInfo 6 0 i)
          | (.fault va r, s) => s.loadFault kindMatrix r va
          | (.absent va, s) => (s.postAbsent s.lcn 0 kindMatrix va (s.core.bound.getD 0) 0).stall .mailbox

/-- Some source names an unbound stream. -/
def Core.unbound (c : Core) (fs : List (BitVec 6)) : Bool :=
  fs.any fun x => match smSlot x with | some k => (Tab.find? c.streams k).isNone | none => false

/-! ## Domain checks (R164, R165) -/

/-- tinfo of a domain mismatch. -/
def domInfo (kind : Nat) (td tb ta : BitVec 2) (i : Instr) : Word :=
  BitVec.ofNat 64 (kind * 2 ^ 38 + td.toNat * 2 ^ 36 + tb.toNat * 2 ^ 34 + ta.toNat * 2 ^ 32 + (encode i).toNat)

/-- The tags that a check looks at: those of a, b and the old destination, and whether the destination merges. -/
structure Tags where
  a : BitVec 2
  b : BitVec 2
  d : BitVec 2
  merges : Bool
deriving DecidableEq, Repr

/-- The number of the first failing check: linear operands disagree, a tag shall be 0, the merge. -/
def Tags.fails (g : Tags) (linear zero : Bool) (t : BitVec 2) : Option Nat :=
  if linear then some 0 else if zero then some 1 else if g.merges && g.d != t then some 2 else none

/-- The frame of a vector instruction: unbound streams, the domain checks, the streams' vectors. `fs` lists the vector sources
in the order a, b, d; `f` takes their values and the flags that popped vectors bring. -/
def State.vector (s : State) (i : Instr) (fs : List (BitVec 6)) (g : Tags) (linear zero : Bool) (t : BitVec 2)
    (f : State → List VReg → Flags → State) : State :=
  if s.core.unbound fs then s.trapWord 0x01 i
  else
    match g.fails linear zero t with
    | some kind => s.trap 0x08 (domInfo kind g.d g.b g.a i)
    | none =>
      s.withStreams i [] fs fun s =>
        let r := s.core.sources [] fs
        f s r.1 r.2

/-- The end of a vector instruction: its flags, or their trap; its pops; its results; it completes. -/
def State.vdone (s : State) (fs : List (BitVec 6)) (lk : Nat) (g : List (BitVec 5 × Word)) (v : List (BitVec 6 × VReg))
    (fl : Flags) (src : Option LoadSrc := none) : State :=
  s.unlessTrapped fl fun s => ((s.pops fs).results lk g v fl src).retire

/-- The old contents of a destination; for 40 those of h0. -/
def State.oldV (s : State) (d : BitVec 6) : VReg := s.core.vec.reg d

/-- The tags of an instruction with destination d under predicate m and sources a and b. -/
def State.tags (s : State) (d : BitVec 6) (a b : Option (BitVec 6)) (m : BitVec 3) (z : Bool) : Tags :=
  { a := match a with | some x => s.core.tagOf x | none => 0
    b := match b with | some x => s.core.tagOf x | none => 0
    d := (s.oldV d).dom
    merges := !z && m != 0 }

/-- The tags of an instruction without a vector destination. -/
def State.tagsOut (s : State) (a b : Option (BitVec 6)) : Tags :=
  { a := match a with | some x => s.core.tagOf x | none => 0
    b := match b with | some x => s.core.tagOf x | none => 0
    d := 0
    merges := false }

/-- An element-by-element form with results of width w written under R163 with tag t. -/
def State.vput (s : State) (fs : List (BitVec 6)) (lk : Nat) (d : BitVec 6) (m : BitVec 3) (w : Nat) (z : Bool) (t : BitVec 2)
    (pf : Flags) (res : Nat → FRes) : State :=
  let r := underMask (s.core.vec.pred m) w z (s.oldV d).data res
  s.vdone fs lk [] [(d, { data := r.1, dom := t })] (pf ||| r.2)

/-- Width of a Ti code. -/
def tiWidth (t : BitVec 2) : Nat := 8 * 2 ^ t.toNat

/-- A flag field as a truth value. -/
def z1 (z : BitVec 1) : Bool := z = 1

/-- The data of the n-th source as a number. -/
def src (vs : List VReg) (n : Nat) : Nat := (nth VReg.zero vs n).data.toNat

/-! ## Classes of forms -/

/-- A form of class N with one source. -/
def vecN1 (i : Instr) (d a : BitVec 6) (m : BitVec 3) (z : Bool) (w lk : Nat) (op : State → Nat → FRes) (s : State) : Out :=
  issue i s fun s =>
    s.vector i [a] (s.tags d (some a) none m z) false (s.core.tagOf a != 0) 0 fun s vs pf =>
      let x := src vs 0
      s.vput [a] lk d m w z 0 pf fun e => op s (elem w x e)

/-- A form of class N with two sources. -/
def vecN2 (i : Instr) (d a b : BitVec 6) (m : BitVec 3) (z : Bool) (w : Nat) (op : State → Nat → Nat → FRes) (s : State) :
    Out :=
  issue i s fun s =>
    s.vector i [a, b] (s.tags d (some a) (some b) m z) false (s.core.tagOf a != 0 || s.core.tagOf b != 0) 0 fun s vs pf =>
      let x := src vs 0
      let y := src vs 1
      s.vput [a, b] 0 d m w z 0 pf fun e => op s (elem w x e) (elem w y e)

/-- A form of class N with sources a and b that also reads d. -/
def vecN3 (i : Instr) (d a b : BitVec 6) (m : BitVec 3) (z : Bool) (w : Nat) (op : State → Nat → Nat → Nat → FRes)
    (s : State) : Out :=
  issue i s fun s =>
    s.vector i [a, b, d] (s.tags d (some a) (some b) m z) false
      (s.core.tagOf a != 0 || (s.core.tagOf b != 0 || s.core.tagOf d != 0)) 0 fun s vs pf =>
      let x := src vs 0
      let y := src vs 1
      let acc := src vs 2
      s.vput [a, b, d] 0 d m w z 0 pf fun e => op s (elem w x e) (elem w y e) (elem w acc e)

/-- A form of class L with one source. -/
def vecL1 (i : Instr) (d a : BitVec 6) (m : BitVec 3) (z : Bool) (w : Nat) (op : State → Nat → FRes) (s : State) : Out :=
  issue i s fun s =>
    let t := s.core.tagOf a
    s.vector i [a] (s.tags d (some a) none m z) false false t fun s vs pf =>
      let x := src vs 0
      s.vput [a] 0 d m w z t pf fun e => op s (elem w x e)

/-- A form of class L with two sources. -/
def vecL2 (i : Instr) (d a b : BitVec 6) (m : BitVec 3) (z : Bool) (w : Nat) (op : State → Nat → Nat → FRes) (s : State) :
    Out :=
  issue i s fun s =>
    let t := s.core.tagOf a
    s.vector i [a, b] (s.tags d (some a) (some b) m z) (s.core.tagOf b != t) false t fun s vs pf =>
      let x := src vs 0
      let y := src vs 1
      s.vput [a, b] 0 d m w z t pf fun e => op s (elem w x e) (elem w y e)

end Sys2Proof.Machine
end

