-- ==== Sys2Proof/Machine/Matrix.lean ====
section
/-!
DEFINITION. The matrix engine (R186 to R201) and its instructions (R202 to R220), its queue and its governor (R200, R392).
An instruction takes its operands at issue; it is performed at once, or queued and performed by MATRIX_QUEUE_PERFORM where
the model lets long-latency results come late (log entry 9).
-/

namespace Sys2Proof.Machine

/-! ## Operands (R191 to R194, R197) -/

/-- An operand expanded: rows of FP32 patterns along k, last valid row and position, K, format code, tag. -/
structure MatOpnd where
  rows : List (List FRes)
  vr : Nat
  vc : Nat
  k : Nat
  fmt : Nat
  tag : Nat
deriving DecidableEq, Repr

/-- K of a vector group (R192). -/
def groupK (fmt : Nat) : Nat :=
  match fmt with
  | 0 => 8
  | 1 => 16
  | 2 => 16
  | 3 => 32
  | 5 => 64
  | 6 => 32
  | 7 => 16
  | _ => 64

/-- An operand expanded at fetch: unpacking, then reconstruction along k (R197). -/
def MatState.expand (m : MatState) (mode : BitVec 2) : MatSrc → MatOpnd
  | .group x f =>
    let k := groupK f.toNat
    { rows := (List.range 64).map fun r => m.row mode f.toNat k (field x.toNat (32 * r) 32),
      vr := 63, vc := k - 1, k := k, fmt := f.toNat, tag := 0 }
  | .tile w0 w1 bytes =>
    let d := tileOf w0 w1
    let rows := (rowsOf d.rowBytes d.rows bytes).map fun r =>
      let e := m.row mode d.fmt d.cols r
      if 2 ≤ d.code then haarUps mode d.levels (pad64 e) else e
    { rows := rows, vr := d.rows - 1, vc := d.cols - 1, k := 64, fmt := d.fmt, tag := d.tag }
  | _ => { rows := [], vr := 0, vc := 0, k := 64, fmt := 0, tag := 0 }

/-- The format that fixes the chunk width: a VQ8 operand takes that of its codebooks (R113). -/
def MatState.chunkFmt (m : MatState) (fmt : Nat) : Nat := if fmt = 8 then (if m.codeFmt.getLsbD 0 then 3 else 1) else fmt

/-- W of R113 by format. -/
def chunkWidth (fmt : Nat) : Nat :=
  match fmt with
  | 0 => 1
  | 1 => 2
  | 2 => 2
  | 3 => 4
  | 5 => 16
  | 6 => 8
  | _ => 4

/-- The weight of a chunk-row by format (R200). -/
def chunkWeight (fmt : Nat) : Nat := if fmt = 0 then 4 else if fmt = 5 ∨ fmt = 6 then 1 else 2

/-- A list cut into pieces of n. -/
def chunks {α : Type} (n : Nat) : Nat → List α → List (List α)
  | 0, _ => []
  | k + 1, l => if l.isEmpty then [] else l.take n :: chunks n k (l.drop n)

/-- The chunks of an operand row: its values along k below a limit. -/
def rowChunks (w lim : Nat) (r : List FRes) : List (List Nat) := chunks w 64 ((r.take lim).map (·.1))

/-- A chunk of A holds zeros only. -/
def allZero (c : List Nat) : Bool := c.all fp32.isZero

/-- Every value of B in chunk c is finite (R198). -/
def chunkFinite (b : List (List (List Nat))) (c : Nat) : Bool := b.all fun r => (nth [] r c).all fp32.finite

/-- The number of passable chunk-rows among n chunks of 64 rows (R198): rows beyond the operand hold zeros. -/
def passable (a b : List (List (List Nat))) (n : Nat) : Nat :=
  (List.range n).foldl (fun acc c =>
    if chunkFinite b c then acc + (64 - a.length) + (a.filter fun r => allZero (nth [] r c)).length else acc) 0

/-- The chunk loop of R113 on one element. -/
def chunkLoop (mode : BitVec 2) (lcn kc : Nat) : Nat → FRes → List (List Nat) → List (List Nat) → FRes
  | c, acc, x :: xs, y :: ys =>
    let p := (x.zip y).map fun e => ({ factors := [(fp32, e.1), (fp32, e.2)] } : Prod')
    let r := exactSum fp32 mode acc.1 p (some (lcn % 4096 * 1024 + min (kc + c) 1023))
    chunkLoop mode lcn kc (c + 1) (r.1, acc.2 ||| r.2) xs ys
  | _, acc, _, _ => acc

/-! ## Accumulators (R189) -/

/-- The 4,096 elements of an accumulator, row by row. -/
def MatState.acc (m : MatState) (k : Nat) : List (BitVec 32) := Tab.dense 0 m.el (4096 * k) 4096

/-- An accumulator's elements, tag and chunk counter replaced. -/
def MatState.setAcc (m : MatState) (k : Nat) (xs : List (BitVec 32)) (tag : BitVec 16) (kc : Nat) : MatState :=
  { m with el := Tab.splice 0 m.el (4096 * k) xs, tag := Tab.set 0 m.tag k tag
           kc := Tab.set 0 m.kc k (BitVec.ofNat 10 (min kc 1023)) }

/-- An accumulator cleared: +0.0, tag 0, KC 0. -/
def MatState.clear (m : MatState) (k : Nat) : MatState :=
  { m with el := m.el.filter (fun e => e.1 / 4096 ≠ k), tag := Tab.erase m.tag k, kc := Tab.erase m.kc k }

/-- Tag and chunk counter. -/
def MatState.tagOf (m : MatState) (k : Nat) : BitVec 16 := Tab.get 0 m.tag k
def MatState.kcOf (m : MatState) (k : Nat) : Nat := (Tab.get 0 m.kc k).toNat

/-- Element (i, j) of an accumulator. -/
def MatState.at (m : MatState) (k i j : Nat) : BitVec 32 := Tab.get 0 m.el (4096 * k + 64 * i + j)

/-- 64 rows of 64. -/
def rows64 {α : Type} (xs : List α) : List (List α) := chunks 64 64 xs

/-! ## What each instruction does to the engine -/

/-- The product tag of R208: code and levels of bits <4:0>. -/
def productTag (ta tb : Nat) : Nat :=
  let cp := ta % 2 + 2 * (tb % 2)
  let lp := if ta % 2 = 1 then ta / 4 % 8 else if tb % 2 = 1 then tb / 4 % 8 else 0
  if cp = 0 then 0 else lp * 4 + cp

/-- One row of the accumulator under MMA: columns up to B's last row. -/
def mmaRow (mode : BitVec 2) (lcn kc : Nat) (x : List (List Nat)) : List (BitVec 32) → List (List (List Nat)) → List FRes
  | e :: es, y :: ys => chunkLoop mode lcn kc 0 (e.toNat, 0) x y :: mmaRow mode lcn kc x es ys
  | es, [] => es.map fun e => (e.toNat, 0)
  | [], _ => []

/-- The rows of the accumulator under MMA: rows up to A's last row. -/
def mmaRows (mode : BitVec 2) (lcn kc : Nat) (b : List (List (List Nat))) :
    List (List (BitVec 32)) → List (List (List Nat)) → List (List FRes)
  | r :: rs, x :: xs => mmaRow mode lcn kc x r b :: mmaRows mode lcn kc b rs xs
  | rs, [] => rs.map fun r => r.map fun e => (e.toNat, 0)
  | [], _ => []

/-- MMA and MMAZ on expanded operands (R198, R209): the engine, the flags, chunk-rows executed and passed over. -/
def MatState.product (m : MatState) (mode : BitVec 2) (lcn k : Nat) (fresh : Bool) (a b : MatOpnd) :
    MatState × Flags × Nat × Nat :=
  let w := min (chunkWidth (m.chunkFmt a.fmt)) (chunkWidth (m.chunkFmt b.fmt))
  let kk := min a.k b.k
  let n := kk / w
  let m0 := if fresh then m.clear k else m
  let kc := m0.kcOf k
  let lim := min kk (min a.vc b.vc + 1)
  let xs := a.rows.map (rowChunks w lim)
  let ys := b.rows.map (rowChunks w lim)
  let rs := mmaRows mode lcn kc ys (rows64 (m0.acc k)) xs
  let fl := rs.foldl (fun f r => f ||| flagsOf r) (flagsOf a.rows.flatten ||| flagsOf b.rows.flatten)
  let skip := passable (a.rows.map (rowChunks w kk)) (b.rows.map (rowChunks w kk)) n
  let tag := if fresh then BitVec.ofNat 16 (productTag a.tag b.tag) else m.tagOf k
  (m0.setAcc k (rs.flatten.map fun e => BitVec.ofNat 32 e.1) tag (kc + n), fl, 64 * n - skip, skip)

/-- A factor of MSCA for row or column i: its own lane, lane 0 along a coefficient axis, or an exact 1. -/
def scaleAt (x : MatSrc) (uniform : Bool) (i : Nat) : Option Nat :=
  match x with
  | .scalar v => some (v.toNat % 2 ^ 32)
  | .vec v => some (elem 32 v.toNat (if uniform then 0 else i))
  | _ => none

/-- MSCA (R212): a holds row factors, b column factors. -/
def MatState.scale (m : MatState) (mode : BitVec 2) (lcn at' as' : Nat) (a b : MatSrc) : MatState × Flags :=
  let c := (m.tagOf at').toNat % 4
  let kc := m.kcOf at'
  let rs := (((m.acc at').zip (m.acc as')).zip (List.range 4096)).map fun e =>
    let i := e.2 / 64
    let j := e.2 % 64
    let fs := [(fp32, e.1.2.toNat)] ++ ((scaleAt a (c % 2 = 1) i).toList.map fun v => (fp32, v)) ++
      ((scaleAt b (2 ≤ c) j).toList.map fun v => (fp32, v))
    exactSum fp32 mode e.1.1.toNat [{ factors := fs }] (some (lcn % 4096 * 1024 + kc))
  (m.setAcc at' (rs.map fun e => BitVec.ofNat 32 e.1) (m.tagOf at') (kc + 1), flagsOf rs)

/-- MLDACC (R216): the accumulator loaded from a tile. -/
def MatState.loadTile (m : MatState) (mode : BitVec 2) (k : Nat) (w0 w1 : Word) (bytes : List Byte) : MatState × Flags :=
  let d := tileOf w0 w1
  let rows := (rowsOf d.rowBytes d.rows bytes).map fun r => pad64 ((m.row mode d.fmt d.cols r).map quieted)
  let xs := (rows.flatten.map fun e => BitVec.ofNat 32 e.1) ++ List.replicate (64 * (64 - d.rows)) 0
  (m.setAcc k xs (BitVec.ofNat 16 (d.tag % 32)) 0, rows.foldl (fun f r => f ||| flagsOf r) 0)

/-! ## The drain (R214) -/

/-- Lev(r) of R214. -/
def detailLevel (ld r : Nat) : Nat :=
  let v := 6 - Nat.log2 r
  if 1 ≤ r ∧ v ≤ ld then v else 0

/-- DetailLevel(i, j) of R214. -/
def leastLevel (cd ld i j : Nat) : Nat :=
  let a := if cd % 2 = 1 then detailLevel ld i else 0
  let b := if 2 ≤ cd then detailLevel ld j else 0
  if a = 0 then b else if b = 0 then a else min a b

/-- Thresholding of one coefficient: a magnitude at most T becomes a zero of its sign. -/
def threshold (t x : Nat) : Nat :=
  if fp32.isNaN x || fp32.isNaN t then x
  else
    let mag := x % fp32.signBit
    if fLt fp32 mag t || fEq fp32 mag t then fp32.signed (fp32.neg x) 0 else x

/-- The transform of step 1: levels from l to ld along rows, then along columns, on 64 by 64 elements. -/
def drainTransform (mode : BitVec 2) (ca la cd ld : Nat) (x : List (List FRes)) : List (List FRes) :=
  let from' := fun (has : Bool) => if has then la + 1 else 1
  let r := if cd % 2 = 1 then
      let l := from' (ca % 2 = 1)
      transpose 64 ((transpose 64 x).map (haarDowns mode l (ld + 1 - l)))
    else x
  if 2 ≤ cd then
    let l := from' (2 ≤ ca)
    r.map (haarDowns mode l (ld + 1 - l))
  else r

/-- Step 2 on the coefficients: row i, column j. -/
def drainThreshold (cd ld : Nat) (th : List (BitVec 32)) (i : Nat) (row : List FRes) : List Nat :=
  (row.zip (List.range 64)).map fun e =>
    let v := leastLevel cd ld i e.2
    if v = 0 then e.1.1 else threshold (nth 0 th (v - 1)).toNat e.1.1

/-- QuantTo of R119 for the formats with one value an element: bits, flags. -/
def quantOne (mode : BitVec 2) (fmt x : Nat) : FRes :=
  match fmt with
  | 0 => quieted (x, 0)
  | 1 => fConv fp32 bf16 mode false x
  | 2 => fConv fp32 fp16 mode false x
  | 3 =>
    let r := roundInt fp32 x (-128) 127 mode
    ((r.1 % 2 ^ 8).toNat, r.2)
  | _ =>
    let r := roundInt fp32 x (-2 ^ 31) (2 ^ 31 - 1) mode
    ((r.1 % 2 ^ 32).toNat, r.2)

/-- Bytes of an element of such a format, and whether its stored value is nonzero. -/
def quantBytes (fmt : Nat) : Nat := if fmt = 1 ∨ fmt = 2 then 2 else if fmt = 3 then 1 else 4
def storedNonzero (fmt v : Nat) : Bool :=
  match fmt with
  | 0 => v % 2 ^ 31 ≠ 0
  | 1 => v % 2 ^ 15 ≠ 0
  | 2 => v % 2 ^ 15 ≠ 0
  | _ => v ≠ 0

/-- A row quantised (R119): its bytes, its nonzero count, its flags. -/
def quantRow (mode : BitVec 2) (fmt : Nat) (row : List Nat) : List Byte × Nat × Flags :=
  if 5 ≤ fmt then
    let f := fmt - 5
    let blocks := (chunks 16 8 row).map fun b =>
      let q := tbQuant f (b ++ List.replicate (16 - b.length) 0)
      let m := tbM f
      let count := if q.1 % 256 = 255 then 16
        else ((List.range b.length).filter fun i => q.1 / 2 ^ (16 + (m + 1) * i) % 2 ^ m ≠ 0).length
      (leBytes (tbBytes f) q.1, count, q.2)
    (blocks.flatMap (·.1), blocks.foldl (fun n b => n + b.2.1) 0, blocks.foldl (fun fl b => fl ||| b.2.2) 0)
  else
    let qs := row.map (quantOne mode fmt)
    (qs.flatMap fun q => leBytes (quantBytes fmt) q.1, (qs.filter fun q => storedNonzero fmt q.1).length, flagsOf qs)

/-- The rows that MDRAIN writes, its count and its flags (R214, steps 1 to 3). -/
def MatState.drainRows (m : MatState) (mode : BitVec 2) (k : Nat) (w0 w1 : Word) (th : List (BitVec 32)) :
    List (List Byte) × Nat × Flags :=
  let d := tileOf w0 w1
  let tag := (m.tagOf k).toNat
  let x0 := (rows64 (m.acc k)).map fun r => r.map fun e => ((e.toNat, 0) : FRes)
  let x := drainTransform mode (tag % 4) (tag / 4 % 8) d.code d.levels x0
  let kept := ((x.zip (List.range 64)).take d.rows).map fun e =>
    let row := if d.tag / 256 % 2 = 1 then drainThreshold d.code d.levels th e.2 e.1 else e.1.map (·.1)
    quantRow mode d.fmt (row.take d.cols)
  (kept.map (·.1), kept.foldl (fun n r => n + r.2.1) 0,
   kept.foldl (fun fl r => fl ||| r.2.2) (x.foldl (fun fl r => fl ||| flagsOf r) 0))

/-! ## Performing an instruction -/

/-- mchk counts the chunk-rows executed and passed over (R190, R199). -/
def Core.countChunks (c : Core) (exec' skip : Nat) : Core :=
  let r := c.reg 0x0C8
  c.setReg 0x0C8 (BitVec.ofNat 64 ((bits r 32 32 + skip) % 2 ^ 32 * 2 ^ 32 + (bits r 0 32 + exec') % 2 ^ 32))

/-- The destination cells of a drain: rows in ascending order (R215). -/
def drainCells (s : State) (lcn : Nat) (d : TileDesc) (frames : Tab Nat) (rows : List (List Byte)) :
    List (Nat × Byte) × List Spot :=
  let es := ((rows.zip (List.range 64)).flatMap fun r => (d.rowEAs r.2).zip r.1).map fun e => (e.1 % 2 ^ 64, e.2)
  (es.filterMap fun e => (s.spotPA lcn frames e.1).map fun a => (a, e.2),
   es.map fun e => { ea := some e.1, pa := s.spotPA lcn frames e.1 })

/-- The effect of an instruction of the engine of a core, and its flags. -/
def State.matPerform (s : State) (lcn : Nat) (o : MatOp) : State × Flags :=
  let c := s.coreAt lcn
  let m := c.mat
  let upd := fun (m : MatState) => s.updCoreAt lcn fun c => { c with mat := { m with rem := c.mat.rem, queue := c.mat.queue } }
  let mma := fun (fresh : Bool) (k : Nat) =>
    let a := m.expand o.rm o.a
    let b := m.expand o.rm o.b
    let r := m.product o.rm (s.lcnShown lcn) k fresh a b
    ((upd r.1).updCoreAt lcn (·.countChunks r.2.2.1 r.2.2.2), r.2.1)
  match o.i with
  | .mma _ k _ _ _ _ _ _ => mma false k.toNat
  | .mmaz _ k _ _ _ _ _ _ => mma true k.toNat
  | .msca _ k _ _ _ src =>
    let r := m.scale o.rm (s.lcnShown lcn) k.toNat src.toNat o.a o.b
    ((upd r.1).updCoreAt lcn (·.countChunks 64 0), r.2)
  | .mdrain _ k _ g x =>
    match o.a with
    | .dest w0 w1 frames th =>
      let r := m.drainRows o.rm k.toNat w0 w1 th
      let cells := drainCells s lcn (tileOf w0 w1) frames r.1
      let left := match o.split with
        | some t => cells.1.filter fun e => !Config.wordNew t (e.1 / 4)
        | none => cells.1
      let t := s.performWrite (Party.own lcn 0) left cells.2
      (t.updCoreAt lcn fun c =>
        { c.updCtx 0 (·.setGr g (BitVec.ofNat 64 r.2.1)) with mat := if x = 1 then c.mat.clear k.toNat else c.mat }, r.2.2)
    | _ => (s, 0)
  | .mldacc _ k _ =>
    match o.a with
    | .tile w0 w1 bytes =>
      let r := m.loadTile o.rm k.toNat w0 w1 bytes
      (upd r.1, r.2)
    | _ => (s, 0)
  | .mzero _ k => (upd (m.clear k.toNat), 0)
  | .mmovvToAcc _ k _ _ =>
    match o.a, o.b with
    | .vec v, .scalar g =>
      let row := (List.range 64).map fun j => BitVec.ofNat 32 (elem 32 v.toNat j)
      (upd { m with el := Tab.splice 0 m.el (4096 * k.toNat + 64 * bits g 0 6) row }, 0)
    | _, _ => (s, 0)
  | .mtag _ k _ =>
    match o.a with
    | .scalar t => (upd { m with tag := Tab.set 0 m.tag k.toNat (BitVec.ofNat 16 (bits t 0 5)) }, 0)
    | _ => (s, 0)
  | .cbload _ _ f n =>
    match o.a with
    | .block _ bytes =>
      let bit := BitVec.ofNat 8 (2 ^ n.toNat)
      (upd { m with code := Tab.splice 0 m.code (2048 * n.toNat) bytes
                    codeFmt := if f = 1 then m.codeFmt ||| bit else m.codeFmt &&& ~~~bit }, 0)
    | _ => (s, 0)
  | _ => (s, 0)

/-! ## The governor (R199, R200, R392) -/

/-- A step of the engine serves every row with a chunk queued, and rows with two queued again while slots are left (R199): what is
left queued in each row. -/
def serveRows : Nat → List Nat → List Nat
  | _, [] => []
  | spare, q :: t => if 2 ≤ q ∧ 0 < spare then (q - 2) :: serveRows (spare - 1) t else (q - 1) :: serveRows spare t

/-- Chunk-rows executed in each step: by the chunk pairs still to scan, each with its rows' chunks that are not passable, and the
rows' queues, four deep (R199). -/
def engineSteps : Nat → List (List Nat) → List Nat → List Nat
  | 0, _, _ => []
  | n + 1, pairs, q =>
    let left := serveRows (64 - (q.filter (0 < ·)).length) q
    let here := q.sum - left.sum
    match pairs with
    | p :: t =>
      let more := List.zipWith (· + ·) left p
      if more.all (· ≤ 4) then here :: engineSteps n t more else here :: engineSteps n pairs left
    | [] => if left.sum = 0 then [here] else here :: engineSteps n [] left

/-- Chunk c of row r is executed: it is not passable (R198). -/
def executed (a b : List (List (List Nat))) (c r : Nat) : Bool :=
  !chunkFinite b c || match (a.drop r).head? with | some x => !allZero (nth [] x c) | none => false

/-- The weights of the steps in which an MMA executes chunk-rows (R199, R200). -/
def MatState.steps (m : MatState) (a b : MatOpnd) : List Nat :=
  let fa := m.chunkFmt a.fmt
  let fb := m.chunkFmt b.fmt
  let w := min (chunkWidth fa) (chunkWidth fb)
  let kk := min a.k b.k
  let xs := a.rows.map (rowChunks w kk)
  let ys := b.rows.map (rowChunks w kk)
  let n := kk / w
  let pair := fun p => (List.range 64).map fun r => b2n (executed xs ys (2 * p) r) + b2n (2 * p + 1 < n && executed xs ys (2 * p + 1) r)
  let counts := engineSteps 512 ((List.range ((n + 1) / 2)).map pair) (List.replicate 64 0)
  (counts.filter (· ≠ 0)).map (· * max (chunkWeight fa) (chunkWeight fb))

/-- The steps of an instruction, by their weights; an MSCA has 16 steps of four chunk-rows of weight 4 (R212). -/
def MatState.stepsOf (m : MatState) (o : MatOp) : List Nat :=
  match o.i with
  | .mma _ _ _ _ _ _ _ _ => m.steps (m.expand o.rm o.a) (m.expand o.rm o.b)
  | .mmaz _ _ _ _ _ _ _ _ => m.steps (m.expand o.rm o.a) (m.expand o.rm o.b)
  | .msca _ _ _ _ _ _ => List.replicate 16 16
  | _ => []

/-- Steps admitted while the budget is above zero (R200): what is left of it, and how many they are. -/
def admitted : Int → List Nat → Int × Nat
  | rem, [] => (rem, 0)
  | rem, n :: t =>
    if rem ≤ 0 then (rem, 0)
    else
      let r := admitted (rem - (n : Int)) t
      (r.1, r.2 + 1)

/-- The governor of a core admits the steps of an instruction that are still to execute: those admitted in all, whether that is
every one, and the state with its budget less their weights. A step's rows are those of a schedule that was not held (DESIGN
CHOICE, log entry 9). -/
def State.govern (s : State) (lcn : Nat) (o : MatOp) : Nat × Bool × State :=
  let s := s.updCoreAt lcn fun c => c.governNow s.clock
  let c := s.coreAt lcn
  if !c.governed then (o.steps, true, s)
  else
    let due := (c.mat.stepsOf o).drop o.steps
    let (rem, n) := admitted c.mat.rem due
    (o.steps + n, n == due.length, s.updCoreAt lcn fun c => { c with mat := { c.mat with rem := rem } })

/-- Held cycles count in mstall, saturating: how many is free (log entry 7). -/
def State.noteHeld (s : State) (lcn : Nat) : State :=
  let n := Config.extraCycles s.tick + 1
  (s.fresh.2).updCoreAt lcn fun c => c.setReg 0x0C3 (BitVec.ofNat 64 (satNat ((c.reg 0x0C3).toNat + n) (2 ^ 64 - 1)))

/-- The writes of a drain are held: by an older buffered store, or by an in-flight footprint older than it (R210, R215). -/
def State.drainHeld (s : State) (lcn : Nat) (o : MatOp) : Bool :=
  match o.a with
  | .dest w0 w1 frames _ =>
    let eas := (tileOf w0 w1).eas.map (· % 2 ^ 64)
    let pas := eas.filterMap (s.spotPA lcn frames)
    let c := s.coreAt lcn
    c.fpHoldsDrain o.seq pas || c.sb.any fun e =>
      e.seq ≤ o.seq && (e.ctx == 0 && ((eas.filter fun a => !outOfRange a).any e.covers ||
        (s.entryPas lcn e).any fun a => pas.any (· == a)))
  | _ => false

/-! ## Issue -/

/-- A queued instruction that a younger one waits for: what it writes is read when the younger one issues. -/
def MatOp.blocks (o : MatOp) : Bool :=
  match o.i with
  | .mdrain _ _ _ _ _ => true
  | .cbload _ _ _ _ => true
  | _ => false

/-- The tag that an accumulator has when the queued instructions have been performed. -/
def tagAfter (k : Nat) (tag : BitVec 16) : List MatOp → BitVec 16
  | [] => tag
  | o :: t =>
    tagAfter k (match o.i, o.a, o.b with
      | .mmaz _ c _ _ _ _ _ _, a, b =>
        let code := fun (x : MatSrc) => match x with | .tile _ w1 _ => bits w1 23 16 | _ => 0
        if c.toNat = k then BitVec.ofNat 16 (productTag (code a) (code b)) else tag
      | .mldacc _ c _, .tile _ w1 _, _ => if c.toNat = k then BitVec.ofNat 16 (bits w1 23 5) else tag
      | .mzero _ c, _, _ => if c.toNat = k then 0 else tag
      | .mtag _ c _, .scalar v, _ => if c.toNat = k then BitVec.ofNat 16 (bits v 0 5) else tag
      | _, _, _ => tag) t

/-- The tag of an accumulator as the next instruction meets it. -/
def Core.accTag (c : Core) (k : BitVec 2) : BitVec 16 := tagAfter k.toNat (c.mat.tagOf k.toNat) c.mat.queue

/-- An accepted instruction is queued and performed later (log entry 9). -/
def State.queues (s : State) (lk : BitVec 4) : Bool := s.late && (lk != 0 && s.en == 0)

/-- Room in the queue, nothing queued whose writes the instruction must see, and for one performed at once an idle engine. -/
def State.matEnter (s : State) (lk : BitVec 4) (f : State → State) : State :=
  let q := s.core.mat.queue
  if q.any MatOp.blocks || (4 ≤ q.length || (!s.queues lk && !q.isEmpty)) then s.stall .matrix else f s

/-- An instruction joins the queue and retires. -/
def State.enqueue (s : State) (o : MatOp) : State :=
  (s.updCore fun c => { c with count := c.count + 1, mat := { c.mat with queue := c.mat.queue ++ [o] } }).retire

/-- An instruction of the engine past its checks: queued, or performed at once; an enabled flag traps it with no effect (R109,
R188). One that the governor holds between its steps stays in the queue with no place left in its window, so that nothing issues
before it completes. `oor` lists the accesses it records in oorf. -/
def State.matAccept (s : State) (lk : BitVec 4) (o : MatOp) (write : Bool) (oor : List (List Nat)) : State :=
  let o := { o with left := lk.toNat, rm := s.rm, seq := s.core.count + 1, pc := s.cx.faultPc }
  if s.drainHeld s.lcn o then s.stall .drain
  else if s.queues lk then
    (s.updCx (·.recordOors write oor)).enqueue o
  else
    let (n, done, t) := s.govern s.lcn o
    let r := t.matPerform s.lcn o
    s.unlessTrapped r.2 fun _ =>
      if done then ((r.1.updCx (·.recordOors write oor)).raise r.2).retire
      else ((t.updCx (·.recordOors write oor)).enqueue { o with left := 0, steps := n }).noteHeld s.lcn

/-- An instruction of the engine with its operands. -/
def matOp (i : Instr) (a b : MatSrc) : MatOp := { i := i, left := 0, rm := 0, seq := 0, pc := 0, split := none, steps := 0, a := a, b := b }

/-- tinfo of a domain mismatch of a matrix instruction (R204). -/
def matInfo (atag otag mwhy kind : Nat) (tb ta : BitVec 2) (i : Instr) : Word :=
  BitVec.ofNat 64 (atag % 32 * 2 ^ 51 + otag % 32 * 2 ^ 46 + mwhy * 2 ^ 43 + kind * 2 ^ 38 + tb.toNat * 2 ^ 34 +
    ta.toNat * 2 ^ 32 + (encode i).toNat)

/-- The eight registers of a group as bytes. -/
def VecState.groupBytes (v : VecState) (r : BitVec 5) : BitVec 16384 :=
  BitVec.ofNat 16384 ((groupRegs r).foldr (fun x acc => (v.reg x).data.toNat + acc * 2 ^ 2048) 0)

/-- The first nonzero code of a group: where its registers carry different ones, that of the lowest (DESIGN CHOICE, log entry 76). -/
def VecState.groupCode (v : VecState) (r : BitVec 5) : Option (BitVec 2) :=
  ((groupRegs r).map fun x => (v.reg x).dom).find? (· != 0)

/-- The descriptor check of an MMA operand: a tile's, or that of a VQ8 group (R193, R207). -/
def State.opndWhy (s : State) (group : BitVec 1) (r : BitVec 5) (fmt : BitVec 4) : Option Nat :=
  if group = 1 then (if fmt = 8 && !s.core.mat.oneFormat then some 6 else none)
  else s.tileWhy .operand (s.g r) (s.g (pairHi r))

/-- TAG of an MMA operand; a group's is 0. -/
def State.opndTag (s : State) (group : BitVec 1) (r : BitVec 5) : Nat := if group = 1 then 0 else bits (s.g (pairHi r)) 23 16

/-- The first failing domain check of MMA or MMAZ (R208): MWHY, KIND, the tag compared, the offending code. -/
def State.mmaDomain (s : State) (fresh : Bool) (k : BitVec 2) (a b : BitVec 5) (g h : BitVec 1) :
    Option (Nat × Nat × Nat × BitVec 2) :=
  let v := s.core.vec
  let ta := s.opndTag g a
  let tb := s.opndTag h b
  match (if g = 1 then v.groupCode a else none), (if h = 1 then v.groupCode b else none) with
  | some c, _ => some (1, 1, 0, c)
  | none, some c => some (2, 1, 0, c)
  | none, none =>
    if ta % 2 = 1 ∧ tb % 2 = 1 ∧ ta / 4 % 8 ≠ tb / 4 % 8 then some (3, 3, 0, 0)
    else if !fresh && (s.core.accTag k).toNat % 32 != productTag ta tb then some (4, 3, productTag ta tb, 0)
    else none

/-- Bytes of the descriptor operands, A then B; a group has none. -/
def State.opndEAs (s : State) (group : BitVec 1) (r : BitVec 5) : List Nat :=
  if group = 1 then [] else ((tileOf (s.g r) (s.g (pairHi r))).eas).map (· % 2 ^ 64)

/-- An operand with the bytes read for it. -/
def State.opndSrc (s : State) (group : BitVec 1) (r : BitVec 5) (fmt : BitVec 4) (bytes : List Byte) : MatSrc :=
  if group = 1 then .group (s.core.vec.groupBytes r) fmt else .tile (s.g r) (s.g (pairHi r)) bytes

/-- MMA and MMAZ (R203, R207 to R209). -/
def matMultiply (i : Instr) (fresh : Bool) (l : BitVec 4) (k : BitVec 2) (a b : BitVec 5) (g h : BitVec 1) (e f : BitVec 4)
    (s : State) : Out :=
  issue i s fun s => s.matEnter l fun s =>
    match s.opndWhy g a e, s.opndWhy h b f with
    | some why, _ => s.trap 0x09 (tileInfo why 0 i)
    | none, some why => s.trap 0x09 (tileInfo why 1 i)
    | none, none =>
      match s.mmaDomain fresh k a b g h with
      | some (mwhy, kind, otag, ta) => s.trap 0x08 (matInfo (s.core.accTag k).toNat otag mwhy kind 0 ta i)
      | none =>
        let ops := [s.opndEAs g a, s.opndEAs h b]
        s.readOperands ops fun s bs =>
          s.matAccept l (matOp i (s.opndSrc g a e (nth [] bs 0)) (s.opndSrc h b f (nth [] bs 1))) false ops

/-! ## Meanings -/

/-- MMA (R209). -/
def execMma (l : BitVec 4) (c : BitVec 2) (a b : BitVec 5) (g h : BitVec 1) (e f : BitVec 4) (s : State) : Out :=
  matMultiply (.mma l c a b g h e f) false l c a b g h e f s

/-- MMAZ (R209). -/
def execMmaz (l : BitVec 4) (c : BitVec 2) (a b : BitVec 5) (g h : BitVec 1) (e f : BitVec 4) (s : State) : Out :=
  matMultiply (.mmaz l c a b g h e f) true l c a b g h e f s

/-- MSCA (R211, R212). -/
def execMsca (l : BitVec 4) (c : BitVec 2) (a b : BitVec 5) (k src : BitVec 2) (s : State) : Out :=
  issue (.msca l c a b k src) s fun s => s.matEnter l fun s =>
    let v := s.core.vec
    let va := v.reg (a.setWidth 6)
    let vb := v.reg (b.setWidth 6)
    let ta := if k = 0 then 0 else va.dom
    let tb := if k = 3 then vb.dom else 0
    let at' := (s.core.accTag c).toNat
    let as' := (s.core.accTag src).toNat
    if at' % 32 ≠ as' % 32 then s.trap 0x08 (matInfo at' as' 5 3 tb ta (.msca l c a b k src))
    else if ta ≠ 0 ∨ tb ≠ 0 then s.trap 0x08 (matInfo at' as' 5 1 tb ta (.msca l c a b k src))
    else
      let row : MatSrc := if k = 0 then .scalar (s.g a) else if k = 2 then .none else .vec va.data
      let col : MatSrc := if k = 2 then .vec va.data else if k = 3 then .vec vb.data else .none
      s.matAccept l (matOp (.msca l c a b k src) row col) false []

/-- The six thresholds of register thn (R227). -/
def Core.thresholds (c : Core) (n : Nat) : List (BitVec 32) :=
  (List.range 6).map fun v => BitVec.ofNat 32 (bits (c.reg (0x0D0 + 4 * n + v / 2)) (32 * (v % 2)) 32)

/-- MDRAIN (R213 to R215). A translation fault of its footprint writes pfinfo with KIND 3 (DEDUCED, log entry 77). -/
def execMdrain (l : BitVec 4) (c : BitVec 2) (a b : BitVec 5) (x : BitVec 1) (s : State) : Out :=
  issue (.mdrain l c a b x) s fun s => s.matEnter l fun s =>
    let w0 := s.g a
    let w1 := s.g (pairHi a)
    let d := tileOf w0 w1
    match s.tileWhy .drain w0 w1 with
    | some why => s.trap 0x09 (tileInfo why 2 (.mdrain l c a b x))
    | none =>
      let tag := (s.core.accTag c).toNat
      let ca := tag % 4
      if (ca % 2 = 1 ∧ d.code % 2 = 0) ∨ (2 ≤ ca ∧ d.code < 2) ∨ (ca ≠ 0 ∧ d.levels < tag / 4 % 8) then
        s.trap 0x08 (matInfo tag d.tag 6 3 0 0 (.mdrain l c a b x))
      else
        let eas := d.eas.map (· % 2 ^ 64)
        s.reach id kindMatrix (s.query s.lcn s.k false true false true) eas fun s frames =>
          s.matAccept l (matOp (.mdrain l c a b x) (.dest w0 w1 frames (s.core.thresholds (d.tag / 32 % 8))) .none)
            true [eas]

/-- MLDACC (R216). -/
def execMldacc (l : BitVec 4) (c : BitVec 2) (a : BitVec 5) (s : State) : Out :=
  issue (.mldacc l c a) s fun s => s.matEnter l fun s =>
    let w0 := s.g a
    let w1 := s.g (pairHi a)
    match s.tileWhy .load w0 w1 with
    | some why => s.trap 0x09 (tileInfo why 0 (.mldacc l c a))
    | none =>
      let eas := (tileOf w0 w1).eas.map (· % 2 ^ 64)
      s.readOperands [eas] fun s bs =>
        s.matAccept l (matOp (.mldacc l c a) (.tile w0 w1 (nth [] bs 0)) .none) false [eas]

/-- MZERO (R217). -/
def execMzero (l : BitVec 4) (c : BitVec 2) (s : State) : Out :=
  issue (.mzero l c) s fun s => s.matEnter l fun s => s.matAccept l (matOp (.mzero l c) .none .none) false []

/-- MMOVV, accumulator row to vector (R218): it is written by R42. -/
def execMmovvToV (l : BitVec 4) (c : BitVec 2) (a b : BitVec 5) (s : State) : Out :=
  issue (.mmovvToV l c a b) s fun s =>
    if !s.core.mat.queue.isEmpty then s.stall .matrix
    else
      let m := s.core.mat
      let r := bits (s.g b) 0 6
      let x := ofElems 32 ((List.range 64).map fun j => (m.at c.toNat r j).toNat)
      let code := BitVec.ofNat 2 (m.tagOf c.toNat).toNat
      (s.results l.toNat [] [(a.setWidth 6, { data := x, dom := code })] 0).retire

/-- MMOVV, vector to accumulator row (R218). -/
def execMmovvToAcc (l : BitVec 4) (c : BitVec 2) (a b : BitVec 5) (s : State) : Out :=
  issue (.mmovvToAcc l c a b) s fun s => s.matEnter l fun s =>
    let v := s.core.vec.reg (a.setWidth 6)
    let tag := (s.core.accTag c).toNat
    if v.dom.toNat ≠ tag % 4 then s.trap 0x08 (matInfo tag v.dom.toNat 7 3 0 v.dom (.mmovvToAcc l c a b))
    else s.matAccept l (matOp (.mmovvToAcc l c a b) (.vec v.data) (.scalar (s.g b))) false []

/-- MTAG (R219). -/
def execMtag (l : BitVec 4) (c : BitVec 2) (a : BitVec 5) (s : State) : Out :=
  issue (.mtag l c a) s fun s => s.matEnter l fun s =>
    let t := bits (s.g a) 0 16
    let bad : Bool := t / 512 != 0 || ((t % 4 == 0 && t / 4 % 8 != 0) ||
      (t % 4 != 0 && !(1 ≤ t / 4 % 8 && t / 4 % 8 ≤ 6)))
    if bad then s.trap 0x09 (tileInfo 5 0 (.mtag l c a))
    else s.matAccept l (matOp (.mtag l c a) (.scalar (s.g a)) .none) false []

/-- CBLOAD (R220): the bytes are one access. -/
def execCbload (l : BitVec 4) (a : BitVec 5) (f : BitVec 1) (n : BitVec 3) (s : State) : Out :=
  issue (.cbload l a f n) s fun s => s.matEnter l fun s =>
    let size := if f = 1 then 1024 else 2048
    let ea := s.g a
    if ea.toNat % size ≠ 0 then s.trap 0x04 ea
    else
      s.readOperands [byteEAs ea size] fun s bs =>
        s.matAccept l (matOp (.cbload l a f n) (.block ea (nth [] bs 0)) .none) false [byteEAs ea size]

/-! ## Events of the engine -/

/-- A drain at the head of the queue writes some of its words before the rest: the free choice says whether, and which (R45). -/
def State.drainSplits (s : State) (lcn : Nat) (o : MatOp) : Option State :=
  match o.i, o.split, o.a with
  | .mdrain _ k _ _ _, none, .dest w0 w1 frames th =>
    if Config.freeIndex s.tick % 2 = 0 then none
    else
      let r := (s.coreAt lcn).mat.drainRows o.rm k.toNat w0 w1 th
      let cells := (drainCells s lcn (tileOf w0 w1) frames r.1).1.filter fun e => Config.wordNew s.tick (e.1 / 4)
      let t := s.performWrite (Party.own lcn 0) cells []
      some (t.updCoreAt lcn fun c =>
        { c with mat := { c.mat with queue := c.mat.queue.map fun x => if x.seq = o.seq then { x with split := some s.tick } else x } })
  | _, _, _ => none

/-- MATRIX_QUEUE_PERFORM (R186 to R188, R199): the oldest queued instruction of a core is performed, or as many of its steps as the
governor admits, unless an overlapping access holds it; its flags reach fpm and flagu. -/
def execMatrixQueuePerform (lcn : Nat) (s : State) : Out :=
  match (s.coreAt lcn).mat.queue with
  | [] => .next s
  | o :: t =>
    if s.drainHeld lcn o then .next s
    else
      match s.govern lcn o with
      | (n, false, s) =>
        .next ((s.updCoreAt lcn fun c => { c with mat := { c.mat with queue := { o with steps := n } :: t } }).noteHeld lcn)
      | (_, true, s) =>
      match s.drainSplits lcn o with
      | some u => .next u
      | none =>
      let r := s.matPerform lcn o
      .next (s.at lcn 0 fun _ =>
        let u := { r.1 with lcn := lcn, k := 0 }
        (u.updCore fun c => { c with mat := { c.mat with queue := t } }).raise r.2)

/-- A governor window of a core has ended: its cycles have passed while the control context was live and not halted (R200). -/
def State.governorDue (s : State) (lcn : Nat) : Bool :=
  let c := s.coreAt lcn
  let x := c.ctx 0
  x.live && (!x.halted && c.mat.winAt + c.governor.1 ≤ x.cycles s.clock)

/-- GOVERNOR_WINDOW_START (R200): mgov as written takes effect, and the budget is renewed less what was overdrawn. -/
def execGovernorWindowStart (lcn : Nat) (s : State) : Out :=
  .next (if s.governorDue lcn then s.updCoreAt lcn Core.startGovernor else s)

/-- MGOV_WRITE (R190, R200, R392): mgov of a core written by its supervisor, a BUDGET above the ceiling stored as the ceiling.
It takes effect at the next window start. -/
def execMgovWrite (lcn : Nat) (v : BitVec 64) (s : State) : Out := .next (s.supWrite lcn 0x0C2 v)

end Sys2Proof.Machine
end

