-- ==== Sys2Proof/Machine/HostSide.lean ====
section
/-!
DEFINITION. The host side: queues and their entries (R402 to R405, R409, R410), completion records (R406, R407), gang entry
(R34, R401) and end (R143, R153, R407), the fault agent (R413), and root firmware's partitions, images and attestation (R400,
R412 to R417, R421).
-/

namespace Sys2Proof.Machine

/-! ## Host memory and a partition's virtual space (R398, R401, R409) -/

/-- Bytes written to host memory by the module, unless the host refuses. -/
def State.hostWrite (s : State) (h : Nat) (bs : List Byte) : Bool × State :=
  let (n, s) := s.fresh
  if Config.hostRefuses n (BitVec.ofNat 43 h) then (false, s)
  else
    let pa := s.hostPA h
    (true, s.performWrite Party.host (bs.zipIdx.map fun b => (pa + b.2, b.1)) (spotsAt pa bs.length))

/-- Bytes of host memory read by the module, unless the host refuses. -/
def State.hostRead (s : State) (h n : Nat) : Option (List Byte) × State :=
  let (t, s) := s.fresh
  if Config.hostRefuses t (BitVec.ofNat 43 h) then (none, s)
  else
    let s := s.performRead Party.host (spotsAt (s.hostPA h) n)
    (some (s.bytesAt (s.hostPA h) n), s)

/-- A register of a partition's profile. -/
def Part.reg (p : Part) (n : Nat) : Word := Tab.get 0 p.sr n

/-- The page-table root of an ASID of a partition: of its profile, or of a core that binds it (R243; log entry 29). -/
def State.spaceRoot (s : State) (part : Nat) (asid : BitVec 10) : Option Nat :=
  let p := s.partAt part
  if bit (p.reg 0x1A3) 63 && bits (p.reg 0x1A3) 0 10 == asid.toNat then some (bits (p.reg 0x1A4) 15 41)
  else
    (List.find? (fun (e : Nat × Core) => s.partHeld e.1 == some part && e.2.bound == some asid) s.cores).map fun e => e.2.root

/-- The logical tower that holds an address does not serve (R378). -/
def State.homeLost (s : State) (pa : Nat) : Bool := match s.towerOfPA pa with | some t => !s.towerServes t | none => false

/-- The physical address of a virtual one for the host, at supervisor rights (R409): reasons 4 and 5 do not apply, a page not
present is reason 18, and a home in a tower that does not serve is reason 16. Memory of a peer module is not reached so (R418). -/
def State.hostXlate (s : State) (part : Nat) (asid : BitVec 10) (root : Nat) (wr : Bool) (va : Nat) : Except Nat Nat :=
  if !isVirtual va then .error 13
  else
    match (s.walk none part asid root va).1 with
    | .absent => .error 18
    | .bad => .error 9
    | .leaf v =>
      let pa := bits v 18 38 * 2 ^ 18 + va % 2 ^ 18
      if !wr && !bit v 1 then .error 1
      else if wr && !bit v 2 then .error 2
      else if wr && bit v 4 then .error 6
      else if s.isPeer pa || !s.backed part pa then .error 8
      else if s.homeLost pa then .error 16
      else .ok pa

/-- The pages of a range translated in ascending order: the physical addresses of its bytes, or the first failure with its
reason and address. -/
def State.hostPages (s : State) (part : Nat) (asid : BitVec 10) (root : Nat) (wr : Bool) (va : Nat) :
    Nat → Except (Nat × Nat) (List Nat)
  | 0 => .ok []
  | n + 1 =>
    let lo := if n = 0 then va else (va / 2 ^ 18 + n) * 2 ^ 18
    match s.hostPages part asid root wr va n with
    | .error e => .error e
    | .ok ps =>
      match s.hostXlate part asid root wr lo with
      | .error r => .error (r, lo)
      | .ok pa => .ok (ps ++ [pa / 2 ^ 18 * 2 ^ 18])

/-- The physical addresses of n bytes of a partition's virtual space. -/
def State.hostRange (s : State) (part : Nat) (asid : BitVec 10) (root : Nat) (wr : Bool) (va n : Nat) :
    Except (Nat × Nat) (List Nat) :=
  if n = 0 then .ok []
  else
    match s.hostPages part asid root wr va (pagesOf va n) with
    | .error e => .error e
    | .ok ps => .ok ((List.range n).map fun i => nth 0 ps ((va % 2 ^ 18 + i) / 2 ^ 18) + (va + i) % 2 ^ 18)

/-- The profile's address space: its ASID and root; none where V = 0 (R401). -/
def Part.space (p : Part) : Option (BitVec 10 × Nat) :=
  if bit (p.reg 0x1A3) 63 then some (BitVec.ofNat 10 (bits (p.reg 0x1A3) 0 10), bits (p.reg 0x1A4) 15 41) else Option.none

/-- The physical addresses of a range through the profile; reason 7 without a space. -/
def State.profileRange (s : State) (part va n : Nat) : Except (Nat × Nat) (List Nat) :=
  match (s.partAt part).space with
  | none => .error (7, va)
  | some (a, root) => s.hostRange part a root false va n

/-! ## Queues (R402, R403) -/

/-- A hardware queue. -/
def State.queueAt (s : State) (q : Nat) : HQueue := Tab.get HQueue.reset s.host.queues q

/-- A queue changed. -/
def State.updQueue (s : State) (q : Nat) (f : HQueue → HQueue) : State :=
  { s with host := { s.host with queues := Tab.put s.host.queues q (f (s.queueAt q)) } }

/-- The event queue of a virtual function. -/
def State.eventAt (s : State) (v : Nat) : EventQ := Tab.get EventQ.reset s.host.events v

/-- An event queue changed. -/
def State.updEvent (s : State) (v : Nat) (f : EventQ → EventQ) : State :=
  { s with host := { s.host with events := Tab.put s.host.events v (f (s.eventAt v)) } }

/-- The partition to which a virtual function is bound. -/
def State.vfPart (s : State) (v : Nat) : Option Nat :=
  (List.find? (fun (e : Nat × Part) => e.2.vfs.contains v) s.host.parts).map (·.1)

/-- The partition of a queue. -/
def State.queuePart (s : State) (q : Nat) : Option Nat := (s.queueAt q).vf.bind s.vfPart

/-- Entries that the host has released and the dispatcher has not accepted. -/
def HQueue.waiting (q : HQueue) : Nat := (q.tail - q.accept).toNat

/-- The block numbers of event queues among the doorbell writes: 4096 + v is that of virtual function v (DESIGN CHOICE, log
entry 30). -/
def eventBlock (q : Nat) : Option Nat := if 4096 ≤ q ∧ q < 4160 then some (q - 4096) else none

/-- DOORBELL_TAIL_WRITE (R402): TAIL of a queue, or HEAD of an event queue (R413). -/
def execDoorbellTailWrite (q : Nat) (tail : BitVec 32) (s : State) : Out :=
  match eventBlock q with
  | some v => .next (s.updEvent v fun e => { e with head := tail })
  | none =>
    if (s.queueAt q).vf.isNone then .next s
    else
      .next (s.updQueue q fun x =>
        let x := { x with tail := tail }
        if x.err = 0 ∧ 2 ^ x.size.toNat < x.waiting then { x with err := 1 } else x)

/-- DOORBELL_SIZE_WRITE (R402): BASE and SIZE of a queue or an event queue; ERR clears. -/
def execDoorbellSizeWrite (q : Nat) (size : BitVec 8) (base : BitVec 64) (s : State) : Out :=
  match eventBlock q with
  | some v => .next (s.updEvent v fun e => { e with size := size, base := base, err := 0 })
  | none =>
    if (s.queueAt q).vf.isNone then .next s
    else .next (s.updQueue q fun x => { x with size := size, base := base, err := 0 })

/-- QUEUE_ENTRY_ACCEPT (R403). -/
def execQueueEntryAccept (q : Nat) (s : State) : Out :=
  let x := s.queueAt q
  if (s.queuePart q).isNone || (x.err != 0 || (x.waiting == 0 || (8 ≤ x.held.length || (x.size == 0 || 16 < x.size.toNat)))) then
    .next s
  else if 2 ^ x.size.toNat < x.waiting then .next (s.updQueue q fun x => { x with err := 1 })
  else
    match s.hostRead (x.base.toNat + 128 * (x.accept.toNat % 2 ^ x.size.toNat)) 128 with
    | (none, s) => .next (s.updQueue q fun x => { x with err := 2 })
    | (some bs, s) => .next (s.updQueue q fun x => { x with accept := x.accept + 1, held := x.held ++ [{ bytes := bs, passed := false }] })

/-! ## Completion records (R406, R407) -/

/-- A completion record of a queue's entry, where CPLADDR asks for one. -/
def State.complete (s : State) (q : Nat) (seq cpl : Word) (flags status killed sfs : Nat) (x : Word) : State :=
  if cpl = 0 then s
  else
    (s.hostWrite cpl.toNat (leBytes 1 7 ++ (leBytes 1 flags ++ (leBytes 1 status ++ (leBytes 1 0 ++ (leBytes 2 q ++ (leBytes 2 0 ++
      (leBytes 8 seq.toNat ++ (leBytes 4 killed ++ (leBytes 4 sfs ++ (leBytes 8 x.toNat ++ zeros 32))))))))))).2

/-- The head entry of a queue, where its kind is one that an operation handles. -/
def State.headOf (s : State) (q : Nat) : Option (List Byte) := ((s.queueAt q).held.head?).map (·.bytes)

/-- The head entry has passed its checks before (R405). -/
def State.headPassed (s : State) (q : Nat) : Bool := match (s.queueAt q).held with | e :: _ => e.passed | [] => false

/-- The head entry has passed its checks: it holds the head until it starts. -/
def State.passHead (s : State) (q : Nat) : State :=
  s.updQueue q fun x => { x with held := match x.held with | e :: t => { e with passed := true } :: t | [] => [] }

/-- The head entry counts as started. -/
def State.popHead (s : State) (q : Nat) : State := s.updQueue q fun x => { x with held := x.held.tail }

/-- SEQ and CPLADDR of an entry. -/
def entrySeq (r : List Byte) : Word := recWord r 0x40
def entryCpl (r : List Byte) : Word := recWord r 0x48

/-- CPLADDR is not a multiple of 64: the entry is refused, and no record is written. -/
def badCpl (r : List Byte) : Bool := bits (entryCpl r) 0 6 != 0

/-- The head entry refused, or ended at once: only the final record is written. -/
def State.finishHead (s : State) (q : Nat) (r : List Byte) (status : Nat) (x : Word) : State :=
  let s := s.popHead q
  if badCpl r then s else s.complete q (entrySeq r) (entryCpl r) 3 status 0 0 x

/-! ## Gang entry (R34, R69, R123, R401) -/

/-- The gangs of a partition that have not ended. -/
def State.partGangs (s : State) (part : Nat) : List Gang := s.arb.gangs.filter fun g => g.part == part && !g.ended

/-- Gangs that have ended and whose registers no core shows any more are forgotten, with their domains. -/
def State.purge (s : State) : State :=
  let gs := s.arb.gangs.filter fun g => !g.ended || s.cores.any (fun e => e.2.mem.shown == g.id)
  { s with arb := { s.arb with gangs := gs, doms := s.arb.doms.filter fun d => gs.any (fun g => g.id == d.key.gang) } }

/-- A core is free of gangs. -/
def State.coreFree (s : State) (lcn : Nat) : Bool := (s.coreAt lcn).mem.gang == 0

/-- A logical tower that a launch of a partition may use: placed, serving, and held by it (R405). -/
def State.usable (s : State) (part tower : Nat) : Bool := s.towerServes tower && (s.towerAt tower).part == some part

/-- Distance of the sites of two logical towers. -/
def State.apart (s : State) (a b : Nat) : Bool := 2 ≤ s.hops a b

/-- The towers of a rectangle. -/
def rectTowers (x0 y0 x1 y1 : Nat) : List Nat :=
  (List.range (y1 + 1 - y0)).flatMap fun j => (List.range (x1 + 1 - x0)).map fun i => (y0 + j) * 16 + (x0 + i)

/-- The rectangles that can shadow one (R326): free logical towers of the partition, each site two hops or more from its
primary's. -/
def State.shadowRects (s : State) (part x0 y0 x1 y1 : Nat) : List (Nat × Nat) :=
  let w := x1 - x0
  let h := y1 - y0
  ((List.range s.rowsUp).flatMap fun y => (List.range 16).map fun x => (x, y)).filter fun c =>
    c.1 + w ≤ 15 && (c.2 + h < s.rowsUp && (rectTowers x0 y0 x1 y1).all fun t =>
      let u := (c.2 + (t / 16 - y0)) * 16 + (c.1 + (t % 16 - x0))
      s.usable part u && (s.apart t u && (!(rectTowers x0 y0 x1 y1).contains u &&
        (List.range 8).all fun j => s.coreFree (8 * u + j))))

/-- One of the candidates: which, is the dispatcher's own choice (log entry 2). -/
def State.choose {α : Type} (s : State) (dflt : α) (xs : List α) : α × State :=
  let (n, s) := s.fresh
  (nth dflt xs (Config.freeIndex n % max 1 xs.length), s)

/-- Effective budget under a cap (R399). -/
def capped (b cap : Nat) : Nat := if cap = 0 then b else min b cap

/-- A core of gang `id` in its entry state: `primary` is the core whose LCN it shows, p the profile (R34, R401). -/
def Core.enterGang (c : Core) (id primary : Nat) (p : Part) (pc : Nat) (clock : Nat) : Core :=
  let j := primary % 8
  let old := c.ctx 0
  let x : Ctx := { Ctx.empty .running with
    pc := BitVec.ofNat 48 pc, g := [(1, 0xBFFFF00)], liveFrom := clock, retired := old.retired, born := old.retired }
  let x := (x.setGr 2 (BitVec.ofNat 64 primary)).setGr 3 (BitVec.ofNat 64 j)
  let kept := c.sr.filter fun e => 0x140 ≤ e.1 || (e.1 == 0x0C2 || (e.1 == 0x0C3 || e.1 == 0x0C8))
  let c := { Core.reset with
    ctxs := [(0, x)], sr := kept, tlb := c.tlb, mailSeq := c.mailSeq, combSeq := c.combSeq, nsRef := c.nsRef, count := c.count
    trace := { Core.reset.trace with dropped := c.trace.dropped, queue := c.trace.queue, operator := c.trace.operator }
    dbg := { Core.reset.dbg with issued := c.dbg.issued, preqAt := c.dbg.preqAt }
    mem := { Core.reset.mem with gang := id, shown := id, held := true } }
  let jour := p.reg 0x1A6
  let size := bits jour 48 16
  let c := [(0x008, p.reg 0x1A2), (0x080, p.reg 0x1A3), (0x081, p.reg 0x1A4),
      (0x08F, BitVec.ofNat 64 ((bits (p.reg 0x1A5) 6 42 + 20 * j) * 64 % 2 ^ 48)),
      (0x183, BitVec.ofNat 64 ((bits jour 16 32 + j * size) * 65536 % 2 ^ 48)), (0x184, BitVec.ofNat 64 size),
      (0x141, 0), (0x143, 0), (0x144, 0), (0x145, 0), (0x185, 0), (mgovNow, c.reg 0x0C2), (mgcapNow, c.reg 0x198)].foldl
    (fun c e => c.setReg e.1 e.2) c
  { c with mat := { c.mat with rem := c.governor.2 } }

/-- A member core and its tower enter a gang. -/
def State.enterCore (s : State) (id lcn primary : Nat) (p : Part) (pc : Nat) : State :=
  let s := s.updCoreAt lcn fun c => c.enterGang id primary p pc s.clock
  s.updTowerAt (towerOf lcn) fun t =>
    { t with flagu := t.flagu &&& ~~~(BitVec.ofNat 40 (31 * 2 ^ (5 * (lcn % 8)))), pmdome := p.reg 0x1A7 }

/-- The gang that a launch record describes, for an entry of a queue. -/
def gangOfRecord (p : Part) (part id d0 : Nat) (r : List Byte) (shadow : Option (Nat × Nat)) (q : Nat) (seq cpl : Word) : Gang :=
  let at' := fun o => recNat r o 1
  { id := id, part := part, d0 := d0, x0 := at' 0x10, y0 := at' 0x11, x1 := at' 0x12, y1 := at' 0x13
    mask := BitVec.ofNat 8 (at' 4), record := r, shadow := shadow, slim := at' 5
    cbud := capped (recNat r 0x30 4) (bits (p.reg 0x1A1) 0 32), xbud := capped (recNat r 0x34 4) (bits (p.reg 0x1A1) 32 32)
    queue := q, seq := seq, cpl := cpl, killed := 0, active := false, ended := false, status := 0
    gr := { req := false, area := 0, reqAt := 0, st := 0, err := 0, mapchg := false, progress := 0, nrg := false, tmis := 0,
            rb := 0, rbHere := 0, report := none } }

/-- A new gang is dispatched: its cores are in their entry state and held, its domain waits for a compute phase (R147). -/
def State.addGang (s : State) (g : Gang) : State :=
  let p := s.partAt g.part
  let pc := recNat g.record 0x20 8
  let grid := recNat g.record 0x28 8 % 2 ^ 48
  let s := { s with arb := { s.arb with gangs := s.arb.gangs ++ [g], nextGang := s.arb.nextGang + 1 } }
  let s := g.members.foldl (fun s l =>
    let s := s.enterCore g.id l l p pc
    match g.shadowOf l with
    | some h => s.enterCore g.id h l p pc
    | none => s) s
  (s.updDom { gang := g.id, level := 0, ident := 0 } fun d => { d with done := true, count := grid, startCount := grid }).purge

/-- Identities that no gang of the partition that has not ended holds (R141). -/
def State.freeIdents (s : State) (part : Nat) : List Nat :=
  ((List.range 255).map (· + 1)).filter fun d => !(s.partGangs part).any (fun g => g.d0 == d)

/-- Zero fields and constants of a launch record (R70, R405). -/
def launchForm (r : List Byte) : Bool :=
  recNat r 0 1 == 1 && (recNat r 1 1 < 2 && (recNat r 4 1 != 0 && (recNat r 6 2 ≤ 256 &&
    (recNat r 8 8 == 0x303034392D575450 && (zeroAt r 0x14 12 && zeroAt r 0x50 48)))))

/-- The checks of R405 on a launch record from the rectangle on; `restore`, without the image and MAPGEN. The status of the first
that fails. -/
def State.launchStatus (s : State) (part : Nat) (r : List Byte) (restore : Bool) : Option Nat :=
  let at' := fun o => recNat r o 1
  let x0 := at' 0x10; let y0 := at' 0x11; let x1 := at' 0x12; let y1 := at' 0x13
  if !launchForm r then some 5
  else if !restore && !(s.partAt part).images.any (fun i => i.base == recNat r 0x20 8) then some 6
  else if !restore && recNat r 2 2 != s.fab.mapgen.toNat then some 2
  else if !(x0 ≤ x1 && (y0 ≤ y1 && (x1 ≤ 15 && (y1 < s.rowsUp && (rectTowers x0 y0 x1 y1).all (s.usable part))))) then some 3
  else if at' 1 % 2 == 1 && ((s.shadowRects part x0 y0 x1 y1).isEmpty ||
      s.fab.sites.any (fun e => e.2.bs == 6)) then some 4
  else none

/-- The cores that a record's rectangle and mask name. -/
def recordCores (r : List Byte) : List Nat :=
  (rectTowers (recNat r 0x10 1) (recNat r 0x11 1) (recNat r 0x12 1) (recNat r 0x13 1)).flatMap fun t =>
    ((List.range 8).filter fun c => (BitVec.ofNat 8 (recNat r 4 1)).getLsbD c).map (8 * t + ·)

/-- The shadow rectangle of a record in twin mode. -/
def State.pickShadow (s : State) (part : Nat) (r : List Byte) : Option (Nat × Nat) × State :=
  if recNat r 1 1 % 2 = 0 then (none, s)
  else
    let (c, s) := s.choose (0, 0) (s.shadowRects part (recNat r 0x10 1) (recNat r 0x11 1) (recNat r 0x12 1) (recNat r 0x13 1))
    (some c, s)

/-- Bytes written for the dispatcher at offsets of a core's scratchpad or a tower's dome. -/
def State.placeCells (s : State) (base : Nat) (cells : List (Nat × Byte)) : State :=
  if cells.isEmpty then s
  else s.performWrite Party.host (cells.map fun c => (base + c.1, c.2)) (cells.map fun c => { ea := none, pa := some (base + c.1) })

/-- The argument block and the sections of an image copied to the cores of a gang and their towers (R69, R405). -/
def State.loadImage (s : State) (g : Gang) (args image : List Byte) : State :=
  let block := args ++ zeros (256 - args.length)
  let dome := (Config.domeSection image).filter fun c => c.1 < 0x4000000
  let scratch := (Config.scratchSection image).filter fun c => c.1 < 0x80000
  let s := (ascending (g.occupied.map towerOf)).foldl (fun s t =>
    (s.placeCells (s.domePA t 0x3FFFF00) (block.zipIdx.map fun b => (b.2, b.1))).placeCells (s.domePA t 0) dome) s
  g.occupied.foldl (fun s l => s.placeCells (s.scratchPA l 0) scratch) s

/-- A launch record that has passed its checks and whose cores are free starts (R401, R405). -/
def State.launch (s : State) (q part : Nat) (r : List Byte) (i : Image) : State :=
  let bytes := fun (s : State) (x : Except (Nat × Nat) (List Nat)) => match x with
    | .ok ps => some (ps.map s.byteAt)
    | .error _ => none
  match bytes s (s.profileRange part i.base i.len) with
  | none => s.finishHead q r 6 0
  | some image =>
    match bytes s (s.profileRange part (recNat r 0x38 8) (recNat r 6 2)) with
    | none => s.finishHead q r 5 0
    | some args =>
      let (shadow, s) := s.pickShadow part r
      let (d0, s) := s.choose 0 (s.freeIdents part)
      let g := gangOfRecord (s.partAt part) part s.arb.nextGang d0 r shadow q (entrySeq r) (entryCpl r)
      let s := (s.popHead q).loadImage g args image
      let s := (s.complete q g.seq g.cpl 2 0 0 0 0).addGang { g with active := true }
      if s.arb.win = .compute then s.beginCompute { gang := g.id, level := 0, ident := 0 } else s

/-- The dispatcher starts no gang: a raise is pending (R389), or the module is stopped. -/
def State.dispatchHeld (s : State) : Bool := s.fab.raisePending || s.arb.stopped

/-- The cores that a record names are free of other gangs on towers that the partition may use, and where it asks for twin mode a
rectangle is free to shadow them. -/
def State.recordFree (s : State) (part : Nat) (r : List Byte) : Bool :=
  let at' := fun o => recNat r o 1
  (recordCores r).all (fun l => s.coreFree l && s.usable part (towerOf l)) && ((s.freeIdents part).isEmpty == false &&
    (at' 1 % 2 == 0 || !(s.shadowRects part (at' 0x10) (at' 0x11) (at' 0x12) (at' 0x13)).isEmpty))

/-- A launch record that has passed its checks starts once its cores are free; MAPGEN is checked again as it starts (R379), and an
image that is registered no more is refused (DEDUCED, log entry 83). -/
def State.launchPassed (s : State) (q part : Nat) (r : List Byte) : State :=
  if recNat r 2 2 ≠ s.fab.mapgen.toNat then s.finishHead q r 2 0
  else
    match (s.partAt part).images.find? (fun i => i.base == recNat r 0x20 8) with
    | none => s.finishHead q r 6 0
    | some i => if s.dispatchHeld || !s.recordFree part r then s else s.launch q part r i

/-- LAUNCH_START (R404, R405): the launch record at the head is checked once, and refused, or waits and starts; an entry of no
kind is refused. Dispatch into a gang, by this step or by a restore, is the only way out of STOPPED that the model gives a control
context: R35, R96 and R121 name a supervisor start beside it, and no chapter describes one (DESIGN CHOICE, log entry 79). -/
def execLaunchStart (q : Nat) (s : State) : Out :=
  match s.headOf q, s.queuePart q with
  | some r, some part =>
    let kind := recNat r 0 1
    if kind = 6 ∨ kind = 9 then .next s
    else if kind ≠ 1 ∨ badCpl r = true then .next (s.finishHead q r 5 0)
    else if s.headPassed q then .next (s.launchPassed q part r)
    else
      match s.launchStatus part r false with
      | some n => .next (s.finishHead q r n 0)
      | none => .next ((s.passHead q).launchPassed q part r)
  | _, _ => .next s

/-! ## The end of a gang (R143, R153, R356, R407) -/

/-- Everything a core did has been performed (R276): its control context is stopped, its store buffer, matrix queue, footprints
and lines are empty, no proxied operation of its own is still to be performed, and no double trap of its own waits for the belfry
core (R33). -/
def State.coreOver (s : State) (l : Nat) : Bool :=
  let c := s.coreAt l
  (c.ctx 0).st == .stopped && (c.sb.isEmpty && (c.mat.queue.isEmpty && (c.comb.isEmpty &&
    (c.fps.all (fun f => match f.op with | .sbind _ => true | _ => false) &&
    (!s.fab.proxies.any (fun o => o.lcn == l && match o.st with | .queued => true | .sent => true | _ => false) &&
    !(s.towerAt (towerOf l)).belfry.any fun m => match m with | .doubleTrap n _ _ => n == l | _ => false)))))

/-- A gang is over: everything its cores did has been performed, and no partial of theirs waits. -/
def State.gangOver (s : State) (g : Gang) : Bool :=
  !g.ended && (g.gr.st != 1 && (g.gr.st != 3 && (g.occupied.all s.coreOver &&
    !s.arb.sent.any (fun l => g.occupied.contains l.lcn))))

/-- The phasers of an ended gang, and every registration of its cores (R153). -/
def State.freePhasers (s : State) (g : Gang) : State :=
  (ascending (g.occupied.map towerOf)).foldl (fun s t => s.updTowerAt t fun tw =>
    { tw with phasers := Tab.mapEntries (fun _ p => if p.owner = g.id then Phaser.fresh else p) tw.phasers }) s

/-- What the trace unit gives the operator once, at the end of a gang, where the policy counts per gang and the lowest member's
tracing forms records of kind 5 (R356). -/
def State.gangCounts (s : State) (g : Gang) : State :=
  match g.members with
  | [] => s
  | l :: _ =>
    if (s.policy l).toNat % 4 ≠ 2 then s
    else
      let t := (s.coreAt l).reg 0x16A
      let s := g.occupied.foldl State.latchCounted s
      let sums := g.members.foldl (fun a m => List.zipWith (· + ·) a (s.coreAt m).trace.sums) [0, 0, 0, 0]
      let r := s.traceRecord l 0 5 (sums.map (BitVec.ofNat 64 ·))
      if bit t 63 && (bit t 5 && (s.policy l).toNat / 4 % 4 ≤ 1) then
        s.updCoreAt l fun c => { c with trace := { c.trace with operator := c.trace.operator ++ [r] } }
      else s

/-- GANG_END (R143, R407): the final completion record, and the cores are free. The record's sstep is that of the lowest
member's synchronising domain (log entry 23). -/
def execGangEnd (gang : Nat) (s : State) : Out :=
  match s.gang? gang with
  | none => .next s
  | some g =>
    if !s.gangOver g then .next s
    else
      let sfs := g.members.foldl (fun n l => n + (s.coreAt l).sfq.length) 0
      let sstep := match g.members with | l :: _ => (s.domOf l).sstep | [] => 0
      let s := (s.gangCounts g).freePhasers g
      let s := s.complete g.queue g.seq g.cpl 3 g.status g.killed sfs (BitVec.ofNat 64 sstep)
      let s := s.updGang gang fun g => { g with active := false, ended := true }
      let s := { s with arb := { s.arb with
        doms := mapIf (fun d => d.key.gang == gang) (fun d => { d with entered := false, parked := false }) s.arb.doms } }
      .next (g.occupied.foldl (fun s l => s.updCoreAt l fun c => { c with mem := { c.mem with gang := 0 } }) s).windowCheck

/-! ## Copy and gang control blocks (R409, R410) -/

/-- Form of a copy control block: zero fields, alignment, length. -/
def copyForm (r : List Byte) : Bool :=
  recNat r 1 1 < 4 && (recNat r 2 2 < 1024 && (zeroAt r 4 4 && (zeroAt r 0x20 32 && (zeroAt r 0x50 48 &&
    (recNat r 0x08 8 % 8 == 0 && (recNat r 0x10 8 % 8 == 0 && (recNat r 0x18 8 % 8 == 0 && recNat r 0x18 8 ≤ 2 ^ 32)))))))

/-- One side of a copy: the physical addresses of its bytes, or the status of R281 with which it fails. -/
def State.copySide (s : State) (part : Nat) (asid : BitVec 10) (host wr : Bool) (a n : Nat) : Except Nat (List Nat) :=
  if host then
    if 2 ^ 43 < a + n then .error 3
    else .ok ((List.range n).map (s.hostPA a + ·))
  else
    match s.spaceRoot part asid with
    | none => .error 4
    | some root =>
      match s.hostRange part asid root wr a n with
      | .ok ps => .ok ps
      | .error (13, _) => .error 3
      | .error (16, _) => .error 1
      | .error _ => .error 4

/-- Why the move of a word fails (R281): no answer comes for one side, or its data are lost to an uncorrectable error. -/
def State.wordFails (s : State) (src dst : Nat) : Option Nat :=
  if s.refuses src || s.refuses dst then some 4 else if Config.wordLost s.tick src then some 5 else none

/-- The status with which a copy fails on a word, the first in order; `ps`, the addresses of source and destination of each byte. -/
def State.copyFails (s : State) (ps : List (Nat × Nat)) : Option Nat :=
  ps.findSome? fun p => if p.2 % 8 = 0 then s.wordFails p.1 p.2 else none

/-- The bytes that a copy moves: all, or where it fails on a word, those of the words that a free choice names, none of them one on
which it fails (R281; log entry 87). -/
def State.copied (s : State) (failed : Bool) (ps : List (Nat × Nat)) : List (Nat × Nat) :=
  if failed then ps.filter fun p => Config.wordNew s.tick (p.2 / 8) && (s.wordFails (p.1 / 8 * 8) (p.2 / 8 * 8)).isNone else ps

/-- The bytes moved, one access of the host. -/
def State.hostMove (s : State) (ps : List (Nat × Nat)) : State :=
  let s := s.performRead Party.host (ps.map fun p => { ea := none, pa := some p.1 })
  s.performWrite Party.host (ps.map fun p => (p.2, s.byteAt p.1)) (ps.map fun p => { ea := none, pa := some p.2 })

/-- HOST_COPY (R409): the copy at the head starts and ends; one whose translation fails writes nothing (log entry 29). -/
def execHostCopy (q : Nat) (s : State) : Out :=
  match s.headOf q, s.queuePart q with
  | some r, some part =>
    if recNat r 0 1 ≠ 6 then .next s
    else if badCpl r || !copyForm r then .next (s.finishHead q r 5 0)
    else
      let asid := BitVec.ofNat 10 (recNat r 2 2)
      let n := recNat r 0x18 8
      let flags := recNat r 1 1
      let done := fun (s : State) (x : Word) => Host.Outcome.next (s.finishHead q r 0 x)
      match s.copySide part asid (flags % 2 == 1) false (recNat r 0x08 8) n,
          s.copySide part asid (flags / 2 == 1) true (recNat r 0x10 8) n with
      | .error e, _ => done { s with tick := s.tick + 1 } (-(BitVec.ofNat 64 e))
      | _, .error e => done { s with tick := s.tick + 1 } (-(BitVec.ofNat 64 e))
      | .ok from', .ok to' =>
        let ps := from'.zip to'
        let e := s.copyFails ps
        let ps := s.copied e.isSome ps
        done ({ s with tick := s.tick + 1 }.hostMove ps) (match e with | some e => -(BitVec.ofNat 64 e) | none => BitVec.ofNat 64 n)
  | _, _ => .next s

/-- Form of a gang control block. -/
def gcbForm (r : List Byte) : Bool :=
  zeroAt r 2 6 && (zeroAt r 0x18 40 && (zeroAt r 0x50 48 && (recNat r 1 1 == 1 || (recNat r 1 1 == 2 || recNat r 1 1 == 3))))

/-- A gang control block at the head of a queue with an OP: refused where its form is wrong, otherwise acted on. -/
def State.gcb (s : State) (q op : Nat) (act : State → Nat → List Byte → State) : Out :=
  match s.headOf q, s.queuePart q with
  | some r, some part =>
    if recNat r 0 1 ≠ 9 then .next s
    else if badCpl r || !gcbForm r then .next (s.finishHead q r 5 0)
    else if recNat r 1 1 ≠ op then .next s
    else .next (act s part r)
  | _, _ => .next s

/-- The gang that the entry with a sequence number of a queue launched, where it has not ended. -/
def State.targetGang (s : State) (q : Nat) (r : List Byte) : Option Gang :=
  s.arb.gangs.find? fun g => !g.ended && (g.queue == q && g.seq == recWord r 8)

/-- GCB_PREEMPT (R410): the request of R329 for the named gang. -/
def execGcbPreempt (q : Nat) (s : State) : Out :=
  s.gcb q 1 fun s _ r =>
    match s.targetGang q r with
    | none => s.finishHead q r 5 0
    | some g =>
      (s.updGang g.id fun g =>
        { g with gr := { g.gr with req := true, area := BitVec.ofNat 32 (bits (recWord r 0x10) 16 32), reqAt := s.clock } }).finishHead
          q r 0 0

/-- Every core of a gang stopped with a final status (R314, R410). -/
def State.stopGang (s : State) (g : Gang) (status : Nat) : State :=
  let s := s.updGang g.id fun g =>
    { g with status := status, gr := { g.gr with st := if g.gr.st = 1 ∨ g.gr.st = 3 then 5 else g.gr.st } }
  let s := g.occupied.foldl State.endCore s
  g.occupied.foldl State.settleCore s

/-- GCB_KILL (R410). -/
def execGcbKill (q : Nat) (s : State) : Out :=
  s.gcb q 3 fun s _ r =>
    match s.targetGang q r with
    | none => s.finishHead q r 5 0
    | some g => (s.stopGang g 10).finishHead q r 0 0

/-- The context area's first bytes, with the record and identity they hold, where they can be read (R332). -/
def State.areaHead (s : State) (part area : Nat) : Option (List Byte) :=
  match s.profileRange part area 0x98 with
  | .ok ps => some (ps.map s.byteAt)
  | .error _ => none

/-- A restored gang needs no phaser that another gang owns: one that a context record of the area registers on is unowned
(R153). -/
def State.phasersFree (s : State) (part : Nat) (r : List Byte) (area : Nat) : Bool :=
  let x0 := recNat r 0x10 1; let y0 := recNat r 0x11 1; let w := recNat r 0x12 1 + 1 - x0
  let nu := bits ((s.partAt part).reg 0x1A7) 0 8
  (recordCores r).all fun l =>
    let n := (l / 128 - y0) * w + (l / 8 % 16 - x0)
    let at' := area + 0x10000 + n * (0x500000 + nu * 0x40000) + 0xA0000 * (l % 8) + 0xF800
    match s.profileRange part at' 2048 with
    | .error _ => true
    | .ok ps =>
      let bs := ps.map s.byteAt
      (List.range 32).all fun i =>
        (Tab.get Phaser.fresh (s.towerAt (towerOf l)).phasers i).owner == 0 || zeroAt bs (64 * i + 8) 11

/-- GCB_RESTORE (R331, R410): the gang of a context area takes its cores again; its state is loaded in an exchange window. A
context area that cannot be read is refused as ARGS would be (DESIGN CHOICE, log entry 21). -/
def execGcbRestore (q : Nat) (s : State) : Out :=
  s.gcb q 2 fun s part r =>
    let area := bits (recWord r 0x10) 16 32 * 65536
    match s.areaHead part area with
    | none => s.finishHead q r 5 0
    | some h =>
      let rec' := (h.drop 8).take 128
      if recNat h 0 1 ≠ 2 ∨ recNat h 1 1 ≠ 1 then s.finishHead q r 5 0
      else
        match if s.headPassed q then none else s.launchStatus part rec' true with
        | some n => s.finishHead q r n 0
        | none =>
          let s := s.passHead q
          if s.dispatchHeld || (!s.recordFree part rec' || !s.phasersFree part rec' area) then s
          else
            let (shadow, s) := s.pickShadow part rec'
            let (d0, s) := if (s.freeIdents part).contains (recNat h 0x88 1) then (recNat h 0x88 1, s)
              else s.choose 0 (s.freeIdents part)
            let g := gangOfRecord (s.partAt part) part s.arb.nextGang d0 rec' shadow q (entrySeq r) (entryCpl r)
            let gr := { g.gr with st := 3, area := BitVec.ofNat 32 (bits (recWord r 0x10) 16 32)
                                  mapchg := recNat h 0x8A 2 != s.fab.mapgen.toNat }
            let s := (s.popHead q).addGang { g with gr := gr }
            g.occupied.foldl (fun s l => s.updCoreAt l fun c => c.updCtx 0 (·.become .stopped s.clock)) s

/-! ## The fault agent (R413) -/

/-- The virtual function whose event queue serves a partition. -/
def State.eventVf (s : State) (part : Option Nat) : Option Nat := part.bind fun p => leastOf (s.partAt p).vfs

/-- A record written to an event queue, where it has room and the host takes it. -/
def State.writeEvent (s : State) (vf : Option Nat) (r : List Byte) : Bool × State :=
  match vf with
  | none => (false, s)
  | some v =>
    let e := s.eventAt v
    if e.err ≠ 0 ∨ 2 ^ e.size.toNat ≤ (e.tail - e.head).toNat then (false, s)
    else
      match s.hostWrite (e.base.toNat + 64 * (e.tail.toNat % 2 ^ e.size.toNat)) r with
      | (false, s) => (false, s.updEvent v fun e => { e with err := 1 })
      | (true, s) => (true, s.updEvent v fun e => { e with tail := e.tail + 1 })

/-- An event record. -/
def eventRecord (kind lcn : Nat) (a b sstep seq : Nat) : List Byte :=
  leBytes 1 kind ++ (leBytes 1 0 ++ (leBytes 2 lcn ++ (leBytes 4 0 ++ (leBytes 8 a ++ (leBytes 8 b ++ (leBytes 8 sstep ++
    (leBytes 8 seq ++ zeros 24)))))))

/-- An answer of the agent for a mailbox slot; one not outstanding is discarded (R251). -/
def State.answerMail (s : State) (lcn slot seq : Nat) (kill : Bool) : State :=
  match Tab.find? (s.coreAt lcn).mail slot with
  | some m =>
    if m.seq = seq ∧ m.answer = none then
      s.updCoreAt lcn fun c => { c with mail := Tab.put c.mail slot { m with answer := some kill } }
    else s
  | none => s

/-- The agent's record for a not-present message is written: the slot waits for the host from now on. -/
def State.askHost (s : State) (lcn slot seq : Nat) : State :=
  s.updCoreAt lcn fun c => { c with mail := match Tab.find? c.mail slot with
    | some m => if m.seq = seq then Tab.put c.mail slot { m with asked := some s.clock } else c.mail
    | none => c.mail }

/-- FAULT_AGENT_MESSAGE (R314, R413): the oldest message of a tower. -/
def execFaultAgentMessage (tower : Nat) (s : State) : Out :=
  match (s.towerAt tower).belfry with
  | [] => .next s
  | m :: rest =>
    let s := s.updTowerAt tower fun t => { t with belfry := rest }
    let vf := s.eventVf (s.towerAt tower).part
    match m with
    | .notPresent lcn slot kind va asid part ss seq =>
      let msg := lcn % 65536 + slot % 256 * 2 ^ 16 + kind % 256 * 2 ^ 24 + asid.toNat * 2 ^ 32 + part % 256 * 2 ^ 48
      let (ok, s) := s.writeEvent vf (eventRecord 1 lcn va.toNat msg ss.toNat seq)
      .next (if ok then s.askHost lcn slot seq else s.answerMail lcn slot seq true)
    | .doubleTrap lcn cause ep =>
      let (_, s) := s.writeEvent vf (eventRecord 2 lcn ep.toNat cause.toNat (s.domOf lcn).sstep 0)
      match s.gang? (s.coreAt lcn).mem.gang with
      | some g => .next (if g.ended then s else s.stopGang g 7)
      | none => .next s
    | .halt lcn pc => .next (s.writeEvent vf (eventRecord 3 lcn pc.toNat 0 (s.domOf lcn).sstep 0)).2

/-- EVENT_ANSWER (R413): the answer a driver submits through ANS and ASEQ of a virtual function bound to the core's partition. -/
def execEventAnswer (vf : Nat) (ans seq : BitVec 64) (s : State) : Out :=
  let lcn := bits ans 0 12
  let s := s.updEvent vf fun e => { e with ans := ans }
  if (s.vfPart vf).isNone || (s.vfPart vf != s.partHeld lcn || bits ans 17 47 != 0) then .next s
  else .next (s.answerMail lcn (bits ans 12 4) seq.toNat (bit ans 16))

/-- Cycles of a microsecond at the module's clock (R390). -/
def State.cyclesPerMicro (s : State) : Nat := if s.fab.sites.any (fun e => e.2.bs == 6) then 1000 else 4000

/-- The fault timeout of a slot has expired. -/
def State.timedOut (s : State) (lcn slot : Nat) : Bool :=
  let limit := (s.partAt (s.partOf lcn)).timeout
  match Tab.find? (s.coreAt lcn).mail slot with
  | some m => limit != 0 && (m.answer.isNone && match m.asked with
    | some t => t + limit * s.cyclesPerMicro ≤ s.clock
    | none => false)
  | none => false

/-- FAULT_TIMEOUT (R413). -/
def execFaultTimeout (lcn slot : Nat) (s : State) : Out :=
  if !s.timedOut lcn slot then .next s
  else match Tab.find? (s.coreAt lcn).mail slot with
    | some m => .next (s.answerMail lcn slot m.seq true)
    | none => .next s

/-! ## Partitions (R381, R400, R412, R415, R421) -/

/-- Status of the model's own for firmware's answers: 0 done, 1 refused (log entry 31). -/
def State.refuse (s : State) : Out := .next (s.answer 1 [])

/-- A policy record that a creation request may bind (R415). -/
def policyOk (r : List Byte) (part tenant : Nat) : Bool :=
  let at' := fun o => recNat r o 1
  signedOk r 64 1 (tenant + 1) && (at' 0 == 8 && (at' 1 == 1 && (at' 2 == part && (at' 3 ≤ 3 && (at' 4 ≤ 2 && (at' 5 ≤ 2 &&
    (at' 6 ≤ 1 && (at' 7 ≤ 1 && zeroAt r 0x10 48))))))))

/-- dpol as a policy record sets it (R340, R355). -/
def policyWord (r : List Byte) : BitVec 64 :=
  let at' := fun o => recNat r o 1
  BitVec.ofNat 64 (2 ^ 63 + at' 3 + at' 4 * 4 + at' 5 * 16 + at' 6 * 64 + at' 7 * 128)

/-- The request can be met: numbers free and in range, towers held by none, the policy acceptable. -/
def State.createOk (s : State) (r : CreateRequest) : Bool :=
  r.part < 64 && ((Tab.find? s.host.parts r.part).isNone && (
    r.towers.all (fun t => t < Config.towers && (s.towerAt t).part.isNone) && (
    r.vfs.all (fun v => v < 64 && (s.vfPart v).isNone) && (
    r.queues.all (fun q => q.1 < 4096 && (r.vfs.contains q.2 && (s.queueAt q.1).vf.isNone)) && (
    r.policy.isEmpty || (policyOk r.policy r.part r.tenant &&
      Tab.get 0 s.host.serials r.tenant ≤ recNat r.policy 8 8))))))

/-- A partition as created. -/
def newPart (r : CreateRequest) (key : BitVec 256) : Part :=
  let dpol : BitVec 64 := if r.policy.isEmpty then 0 else policyWord r.policy
  let regs := [(0x1A2, r.pvec), (0x1A3, r.pspace), (0x1A4, r.proot), (0x1A5, r.psave), (0x1A6, r.pjour), (0x1A7, r.pdome)]
  { key := key
    sr := (regs.foldl (fun t e => Tab.set 0 t e.1 (match srRow e.1 with | some x => x.written 0 e.2 | none => 0))
      (Tab.set 0 [] 0x1A1 (BitVec.ofNat 64 (r.xcap.toNat * 2 ^ 32 + r.ccap.toNat))))
    timeout := r.timeout, tenant := r.tenant, vfs := r.vfs, images := [], dpol := 0, newPol := dpol, policy := r.policy }

/-- PARTITION_CREATE (R381, R400, R402, R412, R415, R421): key, profile, caps, functions, queues, towers and policy. -/
def execPartitionCreate (req : CreateRequest) (s : State) : Out :=
  if !s.createOk req then s.refuse
  else
    let (n, s) := s.fresh
    let s := s.updPartAt req.part fun _ => newPart req (Config.partitionKey n)
    let s := req.towers.foldl (fun s t => s.updTowerAt t fun w => { w with part := some req.part }) s
    let s := req.queues.foldl (fun s q => s.updQueue q.1 fun _ => { HQueue.reset with vf := some q.2 }) s
    let s := req.vfs.foldl (fun s v => s.updEvent v fun _ => EventQ.reset) s
    let s := if req.policy.isEmpty then s
      else { s with host := { s.host with serials := Tab.put s.host.serials req.tenant (recNat req.policy 8 8) } }
    .next (s.answer 0 [])

/-- The towers that a partition holds. -/
def State.heldBy (s : State) (part : Nat) : List Nat := (s.towers.filter fun e => e.2.part == some part).map (·.1)

/-- PARTITION_DESTROY (R381, R412): refused while a gang of the partition runs. -/
def execPartitionDestroy (part : Nat) (s : State) : Out :=
  if (Tab.find? s.host.parts part).isNone || !(s.partGangs part).isEmpty then s.refuse
  else
    let vfs := (s.partAt part).vfs
    let s := (s.heldBy part).foldl (fun s t => s.updTowerAt t fun w => { w with part := none }) s
    let host := { s.host with
      parts := Tab.erase s.host.parts part
      queues := Tab.mapEntries (fun _ q => match q.vf with
        | some v => if vfs.contains v then HQueue.reset else q
        | none => q) s.host.queues }
    .next (({ s with host := host
                     fab := { s.fab with links := s.fab.links.filter fun w => w.part != part } } : State).answer 0 [])

/-- TOWER_ASSIGN (R421): a tower that none holds is given, or one that no gang of the partition occupies is taken back. -/
def execTowerAssign (part tower : Nat) (give : Bool) (s : State) : Out :=
  let held := (s.towerAt tower).part
  let busy := (s.partGangs part).any fun g => g.occupied.any fun l => towerOf l == tower
  if (Tab.find? s.host.parts part).isNone || (Config.towers ≤ tower || (if give then held.isSome else held != some part || busy)) then
    s.refuse
  else .next ((s.updTowerAt tower fun w => { w with part := if give then some part else none }).answer 0 [])

/-! ## Images and attestation (R416, R417) -/

/-- The header of a signed image record for a partition (R417). -/
def imageOk (r : List Byte) (tenant : Nat) : Bool :=
  let base := recNat r 0x10 8
  let len := recNat r 0x18 8
  signedOk r (64 + len) 1 (tenant + 1) && (recNat r 0 1 == 0xB && (recNat r 1 1 == 1 && (zeroAt r 4 4 && (
    recNat r 8 8 == 0x303034392D575450 && (base % 0x40000 == 0 && (0x100000000 ≤ base && (base + len ≤ 2 ^ 48 && zeroAt r 0x20 32)))))))

/-- IMAGE_REGISTER (R417): the record at a host address is verified and compared with the range as the profile maps it. -/
def execImageRegister (part : Nat) (addr : BitVec 43) (len : Nat) (s : State) : Out :=
  match Tab.find? s.host.parts part, s.hostRead addr.toNat len with
  | some p, (some r, s) =>
    let base := recNat r 0x10 8
    let n := recNat r 0x18 8
    if !imageOk r p.tenant then s.refuse
    else
      match s.profileRange part base n with
      | .error _ => s.refuse
      | .ok ps =>
        if ps.map s.byteAt != (r.drop 64).take n then s.refuse
        else
          .next ((s.updPartAt part fun p =>
            { p with images := p.images.filter (fun i => i.base != base) ++
                               [{ base := base, len := n, hash := Config.sha384 ((r.drop 64).take n) }] }).answer 0 [])
  | _, (_, s) => s.refuse

/-- The body of an attestation report: its contents in the order in which R416 lists them, the outcome of the feature token being
ROWS and the reason of a refusal (log entry 31). -/
def State.reportBody (s : State) (nonce : BitVec 256) (part : Option Nat) : List Byte :=
  let hash := fun bs => leBytes 48 (Config.sha384 bs).toNat
  leBytes 1 0xA ++ (leBytes 32 nonce.toNat ++ (leBytes 16 Config.serialNumber.toNat ++ (hash Config.rootFirmware ++
    (hash Config.serviceFirmware ++ (leBytes 8 (s.fab.rows * 2 ^ 16 + s.fab.mapgen.toNat) ++ (leBytes 1 s.fab.rows ++ (leBytes 1 s.fab.tokenWhy ++
      (Config.hostTraining ++ match part with
        | none => []
        | some n =>
          let p := s.partAt n
          hash p.policy ++ (hash (leBytes 8 p.tenant) ++ p.images.flatMap fun i => leBytes 48 i.hash.toNat)))))))))

/-- ATTEST (R416). -/
def execAttest (nonce : BitVec 256) (part : Option Nat) (s : State) : Out :=
  match part with
  | some n =>
    if (Tab.find? s.host.parts n).isNone then s.refuse
    else let b := s.reportBody nonce part; .next (s.answer 0 (seg 0 (b ++ Config.attestationTrailer b)))
  | none => let b := s.reportBody nonce none; .next (s.answer 0 (seg 0 (b ++ Config.attestationTrailer b)))

end Sys2Proof.Machine
end

