-- ==== Sys2Proof/Machine/Recovery.lean ====
section
/-!
DEFINITION. Uncorrectable errors and rollback (R324, R325), and the save and restore of a pre-empted gang (R330 to R332).
-/

namespace Sys2Proof.Machine

/-! ## Uncorrectable errors (R324) -/

/-- A byte range holds an address. -/
def inRange (pa : Nat) (r : Nat × Nat) : Bool := r.1 ≤ pa && pa < r.1 + r.2

/-- The journal entry of this superstep that holds a block of a core's, by its place in memory (R321). -/
def State.journalEntry (s : State) (o pa : Nat) : Option Nat :=
  let c := s.coreAt o
  (List.range (bits (c.reg 0x185) 0 32)).findSome? fun e =>
    (s.viewPA o (c.journalBase + 131072 + 320 * e)).bind fun a =>
      if s.viewOf o pa = some ((s.wordAt a).toNat + pa % 256) then some a else none

/-- The core in whose journal an entry holds a block. -/
def State.journalHolder (s : State) (pa : Nat) : Option (Nat × Nat) :=
  s.cores.findSome? fun e => (s.journalEntry e.1 pa).map fun a => (e.1, a)

/-- The control context of a core is at an instruction of the matrix engine: major opcodes 0x30 to 0x35 (R52). -/
def State.matrixNext (s : State) (lcn : Nat) : Bool :=
  ((s.coreAt lcn).ctx 0).live && match ({ s with lcn := lcn, k := 0 } : State).wordHere with
    | some w => 0x30 ≤ w.toNat / 2 ^ 26 && w.toNat / 2 ^ 26 ≤ 0x35
    | none => false

/-- UNCORRECTABLE_ERROR_CONSUMED (R324) by context k of a core: SRC 0 an instruction, which does not complete; 1 an engine, whose
transfer writes no further byte; 2 the matrix engine, whose instruction does not complete; 3 a twin mismatch; 5 the copy of a
block into the journal, whose entry is poisoned (DEDUCED, log entry 32). -/
def execUncorrectableErrorConsumed (lcn k : Nat) (src : BitVec 3) (pa : BitVec 56) (s : State) : Out :=
  let c := s.coreAt lcn
  match src.toNat with
  | 0 => .next (if (c.ctx k).live then s.reportError lcn k src pa.toNat else s)
  | 1 =>
    match c.fps.find? fun f => f.ctx == k && (f.going && (f.rd ++ f.far).any (inRange pa.toNat)) with
    | some f =>
      .next (((s.partTransfer lcn f).updFp lcn f.id fun f => { f with stage := .lost pa.toNat }).reportError lcn k src pa.toNat)
    | none => .next s
  | 2 => .next (if c.mat.queue.isEmpty && !s.matrixNext lcn then s else s.reportError lcn 0 src pa.toNat)
  | 3 => .next (if s.twinned lcn then s.twinMismatch lcn k else s)
  | 5 =>
    match s.journalHolder pa.toNat with
    | some (o, a) =>
      .next (((s.placeBytes (a + 0x10) [1]).nonRollbackable o 5).reportError o 0 src pa.toNat)
    | none => .next s
  | _ => .next s

/-! ## Rollback (R325) -/

/-- Everything a member core had in flight is abandoned without writes, and its pending traps are discarded. -/
def State.abandon (s : State) (lcn : Nat) : State :=
  let s := s.forsake lcn
  let s := { s with
    arb := { s.arb with sent := s.arb.sent.filter fun l => l.lcn != lcn }
    fab := { s.fab with
      flushing := mapIf (fun f => f.lcn == lcn) (fun f => { f with k := 11 }) s.fab.flushing
      proxies := s.fab.proxies.filter fun o => o.lcn != lcn } }
  s.updCoreAt lcn fun c =>
    { c with
      ctxs := Tab.mapEntries (fun _ x => { x with late := [], tokens := [], hint := Hint.none, wait := none, signalled := none,
                                                  appended := 0 }) c.ctxs
      mat := { c.mat with queue := [] }, sb := [], hold := false, fps := [], comb := [], mail := []
      pend := { c.pend with causes := [], stores := [], helpers := [], double := none, fatal := false } }

/-- A core's entries applied from the newest to the oldest, down to one that is poisoned. -/
def State.undo (s : State) (lcn : Nat) : Nat → Bool × State
  | 0 => (true, s)
  | e + 1 =>
    match s.viewPA lcn ((s.coreAt lcn).journalBase + 131072 + 320 * e) with
    | none => (true, s)
    | some a =>
      if bit (s.wordAt (a + 0x10)) 0 then (false, s)
      else
        let s := match s.viewPA lcn (s.wordAt a).toNat with
          | some pa => s.placeBytes pa (s.bytesAt (a + 0x40) 256)
          | none => s
        s.undo lcn e

/-- The journals of the members applied, in the order of their LCNs. -/
def State.undoAll (s : State) : List Nat → Bool × State
  | [] => (true, s)
  | l :: t =>
    match s.undo l (bits ((s.coreAt l).reg 0x185) 0 32) with
    | (true, s) => s.undoAll t
    | (false, s) => (false, s)

/-- A core's checkpoint loaded as its whole context record; it stays held until its compute phase begins. -/
def State.reload (s : State) (gang lcn : Nat) : State :=
  let c := s.coreAt lcn
  match s.viewPA lcn c.journalBase with
  | none => s
  | some pa =>
    let r := s.bytesAt pa 0x20000
    ((s.loadRecord lcn r c.kept true).loadPhasers lcn r gang false).updCoreAt lcn fun d =>
      { d with
        mem := { d.mem with held := true }
        ctxs := if c.dbg.halt then Tab.mapEntries (fun _ x => { x with halted := true }) d.ctxs else d.ctxs }

/-- Domains of a gang wait for a compute phase, which begins at once where a compute window is open. -/
def State.reenter (s : State) (gang : Nat) : State :=
  let s := { s with arb := { s.arb with
    doms := mapIf (fun d => d.key.gang == gang) (fun d =>
      { d with done := true, dph := 3, entered := false, spent := false, overrun := false, formed := none, count := d.startCount,
               next := 0, carried := false }) s.arb.doms } }
  if s.arb.win = .compute then s.beginDone.windowCheck else s.windowCheck

/-- Where an error was consumed by an instruction: its context, and its address (R313, R325 step 7). -/
def State.consumer (s : State) (g : Gang) : Option (Nat × BitVec 48) :=
  match g.gr.report with
  | some (lcn, k, 0, _) => some (k, ((s.coreAt lcn).ctx k).faultPc)
  | some (lcn, _, 2, _) =>
    match (s.coreAt lcn).mat.queue with
    | o :: _ => some (0, o.pc)
    | [] => some (0, ((s.coreAt lcn).ctx 0).faultPc)
  | _ => none

/-- A fatal error of a gang (R313, R325 step 7): the consuming context takes it precisely at the consuming instruction `at'`, every
other member imprecisely; transfers that an error stopped end with −5. -/
def State.fatalError (s : State) (g : Gang) (at' : Option (Nat × BitVec 48)) (lcn src pa : Nat) : State :=
  let s := s.updGang g.id fun g => { g with status := 8, gr := { g.gr with report := none } }
  let s := g.occupied.foldl (fun s l => s.updCoreAt l fun c =>
    { c with fps := c.fps.map fun f => match f.stage with
        | .lost pa => f.failed { stat := 5, reason := 17, addr := pa }
        | _ => f }) s
  let others := fun (keep : Bool) => (g.occupied.filter fun l => !keep || l != lcn).foldl (fun s l => s.postFatal src pa l) s
  match at' with
  | some (k, pc) =>
    if ((s.coreAt lcn).ctx k).live then
      ((others true).updCoreAt lcn fun c => { c with mat := { c.mat with queue := if k = 0 then [] else c.mat.queue } }).trapAt lcn k
        0x0E (fatalInfo src pa) false pc
    else others false
  | none => others false

/-- A gang that can go on no longer: a tower of its own has been lost, or an earlier error was fatal (R313, R333). -/
def State.beyondHelp (s : State) (g : Gang) : Bool := g.status == 8 || g.occupied.any fun l => !s.towerServes (towerOf l)

/-- ROLLBACK (R325): the phase arbiter handles the report of a gang. -/
def execRollback (gang : Nat) (s : State) : Out :=
  match s.gang? gang with
  | none => .next s
  | some g =>
    match g.gr.report with
    | none => .next s
    | some (lcn, _, src, pa) =>
      let consumer := s.consumer g
      if g.gr.st = 1 then
        .next ((g.occupied.foldl (fun s l => s.postFatal src.toNat pa.toNat l)
          (s.updGang gang fun g => { g with status := 8, gr := { g.gr with report := none } })).failSave gang 3)
      else if g.gr.nrg || s.beyondHelp g then .next (s.fatalError g consumer lcn src.toNat pa.toNat)
      else if 4 ≤ g.gr.rbHere then .next (s.fatalError g consumer lcn 6 pa.toNat)
      else
        let s := g.occupied.foldl State.abandon s
        match s.undoAll g.occupied with
        | (false, s) => .next (s.fatalError g consumer lcn 5 pa.toNat)
        | (true, s) =>
          let s := g.occupied.foldl (State.reload · gang ·) s
          let s := s.updGang gang fun g =>
            { g with gr := { g.gr with report := none, rb := satNat (g.gr.rb + 1) (2 ^ 32 - 1), rbHere := g.gr.rbHere + 1 } }
          .next (s.reenter gang)

/-! ## Save and restore (R330 to R332) -/

/-- The nonzero bytes of a range of memory, by offset. -/
def State.slice (s : State) (pa len : Nat) : Tab Byte :=
  if s.fab.migs.isEmpty then (s.mem.filter fun e => pa ≤ e.1 && e.1 < pa + len).map fun e => (e.1 - pa, e.2)
  else Tab.sparse 0 0 (s.bytesAt pa len)

/-- The exchange engines can work: an exchange window is open, or no domain is active (log entry 33). -/
def State.saveWindow (s : State) : Bool := s.arb.win == .exchange || s.activeDoms.isEmpty

/-- First unit, units and place of tower slot n of a context area (R332). -/
def slotAt (area nu n : Nat) : Nat := area + 0x10000 + n * (0x500000 + nu * 0x40000)

/-- The slot number of a core's tower in its gang. -/
def Gang.slot (g : Gang) (lcn : Nat) : Nat := (lcn / 128 - g.y0) * (g.x1 + 1 - g.x0) + (lcn / 8 % 16 - g.x0)

/-- The segments of a context area of a gang (R332): the tower that writes it, address, length, nonzero bytes. -/
def State.areaSegments (s : State) (g : Gang) (area su nu : Nat) : List (Nat × Nat × Nat × Tab Byte) :=
  let d := s.dom { gang := g.id, level := 0, ident := 0 }
  let record := g.record.take 0x28 ++ (leBytes 8 d.count ++ g.record.drop 0x30)
  let head := seg 0 (leBytes 8 0x0102 ++ (record ++ (leBytes 1 g.d0 ++ (leBytes 1 0 ++ (leBytes 2 s.fab.mapgen.toNat ++
    (leBytes 4 0 ++ leBytes 8 d.sstep))))))
  (towerOf ((leastOf g.members).getD 0), area, 0x10000, head) ::
  (g.members.flatMap (fun l =>
    let a := slotAt area nu (g.slot l) + 0xA0000 * (l % 8)
    [(towerOf l, a, 0x20000, s.contextRecord l false), (towerOf l, a + 0x20000, 0x80000, s.slice (s.scratchPA l 0) 0x80000)]) ++
  (ascending (g.members.map towerOf)).map (fun t =>
    (t, slotAt area nu (g.slot (8 * t)) + 0x500000, nu * 0x40000, s.slice (s.domePA t (su * 0x40000)) (nu * 0x40000))))

/-- A frame that a save can write or a restore read: backed, of this module, not refused by the host, its home's tower serving
(R318). -/
def State.frameStands (s : State) (part pa : Nat) : Bool := s.backed part pa && !(s.isPeer pa || (s.refuses pa || s.homeLost pa))

/-- Save and restore traffic is exchange bulk (R374): between a tower and the tower that holds a frame, either way. -/
def State.bulkReaches (s : State) (tower pa : Nat) : Bool :=
  match s.towerOfPA pa with
  | some t => s.reaches clsBulk tower t && s.reaches clsBulk t tower
  | none => true

/-- The frames of a range of pages for a save from a tower, each present, writable and pinned; or the ERR of R318. -/
def State.saveFrames (s : State) (part : Nat) (asid : BitVec 10) (root src va : Nat) : Nat → Except (BitVec 4) (List Nat)
  | 0 => .ok []
  | n + 1 =>
    match s.saveFrames part asid root src va n with
    | .error e => .error e
    | .ok fs =>
      let a := (va / 2 ^ 18 + n) * 2 ^ 18
      if !isVirtual a then .error 1
      else
        match (s.walk none part asid root a).1 with
        | .leaf v =>
          let pa := bits v 18 38 * 2 ^ 18
          if !(s.frameStands part pa && s.bulkReaches src pa) then .error 1
          else if !bit v 2 || (bit v 4 || !bit v 6) then .error 2
          else .ok (fs ++ [pa])
        | _ => .error 1

/-- A segment written through its frames. -/
def State.putSegment (s : State) (frames : List Nat) (va len : Nat) (cells : Tab Byte) : State :=
  let first := va % 2 ^ 18
  frames.zipIdx.foldl (fun s f =>
    let lo := if f.2 = 0 then first else 0
    let from' := f.2 * 2 ^ 18 + lo - first
    let n := min (2 ^ 18 - lo) (len - from')
    let here : Tab Byte := (cells.filter fun e => from' ≤ e.1 && e.1 < from' + n).map fun e => (e.1 - from', e.2)
    s.putSparse (f.1 + lo) n here) s

/-- Every segment written, or the ERR with which the save fails. -/
def State.saveAll (s : State) (part : Nat) (asid : BitVec 10) (root : Nat) :
    List (Nat × Nat × Nat × Tab Byte) → Except (BitVec 4) State
  | [] => .ok s
  | (src, va, len, cells) :: t =>
    match s.saveFrames part asid root src va (pagesOf va len) with
    | .error e => .error e
    | .ok fs => (s.putSegment fs va len cells).saveAll part asid root t

/-- The dome range of a gang's save: that of its lowest member's tower; none where it is no range or its towers differ. -/
def State.saveRange (s : State) (g : Gang) : Option (Nat × Nat) :=
  let w := fun l => (s.towerAt (towerOf l)).pmdomeNow
  match g.members with
  | [] => none
  | l :: _ =>
    let su := bits (w l) 8 8
    let nu := bits (w l) 0 8
    if su + nu ≤ 256 && g.members.all (fun m => w m == w l) then some (su, nu) else none

/-- The scales and rounding modes of the members' streams are kept beside their records (DEDUCED, log entry 85). -/
def State.keepStreams (s : State) (g : Gang) : State :=
  let area := g.gr.area.toNat
  let now := g.members.flatMap fun l => (s.coreAt l).streams.map fun e =>
    ({ part := g.part, area := area, lcn := l, sm := e.1, stream := e.2 } : SavedStream)
  { s with arb := { s.arb with saved := s.arb.saved.filter (fun x => !(x.part == g.part && x.area == area)) ++ now } }

/-- The streams kept when a core's record was saved in an area. -/
def State.streamsKept (s : State) (g : Gang) (lcn : Nat) : Tab Stream :=
  s.arb.saved.foldl (fun t x => if x.part == g.part && (x.area == g.gr.area.toNat && x.lcn == lcn) then Tab.put t x.sm x.stream else t)
    []

/-- The area is written: the gang's cores are released (R330). -/
def State.saved (s : State) (g : Gang) : State :=
  let s := s.keepStreams g
  let s := s.updGang g.id fun g => { g with status := 9, gr := { g.gr with st := 2, req := false } }
  let s := g.occupied.foldl (fun s l => ((s.stopCore l).updTowerAt (towerOf l) fun t => (List.range 11).foldl
    (fun t k => t.dropPhasers l k) t).updCoreAt l fun c =>
      let c := (List.range 16).foldl (fun c k => c.setReg (0x110 + k) 0) (c.setReg 0x108 (withBits (c.reg 0x108) 63 1 0))
      { c with hq := [], streams := [], sb := [], hold := false, fps := [], comb := [] }) s
  s.windowCheck

/-- The segments of a gang's context area written, or the ERR with which its save fails. -/
def State.saveArea (s : State) (g : Gang) (asid : BitVec 10) (root : Nat) (segs : List (Nat × Nat × Nat × Tab Byte)) : State :=
  match s.saveAll g.part asid root segs with
  | .error e => s.failSave g.id e
  | .ok s => s.saved g

/-- PREEMPT_SAVE (R330, R332): the context area is written, in an exchange window. -/
def execPreemptSave (gang : Nat) (s : State) : Out :=
  match s.gang? gang with
  | none => .next s
  | some g =>
    if g.gr.st ≠ 1 ∨ g.ended = true ∨ s.saveWindow = false then .next s
    else
      let area := g.gr.area.toNat * 65536
      let c := s.coreAt ((leastOf g.members).getD 0)
      match s.saveRange g, c.bound with
      | none, _ => .next (s.failSave gang 5)
      | _, none => .next (s.failSave gang 1)
      | some (su, nu), some asid =>
        .next (s.saveArea g asid c.root (s.areaSegments g area su nu))

/-- Bytes of a context area through the profile of its partition, for a tower. -/
def State.areaBytes (s : State) (part dst va n : Nat) : Option (List Byte) :=
  match s.profileRange part va n with
  | .ok ps => if ps.all fun a => a % 2 ^ 16 != 0 || (!s.refuses a && s.bulkReaches dst a) then some (ps.map s.byteAt) else none
  | .error _ => none

/-- A core restored from its context record and the bytes of its scratchpad. -/
def State.restoreOne (s : State) (gang : Nat) (r m : List Byte) (kept : Tab Stream) (l : Nat) : State :=
  (((s.loadRecord l r kept false).loadPhasers l r gang true).putSparse (s.scratchPA l 0) 0x80000 (Tab.sparse 0 0 m)).updCoreAt l
    fun c => { c with mem := { c.mem with held := true } }

/-- A member core restored, and its shadow with it. -/
def State.restorePair (s : State) (g : Gang) (lcn : Nat) (r m : List Byte) : State :=
  let one := fun (s : State) (l : Nat) => s.restoreOne g.id r m (s.streamsKept g lcn) l
  match g.shadowOf lcn with
  | some h => one (one s lcn) h
  | none => one s lcn

/-- A member core, and its shadow, restored from its slot of the context area. -/
def State.restoreCore (s : State) (g : Gang) (area nu lcn : Nat) : Option State :=
  let a := slotAt area nu (g.slot lcn) + 0xA0000 * (lcn % 8)
  match s.areaBytes g.part (towerOf lcn) a 0x20000, s.areaBytes g.part (towerOf lcn) (a + 0x20000) 0x80000 with
  | some r, some m => some (s.restorePair g lcn r m)
  | _, _ => none

/-- The dome units of a member tower, and of its shadow's, restored. -/
def State.restoreDome (s : State) (g : Gang) (area su nu tower : Nat) : Option State :=
  match s.areaBytes g.part tower (slotAt area nu (g.slot (8 * tower)) + 0x500000) (nu * 0x40000) with
  | none => none
  | some m =>
    let one := fun (s : State) (t : Nat) => s.putSparse (s.domePA t (su * 0x40000)) (nu * 0x40000) (Tab.sparse 0 0 m)
    some (match g.shadowOf (8 * tower) with
      | some h => one (one s tower) (towerOf h)
      | none => one s tower)

/-- Every member core and tower restored. -/
def State.restoreAll (s : State) (g : Gang) (area su nu : Nat) : Option State :=
  let cores := g.members.foldl (fun s l => s.bind fun s => s.restoreCore g area nu l) (some s)
  (ascending (g.members.map towerOf)).foldl (fun s t => s.bind fun s => s.restoreDome g area su nu t) cores

/-- A gang's restore can be made: the exchange engines work, and no phaser that it needs is owned by another gang (R153). -/
def State.restoreReady (s : State) (g : Gang) : Bool :=
  g.gr.st == 3 && (!g.ended && (s.saveWindow && s.phasersFree g.part g.record (g.gr.area.toNat * 65536)))

/-- PREEMPT_RESTORE (R331): the context area is loaded, in an exchange window, and the gang enters its compute phase at the
next compute window. An area that can no longer be read ends the gang (log entry 21). -/
def execPreemptRestore (gang : Nat) (s : State) : Out :=
  match s.gang? gang with
  | none => .next s
  | some g =>
    if !s.restoreReady g then .next s
    else
      let area := g.gr.area.toNat * 65536
      let dome := (s.partAt g.part).reg 0x1A7
      let fail := fun (s : State) => s.updGang gang fun g => { g with status := 8, gr := { g.gr with st := 5, err := 1 } }
      match s.areaBytes g.part (towerOf ((leastOf g.members).getD 0)) area 0x98 with
      | none => .next (fail s)
      | some h =>
        match s.restoreAll g area (bits dome 8 8) (bits dome 0 8) with
        | none => .next (fail s)
        | some s =>
          let s := s.updGang gang fun g =>
            { g with active := true, gr := { g.gr with st := 4, mapchg := recNat h 0x8A 2 != s.fab.mapgen.toNat } }
          let s := s.updDom { gang := gang, level := 0, ident := 0 } fun d => { d with sstep := recNat h 0x90 8 }
          let s := { s with arb := { s.arb with
            doms := mapIf (fun d => d.key.gang == gang) (fun d => { d with done := true, carried := true }) s.arb.doms } }
          .next s.windowCheck

end Sys2Proof.Machine
end

