-- ==== Sys2Proof/Machine/Scalar.lean ====
section
/-!
DEFINITION. Register arithmetic and logic, immediate forms, selection and division (R36, R37, R72 to R79).
-/

namespace Sys2Proof.Machine

/-! ## Shared operations -/

/-- A result of one g register; the instruction completes (R12, R72). -/
def State.give (s : State) (d : BitVec 5) (v : Word) : State := (s.setG d v).retire

/-- A three-register operation of R74. -/
def scalar3 (i : Instr) (d a b : BitVec 5) (op : Word → Word → Word) (s : State) : Out :=
  issue i s fun s => s.give d (op (s.g a) (s.g b))

/-- An immediate operation of R76 on the sign-extended immediate. -/
def scalarImmS (i : Instr) (d a : BitVec 5) (n : BitVec 16) (op : Word → Word → Word) (s : State) : Out :=
  issue i s fun s => s.give d (op (s.g a) (s.immS n))

/-- An immediate operation of R76 on the zero-extended immediate. -/
def scalarImmZ (i : Instr) (d a : BitVec 5) (n : BitVec 16) (op : Word → Word → Word) (s : State) : Out :=
  issue i s fun s => s.give d (op (s.g a) (s.immZ n))

/-- A shift-immediate form of R77. -/
def scalarShift (i : Instr) (d a : BitVec 5) (n : BitVec 6) (op : Word → Word → Word) (s : State) : Out :=
  issue i s fun s => s.give d (op (s.g a) (n.setWidth 64))

/-- A count form of R75. -/
def scalarCount (i : Instr) (d a : BitVec 5) (w : BitVec 2) (op : Nat → Nat → Nat) (s : State) : Out :=
  issue i s fun s => s.give d (BitVec.ofNat 64 (op (8 * 2 ^ w.toNat) ((s.g a).toNat % 2 ^ (8 * 2 ^ w.toNat))))

/-- SHL, SHR and SAR at width 64 (R37). -/
def shl64 (x y : Word) : Word := x <<< (y.toNat % 64)
def shr64 (x y : Word) : Word := x >>> (y.toNat % 64)
def sar64 (x y : Word) : Word := x.sshiftRight (y.toNat % 64)

/-- The high half of the 128-bit products. -/
def mulhS (x y : Word) : Word := BitVec.ofInt 64 (x.toInt * y.toInt / 2 ^ 64)
def mulhB (x y : Word) : Word := BitVec.ofNat 64 (x.toNat * y.toNat / 2 ^ 64)

/-- CLZ, FFS and POPCNT of a w-bit value (R75). -/
def clzN (w x : Nat) : Nat := if x = 0 then w else w - 1 - Nat.log2 x
def ffsN (w x : Nat) : Nat := ((List.range w).find? (fun i => x.testBit i)).getD w
def popN (w x : Nat) : Nat := ((List.range w).filter (fun i => x.testBit i)).length

/-- DivS of R36: quotient and remainder, truncating toward zero. -/
def divS (w x y : Nat) : Int × Int :=
  let a := sintOf w x
  let b := sintOf w y
  if b = 0 then (-1, a)
  else if a = -2 ^ (w - 1) ∧ b = -1 then (a, 0)
  else (Int.tdiv a b, a - b * Int.tdiv a b)

/-- DivB of R36. -/
def divB (w x y : Nat) : Nat × Nat :=
  let a := x % 2 ^ w
  let b := y % 2 ^ w
  if b = 0 then (2 ^ w - 1, a) else (a / b, a - b * (a / b))

/-- The result of DIV or REM (R79): type s32 or b32 where `w` is set, unsigned where `u` is set. -/
def divide (rem : Bool) (w u : BitVec 1) (x y : Word) : Word :=
  let n := if w = 1 then 32 else 64
  if u = 1 then
    let r := divB n x.toNat y.toNat
    BitVec.ofNat 64 (if rem then r.2 else r.1)
  else
    let r := divS n x.toNat y.toNat
    sextTo n (BitVec.ofInt 64 (if rem then r.2 else r.1))

/-- DIV and REM: long-latency instructions (R79). -/
def scalarDivide (i : Instr) (rem : Bool) (d a b : BitVec 5) (l : BitVec 4) (w u : BitVec 1) (s : State) : Out :=
  issue i s fun s => (s.results l.toNat [(d, divide rem w u (s.g a) (s.g b))] [] 0).retire

/-! ## Meanings -/

/-- ADD (R74). -/
def execAdd (d a b : BitVec 5) (s : State) : Out := scalar3 (.add d a b) d a b (· + ·) s

/-- SUB (R74). -/
def execSub (d a b : BitVec 5) (s : State) : Out := scalar3 (.sub d a b) d a b (· - ·) s

/-- MUL (R74). -/
def execMul (d a b : BitVec 5) (s : State) : Out := scalar3 (.mul d a b) d a b (· * ·) s

/-- MULH.s64 (R74). -/
def execMulhS64 (d a b : BitVec 5) (s : State) : Out := scalar3 (.mulhS64 d a b) d a b mulhS s

/-- MULH.b64 (R74). -/
def execMulhB64 (d a b : BitVec 5) (s : State) : Out := scalar3 (.mulhB64 d a b) d a b mulhB s

/-- AND (R74). -/
def execAnd (d a b : BitVec 5) (s : State) : Out := scalar3 (.and d a b) d a b (· &&& ·) s

/-- OR (R74). -/
def execOr (d a b : BitVec 5) (s : State) : Out := scalar3 (.or d a b) d a b (· ||| ·) s

/-- XOR (R74). -/
def execXor (d a b : BitVec 5) (s : State) : Out := scalar3 (.xor d a b) d a b (· ^^^ ·) s

/-- ANDN (R74). -/
def execAndn (d a b : BitVec 5) (s : State) : Out := scalar3 (.andn d a b) d a b (fun x y => x &&& ~~~y) s

/-- SHL (R37, R74). -/
def execShl (d a b : BitVec 5) (s : State) : Out := scalar3 (.shl d a b) d a b shl64 s

/-- SHR (R37, R74). -/
def execShr (d a b : BitVec 5) (s : State) : Out := scalar3 (.shr d a b) d a b shr64 s

/-- SAR (R37, R74). -/
def execSar (d a b : BitVec 5) (s : State) : Out := scalar3 (.sar d a b) d a b sar64 s

/-- SLT (R74). -/
def execSlt (d a b : BitVec 5) (s : State) : Out := scalar3 (.slt d a b) d a b (fun x y => ofBool (x.slt y)) s

/-- SLTB (R74). -/
def execSltb (d a b : BitVec 5) (s : State) : Out := scalar3 (.sltb d a b) d a b (fun x y => ofBool (x.ult y)) s

/-- MIN.s64 (R74). -/
def execMinS64 (d a b : BitVec 5) (s : State) : Out :=
  scalar3 (.minS64 d a b) d a b (fun x y => if x.slt y then x else y) s

/-- MIN.b64 (R74). -/
def execMinB64 (d a b : BitVec 5) (s : State) : Out :=
  scalar3 (.minB64 d a b) d a b (fun x y => if x.ult y then x else y) s

/-- MAX.s64 (R74). -/
def execMaxS64 (d a b : BitVec 5) (s : State) : Out :=
  scalar3 (.maxS64 d a b) d a b (fun x y => if x.slt y then y else x) s

/-- MAX.b64 (R74). -/
def execMaxB64 (d a b : BitVec 5) (s : State) : Out :=
  scalar3 (.maxB64 d a b) d a b (fun x y => if x.ult y then y else x) s

/-- CLZ (R75). -/
def execClz (d a : BitVec 5) (w : BitVec 2) (s : State) : Out := scalarCount (.clz d a w) d a w clzN s

/-- FFS (R75). -/
def execFfs (d a : BitVec 5) (w : BitVec 2) (s : State) : Out := scalarCount (.ffs d a w) d a w ffsN s

/-- POPCNT (R75). -/
def execPopcnt (d a : BitVec 5) (w : BitVec 2) (s : State) : Out := scalarCount (.popcnt d a w) d a w popN s

/-- SEL (R78). -/
def execSel (d a b c : BitVec 5) (s : State) : Out :=
  issue (.sel d a b c) s fun s => s.give d (if s.g c ≠ 0 then s.g a else s.g b)

/-- DIV (R36, R79). -/
def execDiv (d a b : BitVec 5) (l : BitVec 4) (w u : BitVec 1) (s : State) : Out :=
  scalarDivide (.div d a b l w u) false d a b l w u s

/-- REM (R36, R79). -/
def execRem (d a b : BitVec 5) (l : BitVec 4) (w u : BitVec 1) (s : State) : Out :=
  scalarDivide (.rem d a b l w u) true d a b l w u s

/-- ADDI (R76). -/
def execAddi (d a : BitVec 5) (n : BitVec 16) (s : State) : Out := scalarImmS (.addi d a n) d a n (· + ·) s

/-- ANDI (R76). -/
def execAndi (d a : BitVec 5) (n : BitVec 16) (s : State) : Out := scalarImmZ (.andi d a n) d a n (· &&& ·) s

/-- ORI (R76). -/
def execOri (d a : BitVec 5) (n : BitVec 16) (s : State) : Out := scalarImmZ (.ori d a n) d a n (· ||| ·) s

/-- XORI (R76). -/
def execXori (d a : BitVec 5) (n : BitVec 16) (s : State) : Out := scalarImmZ (.xori d a n) d a n (· ^^^ ·) s

/-- SLTI (R76). -/
def execSlti (d a : BitVec 5) (n : BitVec 16) (s : State) : Out :=
  scalarImmS (.slti d a n) d a n (fun x y => ofBool (x.slt y)) s

/-- SLTBI (R76). -/
def execSltbi (d a : BitVec 5) (n : BitVec 16) (s : State) : Out :=
  scalarImmS (.sltbi d a n) d a n (fun x y => ofBool (x.ult y)) s

/-- LDHI (R76). -/
def execLdhi (d a : BitVec 5) (n : BitVec 16) (s : State) : Out :=
  scalarImmS (.ldhi d a n) d a n (fun x y => x + y * 65536) s

/-- SHLI (R77). -/
def execShli (d a : BitVec 5) (n : BitVec 6) (s : State) : Out := scalarShift (.shli d a n) d a n shl64 s

/-- SHRI (R77). -/
def execShri (d a : BitVec 5) (n : BitVec 6) (s : State) : Out := scalarShift (.shri d a n) d a n shr64 s

/-- SARI (R77). -/
def execSari (d a : BitVec 5) (n : BitVec 6) (s : State) : Out := scalarShift (.sari d a n) d a n sar64 s

end Sys2Proof.Machine
end

