-- ==== Sys2Proof/Machine/Elementary.lean ====
section
/-!
DEFINITION. The special functions of R174, correctly rounded: the exact mathematical value is enclosed between two dyadic
numbers by fixed-point series, and the enclosure is narrowed until both ends round alike (log entry 10). Exact results are
formed exactly.
-/

namespace Sys2Proof.Machine
namespace Elem

/-! ## Fixed-point series; a value v at precision P stands for v / 2^P -/

/-- The integer square root, one bit at a time from bit b down: the largest r with r² ≤ n and r's bits above b given. -/
def isqrtFrom (n : Nat) : Nat → Nat → Nat
  | 0, r => r
  | b + 1, r =>
    let r' := r + 2 ^ b
    if r' * r' ≤ n then isqrtFrom n b r' else isqrtFrom n b r

/-- The integer square root. -/
def isqrt (n : Nat) : Nat := isqrtFrom n (Nat.log2 n / 2 + 1) 0

/-- 2 Σ z^(2i+1) / (2i+1) for z = t / 2^P: twice the inverse hyperbolic tangent; t is the power of the next term. -/
def atanhSum (P z2 : Nat) : Nat → Nat → Nat → Nat
  | 0, _, _ => 0
  | n + 1, i, t => 2 * t / (2 * i + 1) + atanhSum P z2 n (i + 1) (t * z2 / 2 ^ P)

/-- ln of a / b for b ≤ a ≤ 2 b. -/
def lnRatio (P a b : Nat) : Nat :=
  let z := (a - b) * 2 ^ P / (a + b)
  atanhSum P (z * z / 2 ^ P) (P / 3 + 4) 0 z

/-- ln 2. -/
def ln2 (P : Nat) : Nat := lnRatio P 2 1

/-- Σ (-1)^i / ((2i+1) q^(2i+1)): the arctangent of 1 / q; t is the power of the next term. -/
def atanInv (q : Nat) : Nat → Nat → Nat → Int
  | 0, _, _ => 0
  | n + 1, i, t => (if i % 2 = 0 then ((t / (2 * i + 1) : Nat) : Int) else -((t / (2 * i + 1) : Nat) : Int)) +
      atanInv q n (i + 1) (t / (q * q))

/-- π by Machin's formula. -/
def pi (P : Nat) : Nat := (16 * atanInv 5 (P / 4 + 4) 0 (2 ^ P / 5) - 4 * atanInv 239 (P / 4 + 4) 0 (2 ^ P / 239)).toNat

/-- Σ y^n / n! for 0 ≤ y < 1; t is the current term. -/
def expSum (P y : Nat) : Nat → Nat → Nat → Nat
  | 0, _, _ => 0
  | n + 1, i, t => t + expSum P y n (i + 1) (t * y / 2 ^ P / (i + 1))

/-- e^y for 0 ≤ y < 1. -/
def expSmall (P y : Nat) : Nat := expSum P y (P / 3 + 8) 0 (2 ^ P)

/-- e^(-y) for y ≥ 0: 2^-k e^r with -y = -k ln 2 + r, 0 ≤ r < ln 2. -/
def expNeg (P y : Nat) : Nat :=
  let l := ln2 P
  let k := y / l + 1
  expSmall P (k * l - y) / 2 ^ k

/-- Σ x^(2n+1) / (1 · 3 · … · (2n+1)); t is the current term. -/
def gaussSum (P x2 : Nat) : Nat → Nat → Nat → Nat
  | 0, _, _ => 0
  | n + 1, i, t => t + gaussSum P x2 n (i + 1) (t * x2 / 2 ^ P / (2 * i + 3))

/-- Φ(x) - 1/2 for 0 ≤ x < 16: the density at x times the series, formed with 256 guard bits because the series grows as
the density falls. -/
def gaussHalf (P x : Nat) : Nat :=
  let Q := P + 256
  let y := x * 2 ^ 256
  let x2 := y * y / 2 ^ Q
  let root := isqrt (2 * pi Q * 2 ^ Q)
  expNeg Q (x2 / 2) * gaussSum Q x2 (Q + 1200) 0 y / root / 2 ^ 256

/-! ## Enclosures -/

/-- A magnitude as a fixed-point number, exact when P reaches its exponent. -/
def fix (P : Nat) (x : Dyadic') : Nat :=
  let s := x.e + (P : Int)
  if 0 ≤ s then x.m.natAbs * 2 ^ s.toNat else x.m.natAbs / 2 ^ (-s).toNat

/-- The ends of an enclosure v ± 2^20 at precision P, times 2^k. -/
def ends (P : Nat) (v : Int) (k : Int) : Dyadic' × Dyadic' :=
  ({ m := v - 2 ^ 20, e := k - P }, { m := v + 2 ^ 20, e := k - P })

/-- 2^x for a finite x that is no integer and |x| < 2^12. -/
def exp2Ends (P : Nat) (x : Dyadic') : Dyadic' × Dyadic' :=
  let f := fix P x
  let k : Int := if x.m < 0 then -((f / 2 ^ P : Nat) : Int) - 1 else ((f / 2 ^ P : Nat) : Int)
  let r := if x.m < 0 then 2 ^ P - f % 2 ^ P else f % 2 ^ P
  ends P (expSmall P (r * ln2 P / 2 ^ P)) k

/-- log₂ x for x > 0. -/
def log2Ends (P : Nat) (x : Dyadic') : Dyadic' × Dyadic' :=
  let m := x.m.natAbs
  let k : Int := (Nat.log2 m : Int) + x.e
  let v := lnRatio P m (2 ^ Nat.log2 m) * 2 ^ P / ln2 P
  ends P (k * 2 ^ P + v) 0

/-- tanh |x|. -/
def tanhEnds (P : Nat) (x : Dyadic') : Dyadic' × Dyadic' :=
  let t := expNeg P (2 * fix P x)
  ends P (((2 ^ P - t) * 2 ^ P / (2 ^ P + t) : Nat) : Int) 0

/-- Φ(x). -/
def phiEnds (P : Nat) (x : Dyadic') : Dyadic' × Dyadic' :=
  let h := gaussHalf P (fix P x)
  ends P (if x.m < 0 then ((2 ^ (P - 1) : Nat) : Int) - h else ((2 ^ (P - 1) : Nat) : Int) + h) 0

/-- The precisions tried, least first. -/
def precisions : List Nat := [160, 320, 640, 1280]

/-- Both ends of the enclosure rounded until they agree; at the last precision the lower end decides. -/
def narrow (f : Fmt) (mode : BitVec 2) (zn : Bool) (g : Nat → Dyadic' × Dyadic') : List Nat → FRes
  | [] => roundDy f mode zn (g 1280).1
  | P :: t =>
    let r := g P
    let a := roundDy f mode zn r.1
    let b := roundDy f mode zn r.2
    if a = b then a else narrow f mode zn g t

/-- A value next to x, on the side of zero: x itself less one part in 2^600. -/
def justBelow (x : Dyadic') : Dyadic' :=
  { m := if x.m < 0 then x.m * 2 ^ 600 + 1 else x.m * 2 ^ 600 - 1, e := x.e - 600 }

/-- An exact value is an integer. -/
def isInteger (x : Dyadic') : Bool := 0 ≤ x.e || x.m % 2 ^ (-x.e).toNat = 0

/-- The integer an exact value is. -/
def toInteger (x : Dyadic') : Int := if 0 ≤ x.e then x.m * 2 ^ x.e.toNat else x.m / 2 ^ (-x.e).toNat

/-- An exact magnitude reaches 2^n. -/
def atLeast (x : Dyadic') (n : Int) : Bool := x.m ≠ 0 && n ≤ (Nat.log2 x.m.natAbs : Int) + x.e

/-- VEXP2 on a finite nonzero operand. -/
def exp2 (f : Fmt) (mode : BitVec 2) (x : Dyadic') : FRes :=
  if atLeast x 12 then roundMag f mode false 1 (if x.m < 0 then -5000 else 5000)
  else if isInteger x then roundMag f mode false 1 (toInteger x)
  else narrow f mode false (fun P => exp2Ends P x) precisions

/-- VLOG2 on a finite positive operand. -/
def log2 (f : Fmt) (mode : BitVec 2) (x : Dyadic') : FRes :=
  let m := x.m.natAbs
  if m = 2 ^ Nat.log2 m then roundDy f mode false (Dyadic'.ofInt ((Nat.log2 m : Int) + x.e))
  else narrow f mode false (fun P => log2Ends P x) precisions

/-- VRCP on a finite nonzero operand: the quotient with a sticky bit below it. -/
def rcp (f : Fmt) (mode : BitVec 2) (x : Dyadic') : FRes :=
  let m := x.m.natAbs
  let q := 2 ^ 100 / m
  roundMag f mode (x.m < 0) (2 * q + (if 2 ^ 100 % m = 0 then 0 else 1)) (-100 - x.e - 1)

/-- VRSQ on a finite positive operand: the root of the quotient with a sticky bit below it. -/
def rsq (f : Fmt) (mode : BitVec 2) (x : Dyadic') : FRes :=
  let odd : Int := x.e % 2
  let m := if odd = 0 then x.m.natAbs else 2 * x.m.natAbs
  let e := (x.e - odd) / 2
  let q := 2 ^ 200 / m
  let r := isqrt q
  roundMag f mode false (2 * r + (if r * r * m = 2 ^ 200 then 0 else 1)) (-100 - e - 1)

/-- VTANH on a finite nonzero operand. -/
def tanh (f : Fmt) (mode : BitVec 2) (x : Dyadic') : FRes :=
  let n : Bool := x.m < 0
  if atLeast x 6 then roundDy f mode n (justBelow { m := if n then -1 else 1, e := 0 })
  else
    narrow f mode n (fun P =>
      let r := tanhEnds P x
      if n then (r.2.neg, r.1.neg) else r) precisions

/-- VGELU on a finite nonzero operand: x Φ(x); beyond ±16 the value is next to x, or too small for any format. -/
def gelu (f : Fmt) (mode : BitVec 2) (x : Dyadic') : FRes :=
  let n : Bool := x.m < 0
  if atLeast x 4 then
    if n then roundMag f mode true 1 (-5000) else roundDy f mode false (justBelow x)
  else
    narrow f mode n (fun P =>
      let r := phiEnds P x
      let a := x.mul r.1
      let b := x.mul r.2
      (a, b)) precisions

/-- The six functions by fn<3:1>, special operands first (R174). -/
def apply (f : Fmt) (mode : BitVec 2) (fn : Nat) (x : Nat) : FRes :=
  let one := roundMag f 0 false 1 0
  if f.isNaN x then (f.quiet x, if f.isSNaN x then fNV else 0)
  else
    match fn with
    | 0 => -- VEXP2
      if f.isZero x then (one.1, 0)
      else if f.isInf x then (if f.neg x then 0 else f.infBits, 0)
      else exp2 f mode (f.val x)
    | 1 => -- VLOG2
      if f.isZero x then (f.signed true f.infBits, fDZ)
      else if f.neg x then (f.nan, fNV)
      else if f.isInf x then (f.infBits, 0)
      else log2 f mode (f.val x)
    | 2 => -- VRCP
      if f.isZero x then (f.signed (f.neg x) f.infBits, fDZ)
      else if f.isInf x then (f.signed (f.neg x) 0, 0)
      else rcp f mode (f.val x)
    | 3 => -- VRSQ
      if f.isZero x then (f.signed (f.neg x) f.infBits, fDZ)
      else if f.neg x then (f.nan, fNV)
      else if f.isInf x then (0, 0)
      else rsq f mode (f.val x)
    | 4 => -- VTANH
      if f.isZero x then (x, 0)
      else if f.isInf x then (f.signed (f.neg x) one.1, 0)
      else tanh f mode (f.val x)
    | _ => -- VGELU
      if f.isZero x then (x, 0)
      else if f.isInf x then (if f.neg x then f.signed true 0 else f.infBits, 0)
      else gelu f mode (f.val x)

end Elem
end Sys2Proof.Machine
end

