-- ==== Sys2Proof/Machine/VectorInt.lean ====
section
/-!
DEFINITION. Integer vector instructions (R37, R170, R171), compares and selection (R173), permutation, broadcast, extraction,
conflict detection, tags, vector length and loop bounds (R166, R179 to R181, R185).
-/

namespace Sys2Proof.Machine

/-! ## Element operations -/

/-- An integer result without flags. -/
def plain (n : Nat) : FRes := (n, 0)

/-- A signed number modulo 2^w. -/
def wrapInt (w : Nat) (n : Int) : Nat := (n % 2 ^ w).toNat

def iAdd (w : Nat) (_ : State) (x y : Nat) : FRes := plain ((x + y) % 2 ^ w)
def iSub (w : Nat) (_ : State) (x y : Nat) : FRes := plain ((x + 2 ^ w - y) % 2 ^ w)
def iMul (w : Nat) (_ : State) (x y : Nat) : FRes := plain (x * y % 2 ^ w)
def iNeg (w : Nat) (_ : State) (x : Nat) : FRes := plain ((2 ^ w - x) % 2 ^ w)
def iMinS (w : Nat) (_ : State) (x y : Nat) : FRes := plain (if sintOf w x ≤ sintOf w y then x else y)
def iMaxS (w : Nat) (_ : State) (x y : Nat) : FRes := plain (if sintOf w x ≤ sintOf w y then y else x)
def iMinB (_ : State) (x y : Nat) : FRes := plain (min x y)
def iMaxB (_ : State) (x y : Nat) : FRes := plain (max x y)
def iAbs (w : Nat) (_ : State) (x : Nat) : FRes := plain (wrapInt w (sintOf w x).natAbs)
def iShl (w : Nat) (_ : State) (x y : Nat) : FRes := plain (x * 2 ^ (y % w) % 2 ^ w)
def iShr (w : Nat) (_ : State) (x y : Nat) : FRes := plain (x / 2 ^ (y % w))
def iSar (w : Nat) (_ : State) (x y : Nat) : FRes := plain (wrapInt w (sintOf w x / 2 ^ (y % w)))

/-- VDIV and VREM, d op a (R36, R171). -/
def iDivide (rem signed : Bool) (w : Nat) (x y : Nat) : FRes :=
  if signed then
    let r := divS w x y
    plain (wrapInt w (if rem then r.2 else r.1))
  else
    let r := divB w x y
    plain (if rem then r.2 else r.1)

/-- A division form: d := d op a. -/
def vecDivide (i : Instr) (rem signed : Bool) (d a : BitVec 6) (l : BitVec 4) (t : BitVec 2) (m : BitVec 3) (z : BitVec 1)
    (s : State) : Out :=
  issue i s fun s =>
    let w := tiWidth t
    s.vector i [a, d] (s.tags d (some a) none m (z1 z)) false (s.core.tagOf a != 0 || s.core.tagOf d != 0) 0 fun s vs pf =>
      let y := src vs 0
      let x := src vs 1
      s.vput [a, d] l.toNat d m w (z1 z) 0 pf fun e => iDivide rem signed w (elem w x e) (elem w y e)

/-! ## Meanings: arithmetic and logic -/

/-- VADD, integer (R170). -/
def execVaddInt (d : BitVec 6) (a : BitVec 6) (b : BitVec 6) (m : BitVec 3) (z : BitVec 1) (t : BitVec 2) (s : State) : Out :=
  vecL2 (.vaddInt d a b m z t) d a b m (z1 z) (tiWidth t) (iAdd (tiWidth t)) s

/-- VSUB, integer (R170). -/
def execVsubInt (d : BitVec 6) (a : BitVec 6) (b : BitVec 6) (m : BitVec 3) (z : BitVec 1) (t : BitVec 2) (s : State) : Out :=
  vecL2 (.vsubInt d a b m z t) d a b m (z1 z) (tiWidth t) (iSub (tiWidth t)) s

/-- VMUL, integer (R170). -/
def execVmulInt (d : BitVec 6) (a : BitVec 6) (b : BitVec 6) (m : BitVec 3) (z : BitVec 1) (t : BitVec 2) (s : State) : Out :=
  vecN2 (.vmulInt d a b m z t) d a b m (z1 z) (tiWidth t) (iMul (tiWidth t)) s

/-- VNEG, integer (R170). -/
def execVnegInt (d : BitVec 6) (a : BitVec 6) (m : BitVec 3) (z : BitVec 1) (t : BitVec 2) (s : State) : Out :=
  vecL1 (.vnegInt d a m z t) d a m (z1 z) (tiWidth t) (iNeg (tiWidth t)) s

/-- VMIN.s (R170). -/
def execVminS (d : BitVec 6) (a : BitVec 6) (b : BitVec 6) (m : BitVec 3) (z : BitVec 1) (t : BitVec 2) (s : State) : Out :=
  vecN2 (.vminS d a b m z t) d a b m (z1 z) (tiWidth t) (iMinS (tiWidth t)) s

/-- VMIN.b (R170). -/
def execVminB (d : BitVec 6) (a : BitVec 6) (b : BitVec 6) (m : BitVec 3) (z : BitVec 1) (t : BitVec 2) (s : State) : Out :=
  vecN2 (.vminB d a b m z t) d a b m (z1 z) (tiWidth t) iMinB s

/-- VMAX.s (R170). -/
def execVmaxS (d : BitVec 6) (a : BitVec 6) (b : BitVec 6) (m : BitVec 3) (z : BitVec 1) (t : BitVec 2) (s : State) : Out :=
  vecN2 (.vmaxS d a b m z t) d a b m (z1 z) (tiWidth t) (iMaxS (tiWidth t)) s

/-- VMAX.b (R170). -/
def execVmaxB (d : BitVec 6) (a : BitVec 6) (b : BitVec 6) (m : BitVec 3) (z : BitVec 1) (t : BitVec 2) (s : State) : Out :=
  vecN2 (.vmaxB d a b m z t) d a b m (z1 z) (tiWidth t) iMaxB s

/-- VABS, integer (R170). -/
def execVabsInt (d : BitVec 6) (a : BitVec 6) (m : BitVec 3) (z : BitVec 1) (t : BitVec 2) (s : State) : Out :=
  vecN1 (.vabsInt d a m z t) d a m (z1 z) (tiWidth t) 0 (iAbs (tiWidth t)) s

/-- VSHL (R37, R170). -/
def execVshl (d : BitVec 6) (a : BitVec 6) (b : BitVec 6) (m : BitVec 3) (z : BitVec 1) (t : BitVec 2) (s : State) : Out :=
  vecN2 (.vshl d a b m z t) d a b m (z1 z) (tiWidth t) (iShl (tiWidth t)) s

/-- VSHR (R37, R170). -/
def execVshr (d : BitVec 6) (a : BitVec 6) (b : BitVec 6) (m : BitVec 3) (z : BitVec 1) (t : BitVec 2) (s : State) : Out :=
  vecN2 (.vshr d a b m z t) d a b m (z1 z) (tiWidth t) (iShr (tiWidth t)) s

/-- VSAR (R37, R170). -/
def execVsar (d : BitVec 6) (a : BitVec 6) (b : BitVec 6) (m : BitVec 3) (z : BitVec 1) (t : BitVec 2) (s : State) : Out :=
  vecN2 (.vsar d a b m z t) d a b m (z1 z) (tiWidth t) (iSar (tiWidth t)) s

/-- VCLZ (R170). -/
def execVclz (d : BitVec 6) (a : BitVec 6) (m : BitVec 3) (z : BitVec 1) (t : BitVec 2) (s : State) : Out :=
  vecN1 (.vclz d a m z t) d a m (z1 z) (tiWidth t) 0 (fun _ x => plain (clzN (tiWidth t) x)) s

/-- VFFS (R170). -/
def execVffs (d : BitVec 6) (a : BitVec 6) (m : BitVec 3) (z : BitVec 1) (t : BitVec 2) (s : State) : Out :=
  vecN1 (.vffs d a m z t) d a m (z1 z) (tiWidth t) 0 (fun _ x => plain (ffsN (tiWidth t) x)) s

/-- VPOP (R170). -/
def execVpop (d : BitVec 6) (a : BitVec 6) (m : BitVec 3) (z : BitVec 1) (t : BitVec 2) (s : State) : Out :=
  vecN1 (.vpop d a m z t) d a m (z1 z) (tiWidth t) 0 (fun _ x => plain (popN (tiWidth t) x)) s

/-- VAND (R170). -/
def execVand (d : BitVec 6) (a : BitVec 6) (b : BitVec 6) (m : BitVec 3) (z : BitVec 1) (s : State) : Out :=
  vecN2 (.vand d a b m z) d a b m (z1 z) 8 (fun _ x y => plain (x &&& y)) s

/-- VOR (R170). -/
def execVor (d : BitVec 6) (a : BitVec 6) (b : BitVec 6) (m : BitVec 3) (z : BitVec 1) (s : State) : Out :=
  vecN2 (.vor d a b m z) d a b m (z1 z) 8 (fun _ x y => plain (x ||| y)) s

/-- VXOR (R170). -/
def execVxor (d : BitVec 6) (a : BitVec 6) (b : BitVec 6) (m : BitVec 3) (z : BitVec 1) (s : State) : Out :=
  vecN2 (.vxor d a b m z) d a b m (z1 z) 8 (fun _ x y => plain (x ^^^ y)) s

/-- VANDN (R170). -/
def execVandn (d : BitVec 6) (a : BitVec 6) (b : BitVec 6) (m : BitVec 3) (z : BitVec 1) (s : State) : Out :=
  vecN2 (.vandn d a b m z) d a b m (z1 z) 8 (fun _ x y => plain (x &&& (255 - y))) s

/-- VDIV.s (R171). -/
def execVdivS (d : BitVec 6) (a : BitVec 6) (l : BitVec 4) (t : BitVec 2) (m : BitVec 3) (z : BitVec 1) (s : State) : Out :=
  vecDivide (.vdivS d a l t m z) false true d a l t m z s

/-- VDIV.b (R171). -/
def execVdivB (d : BitVec 6) (a : BitVec 6) (l : BitVec 4) (t : BitVec 2) (m : BitVec 3) (z : BitVec 1) (s : State) : Out :=
  vecDivide (.vdivB d a l t m z) false false d a l t m z s

/-- VREM.s (R171). -/
def execVremS (d : BitVec 6) (a : BitVec 6) (l : BitVec 4) (t : BitVec 2) (m : BitVec 3) (z : BitVec 1) (s : State) : Out :=
  vecDivide (.vremS d a l t m z) true true d a l t m z s

/-- VREM.b (R171). -/
def execVremB (d : BitVec 6) (a : BitVec 6) (l : BitVec 4) (t : BitVec 2) (m : BitVec 3) (z : BitVec 1) (s : State) : Out :=
  vecDivide (.vremB d a l t m z) true false d a l t m z s

/-! ## Compares and selection (R173) -/

/-- The mask of n bits from bit p on. -/
def bitField (p n : Nat) : Nat := (2 ^ n - 1) * 2 ^ p

/-- The predicate a compare writes: the bits of each active element take its outcome, the others are zeroed or kept. -/
def comparePred (m old : BitVec 256) (w : Nat) (z : Bool) (res : Nat → Bool × Flags) : BitVec 256 × Flags :=
  let n := w / 8
  let rs := (List.range (2048 / w)).map fun i =>
    if active m w i then
      let r := res i
      (if r.1 then bitField (i * n) n else 0, r.2)
    else (if z then 0 else old.toNat &&& bitField (i * n) n, 0)
  (BitVec.ofNat 256 (rs.foldl (fun acc r => acc ||| r.1) 0), flagsOf rs)

/-- A predicate register written. -/
def State.setPred (s : State) (k : BitVec 3) (v : BitVec 256) : State :=
  s.updCore fun c => { c with vec := { c.vec with m := Tab.set 0 c.vec.m k.toNat v } }

/-- A compare: its predicate is written, h0 and h1 stay (R173). -/
def compare (i : Instr) (p : BitVec 3) (a b : BitVec 6) (m : BitVec 3) (z : Bool) (w : Nat)
    (op : Nat → Nat → Bool × Flags) (s : State) : Out :=
  issue i s fun s =>
    s.vector i [a, b] (s.tagsOut (some a) (some b)) false (s.core.tagOf a != 0 || s.core.tagOf b != 0) 0 fun s vs pf =>
      let x := src vs 0
      let y := src vs 1
      let v := s.core.vec
      let r := comparePred (v.pred m) (v.pred p) w z fun e => op (elem w x e) (elem w y e)
      s.unlessTrapped (pf ||| r.2) fun s => (((s.pops [a, b]).setPred p r.1).raise (pf ||| r.2)).retire

/-- The integer conditions EQ, NE, LT, LE, GT, GE of R61. -/
def intCond (c : BitVec 3) (x y : Int) : Bool × Flags :=
  (match c.toNat with
   | 0 => x = y
   | 1 => x ≠ y
   | 2 => x < y
   | 3 => x ≤ y
   | 4 => x > y
   | _ => x ≥ y, 0)

/-- VCMP.s (R173). -/
def execVcmpS (c p : BitVec 3) (a b : BitVec 6) (m : BitVec 3) (z : BitVec 1) (t : BitVec 2) (s : State) : Out :=
  compare (.vcmpS c p a b m z t) p a b m (z1 z) (tiWidth t)
    (fun x y => intCond c (sintOf (tiWidth t) x) (sintOf (tiWidth t) y)) s

/-- VCMP.b (R173). -/
def execVcmpB (c p : BitVec 3) (a b : BitVec 6) (m : BitVec 3) (z : BitVec 1) (t : BitVec 2) (s : State) : Out :=
  compare (.vcmpB c p a b m z t) p a b m (z1 z) (tiWidth t) (fun x y => intCond c x y) s

/-- VCMP.f (R108, R173). -/
def execVcmpF (c p : BitVec 3) (a b : BitVec 6) (m : BitVec 3) (z : BitVec 1) (t : BitVec 2) (s : State) : Out :=
  compare (.vcmpF c p a b m z t) p a b m (z1 z) (fmtOfTf t).width (fun x y => fCmp (fmtOfTf t) c.toNat x y) s

/-- A register written whole, without a merge check. -/
def State.vwhole (s : State) (fs : List (BitVec 6)) (d : BitVec 6) (x : BitVec 2048) (t : BitVec 2) (fl : Flags) : State :=
  s.vdone fs 0 [] [(d, { data := x, dom := t })] fl

/-- VSEL (R173). -/
def execVsel (d a b : BitVec 6) (m : BitVec 3) (s : State) : Out :=
  issue (.vsel d a b m) s fun s =>
    s.vector (.vsel d a b m) [a, b] { s.tags d (some a) (some b) m false with merges := false } false
      (s.core.tagOf a != 0 || s.core.tagOf b != 0) 0 fun s vs pf =>
      let x := src vs 0
      let y := src vs 1
      let p := s.core.vec.pred m
      s.vwhole [a, b] d (ofElems 8 ((List.range 256).map fun j => elem 8 (if p.getLsbD j then x else y) j)) 0 pf

/-! ## Permutation, broadcast, extraction, conflict detection (R179 to R181) -/

/-- VPERM (R179). -/
def execVperm (d a b : BitVec 6) (m : BitVec 3) (w : BitVec 2) (s : State) : Out :=
  issue (.vperm d a b m w) s fun s =>
    let n := tiWidth w
    let t := s.core.tagOf a
    s.vector (.vperm d a b m w) [a, b] (s.tags d (some a) (some b) m false) false (s.core.tagOf b != 0) t fun s vs pf =>
      let x := src vs 0
      let y := src vs 1
      s.vput [a, b] 0 d m n false t pf fun e => plain (elem n x (elem n y e % (2048 / n)))

/-- VBCAST (R180). -/
def execVbcast (d a : BitVec 6) (t : BitVec 2) (m : BitVec 3) (s : State) : Out :=
  issue (.vbcast d a t m) s fun s =>
    let v := (s.g (g6 a)).toNat
    s.vector (.vbcast d a t m) [] (s.tags d none none m false) false false 0 fun s _ pf =>
      s.vput [] 0 d m (tiWidth t) false 0 pf fun _ => plain (v % 2 ^ tiWidth t)

/-- VEXT (R180): any tag is accepted. -/
def execVext (d a : BitVec 6) (t : BitVec 2) (s : State) : Out :=
  issue (.vext d a t) s fun s =>
    s.vector (.vext d a t) [a] (s.tagsOut (some a) none) false false 0 fun s vs pf =>
      s.vdone [a] 0 [(g6 d, BitVec.ofNat 64 (elem (tiWidth t) (src vs 0) 0))] [] pf

/-- The mask of the active lanes of a group of 32 lanes whose elements equal element i (R181). -/
def matchMask (m : BitVec 256) (w x base i : Nat) : Nat :=
  if active m w i then
    ((List.range 32).filter fun j => active m w (base + j) && elem w x (base + j) == elem w x i).foldl (fun acc j => acc + 2 ^ j) 0
  else 0

/-- A conflict-detection form: the whole register is written, inactive lanes with 0. -/
def vecMatch (i : Instr) (d a : BitVec 6) (m : BitVec 3) (w : Nat) (s : State) : Out :=
  issue i s fun s =>
    s.vector i [a] { s.tags d (some a) none m false with merges := false } false (s.core.tagOf a != 0) 0 fun s vs pf =>
      let x := src vs 0
      let p := s.core.vec.pred m
      s.vwhole [a] d (ofElems w ((List.range (2048 / w)).map fun e => matchMask p w x (e / 32 * 32) e)) 0 pf

/-- VMATCH.b32 (R181). -/
def execVmatchB32 (d a : BitVec 6) (m : BitVec 3) (s : State) : Out := vecMatch (.vmatchB32 d a m) d a m 32 s

/-- VMATCH.b64 (R181). -/
def execVmatchB64 (d a : BitVec 6) (m : BitVec 3) (s : State) : Out := vecMatch (.vmatchB64 d a m) d a m 64 s

/-- VTAG (R185): a copy with the tag in the word; no check is made. -/
def execVtag (d a : BitVec 6) (c : BitVec 2) (s : State) : Out :=
  issue (.vtag d a c) s fun s =>
    s.vector (.vtag d a c) [a] (s.tagsOut (some a) none) false false c fun s vs pf =>
      s.vwhole [a] d (nth VReg.zero vs 0).data c pf

/-- VWHILE (R166): element i is active when g[a] + i is below g[b], exactly. -/
def execVwhile (p : BitVec 3) (a b : BitVec 6) (w : BitVec 2) (s : State) : Out :=
  issue (.vwhile p a b w) s fun s =>
    let x := (s.g (g6 a)).toInt
    let y := (s.g (g6 b)).toInt
    let n := 2 ^ w.toNat
    let v := ((List.range (256 / n)).filter fun (i : Nat) => x + (i : Int) < y).foldl (fun acc i => acc + bitField (i * n) n) 0
    (s.setPred p (BitVec.ofNat 256 v)).retire

/-- VLQ (R158, R166). -/
def execVlq (d : BitVec 6) (s : State) : Out := issue (.vlq d) s fun s => s.give (g6 d) 256

end Sys2Proof.Machine
end

