-- ==== Sys2Proof/Machine/VectorFloat.lean ====
section
/-!
DEFINITION. Floating-point vector instructions: arithmetic (R172), special functions (R174), conversion and packing (R175,
R176), dot products and reductions (R177, R178), Haar steps and scale-and-accumulate (R182 to R184).
-/

namespace Sys2Proof.Machine

/-- The width of a Tf type. -/
def tfWidth (t : BitVec 2) : Nat := (fmtOfTf t).width

/-! ## Meanings: arithmetic -/

/-- VADD, floating (R172). -/
def execVaddF (d : BitVec 6) (a : BitVec 6) (b : BitVec 6) (m : BitVec 3) (z : BitVec 1) (t : BitVec 2) (s : State) : Out :=
  vecL2 (.vaddF d a b m z t) d a b m (z1 z) (tfWidth t) (fun s x y => fAdd (fmtOfTf t) s.rm x y) s

/-- VSUB, floating (R172). -/
def execVsubF (d : BitVec 6) (a : BitVec 6) (b : BitVec 6) (m : BitVec 3) (z : BitVec 1) (t : BitVec 2) (s : State) : Out :=
  vecL2 (.vsubF d a b m z t) d a b m (z1 z) (tfWidth t) (fun s x y => fSub (fmtOfTf t) s.rm x y) s

/-- VMUL, floating (R172). -/
def execVmulF (d : BitVec 6) (a : BitVec 6) (b : BitVec 6) (m : BitVec 3) (z : BitVec 1) (t : BitVec 2) (s : State) : Out :=
  vecN2 (.vmulF d a b m z t) d a b m (z1 z) (tfWidth t) (fun s x y => fMul (fmtOfTf t) s.rm x y) s

/-- VFMA (R172). -/
def execVfma (d : BitVec 6) (a : BitVec 6) (b : BitVec 6) (m : BitVec 3) (z : BitVec 1) (t : BitVec 2) (s : State) : Out :=
  vecN3 (.vfma d a b m z t) d a b m (z1 z) (tfWidth t) (fun s x y acc => fFma (fmtOfTf t) s.rm x y acc) s

/-- VMIN, floating (R172). -/
def execVminF (d : BitVec 6) (a : BitVec 6) (b : BitVec 6) (m : BitVec 3) (z : BitVec 1) (t : BitVec 2) (s : State) : Out :=
  vecN2 (.vminF d a b m z t) d a b m (z1 z) (tfWidth t) (fun _ x y => fMinMax (fmtOfTf t) false x y) s

/-- VMAX, floating (R172). -/
def execVmaxF (d : BitVec 6) (a : BitVec 6) (b : BitVec 6) (m : BitVec 3) (z : BitVec 1) (t : BitVec 2) (s : State) : Out :=
  vecN2 (.vmaxF d a b m z t) d a b m (z1 z) (tfWidth t) (fun _ x y => fMinMax (fmtOfTf t) true x y) s

/-- VABS, floating: a NaN is not quieted (R172). -/
def execVabsF (d : BitVec 6) (a : BitVec 6) (m : BitVec 3) (z : BitVec 1) (t : BitVec 2) (s : State) : Out :=
  vecN1 (.vabsF d a m z t) d a m (z1 z) (tfWidth t) 0 (fun _ x => (x % (fmtOfTf t).signBit, 0)) s

/-- VNEG, floating: a NaN is not quieted (R172). -/
def execVnegF (d : BitVec 6) (a : BitVec 6) (m : BitVec 3) (z : BitVec 1) (t : BitVec 2) (s : State) : Out :=
  vecL1 (.vnegF d a m z t) d a m (z1 z) (tfWidth t) (fun _ x => (fFlip (fmtOfTf t) x, 0)) s

/-! ## Special functions (R174) -/

/-- VEXP2 (R174). -/
def execVexp2 (d : BitVec 6) (a : BitVec 6) (l : BitVec 4) (t : BitVec 2) (m : BitVec 3) (z : BitVec 1) (s : State) : Out :=
  vecN1 (.vexp2 d a l t m z) d a m (z1 z) (tfWidth t) l.toNat (fun s x => Elem.apply (fmtOfTf t) s.rm 0 x) s

/-- VLOG2 (R174). -/
def execVlog2 (d : BitVec 6) (a : BitVec 6) (l : BitVec 4) (t : BitVec 2) (m : BitVec 3) (z : BitVec 1) (s : State) : Out :=
  vecN1 (.vlog2 d a l t m z) d a m (z1 z) (tfWidth t) l.toNat (fun s x => Elem.apply (fmtOfTf t) s.rm 1 x) s

/-- VRCP (R174). -/
def execVrcp (d : BitVec 6) (a : BitVec 6) (l : BitVec 4) (t : BitVec 2) (m : BitVec 3) (z : BitVec 1) (s : State) : Out :=
  vecN1 (.vrcp d a l t m z) d a m (z1 z) (tfWidth t) l.toNat (fun s x => Elem.apply (fmtOfTf t) s.rm 2 x) s

/-- VRSQ (R174). -/
def execVrsq (d : BitVec 6) (a : BitVec 6) (l : BitVec 4) (t : BitVec 2) (m : BitVec 3) (z : BitVec 1) (s : State) : Out :=
  vecN1 (.vrsq d a l t m z) d a m (z1 z) (tfWidth t) l.toNat (fun s x => Elem.apply (fmtOfTf t) s.rm 3 x) s

/-- VTANH (R174). -/
def execVtanh (d : BitVec 6) (a : BitVec 6) (l : BitVec 4) (t : BitVec 2) (m : BitVec 3) (z : BitVec 1) (s : State) : Out :=
  vecN1 (.vtanh d a l t m z) d a m (z1 z) (tfWidth t) l.toNat (fun s x => Elem.apply (fmtOfTf t) s.rm 4 x) s

/-- VGELU (R174). -/
def execVgelu (d : BitVec 6) (a : BitVec 6) (l : BitVec 4) (t : BitVec 2) (m : BitVec 3) (z : BitVec 1) (s : State) : Out :=
  vecN1 (.vgelu d a l t m z) d a m (z1 z) (tfWidth t) l.toNat (fun s x => Elem.apply (fmtOfTf t) s.rm 5 x) s

/-! ## Conversion and packing (R175, R176) -/

/-- A type of the code table of R61: a float, or an integer of a width, signed or not. -/
inductive CvtTy where
  | flt (f : Fmt)
  | int (w : Nat) (signed : Bool)
deriving DecidableEq, Repr

/-- The table of R61. -/
def cvtTy (c : Nat) : CvtTy :=
  match c with
  | 0 => .flt fp32
  | 1 => .flt bf16
  | 2 => .flt fp16
  | 3 => .int 8 true
  | 4 => .int 16 true
  | 5 => .int 32 true
  | 6 => .int 64 true
  | 7 => .int 8 false
  | 8 => .int 16 false
  | 9 => .int 32 false
  | _ => .int 64 false

namespace CvtTy

def width : CvtTy → Nat
  | .flt f => f.width
  | .int w _ => w

/-- Class M: both types are floating. -/
def isFloat : CvtTy → Bool
  | .flt _ => true
  | .int _ _ => false

/-- Limits of an integer type. -/
def lo (w : Nat) (signed : Bool) : Int := if signed then -2 ^ (w - 1) else 0
def hi (w : Nat) (signed : Bool) : Int := if signed then 2 ^ (w - 1) - 1 else 2 ^ w - 1

end CvtTy

/-- Sat of R11. -/
def satInt (x lo hi : Int) : Int := if x < lo then lo else if x > hi then hi else x

/-- One element converted (R175). -/
def convert (src dst : CvtTy) (mode : BitVec 2) (sat : Bool) (x : Nat) : FRes :=
  match src, dst with
  | .flt a, .flt b => fConv a b mode sat x
  | .flt a, .int w g =>
    let r := roundInt a x (CvtTy.lo w g) (CvtTy.hi w g) mode
    (wrapInt w r.1, r.2)
  | .int w g, .flt b => intToF b mode (if g then sintOf w x else ((x % 2 ^ w : Nat) : Int))
  | .int w g, .int v h =>
    let n : Int := if g then sintOf w x else ((x % 2 ^ w : Nat) : Int)
    plain (wrapInt v (if sat && v ≤ w then satInt n (CvtTy.lo v h) (CvtTy.hi v h) else n))

/-- A bound HINT.MOD asks for saturating conversion (R49). -/
def State.saturates (s : State) : Bool := match s.cx.hint.mod with | some p => p.getLsbD 1 | none => false

/-- VCVT (R175): elements past n of a narrower destination are zero in every form. -/
def execVcvt (d a : BitVec 6) (e : BitVec 4) (c : BitVec 2) (m : BitVec 3) (z : BitVec 1) (u : BitVec 2) (s : State) : Out :=
  issue (.vcvt d a e c m z u) s fun s =>
    let dst := cvtTy e.toNat
    let ty := cvtTy (4 * c.toNat + u.toNat)
    let move := dst.isFloat && ty.isFloat
    let t := if move then s.core.tagOf a else 0
    let n := 2048 / max ty.width dst.width
    s.vector (.vcvt d a e c m z u) [a] (s.tags d (some a) none m (z1 z)) false (!move && s.core.tagOf a != 0) t fun s vs pf =>
      let x := src vs 0
      let p := s.core.vec.pred m
      let w := dst.width
      let rs := (List.range n).map (choose p w (z1 z) (s.oldV d).data fun i => convert ty dst s.rm s.saturates (elem ty.width x i))
      s.vwhole [a] d (ofElems w (rs.map (·.1))) t (pf ||| flagsOf rs)

/-- VPACK (R103, R176). -/
def execVpack (d a : BitVec 6) (f : BitVec 2) (s : State) : Out :=
  issue (.vpack d a f) s fun s =>
    let t := s.core.tagOf a
    s.vector (.vpack d a f) [a] (s.tags d (some a) none 0 false) false false t fun s vs pf =>
      let x := src vs 0
      let rs := (List.range 4).map fun b => tbQuant f.toNat ((List.range 16).map fun i => elem 32 x (16 * b + i))
      s.vwhole [a] d (ofElems (8 * tbBytes f.toNat) (rs.map (·.1))) t (pf ||| flagsOf rs)

/-- VUNPACK (R102, R176). -/
def execVunpack (d a : BitVec 6) (f : BitVec 2) (s : State) : Out :=
  issue (.vunpack d a f) s fun s =>
    let t := s.core.tagOf a
    s.vector (.vunpack d a f) [a] (s.tags d (some a) none 0 false) false false t fun s vs pf =>
      let x := src vs 0
      let n := tbBytes f.toNat
      s.vwhole [a] d
        (ofElems 32 ((List.range 64).map fun i => tbDecode f.toNat (field x (n * (i / 16)) n) (i % 16))) t pf

/-! ## Dot products and reductions (R177, R178) -/

/-- A product of two FP32 patterns. -/
def prod32 (a b : Nat) : Prod' := { factors := [(fp32, a), (fp32, b)] }

/-- Lane j of VDOT. -/
def dotLane (f : Nat) (mode : BitVec 2) (x y acc j : Nat) : FRes :=
  match f with
  | 2 =>
    let sum := ((List.range 4).map fun k => sintOf 8 (elem 8 x (4 * j + k)) * sintOf 8 (elem 8 y (4 * j + k))).foldl (· + ·) 0
    plain (wrapInt 32 ((acc : Int) + sum))
  | 3 =>
    let e := fun v i => tbDecode 1 (field v (12 * (i / 16)) 12) (i % 16)
    exactSum fp32 mode acc ((List.range 4).map fun k => prod32 (e x (4 * j + k)) (e y (4 * j + k))) none
  | _ =>
    let g := if f = 0 then fp16 else bf16
    let e := fun v i => widenRaw g (elem 16 v i)
    exactSum fp32 mode acc ((List.range 2).map fun k => prod32 (e x (2 * j + k)) (e y (2 * j + k))) none

/-- VDOT (R111, R177). -/
def execVdot (d a b : BitVec 6) (m : BitVec 3) (z : BitVec 1) (f : BitVec 2) (s : State) : Out :=
  issue (.vdot d a b m z f) s fun s =>
    s.vector (.vdot d a b m z f) [a, b, d] (s.tags d (some a) (some b) m (z1 z)) false
      (s.core.tagOf a != 0 || (s.core.tagOf b != 0 || s.core.tagOf d != 0)) 0 fun s vs pf =>
      let x := src vs 0
      let y := src vs 1
      let acc := src vs 2
      s.vput [a, b, d] 0 d m 32 (z1 z) 0 pf fun j => dotLane f.toNat s.rm x y (elem 32 acc j) j

/-- A floating minimum or maximum over elements in ascending order; a NaN gives NaNPick over all of them. -/
def foldMinMax (f : Fmt) (maxi : Bool) (xs : List Nat) : FRes :=
  match xs with
  | [] => (f.signed maxi f.infBits, 0)
  | x :: t =>
    if anyNaN f xs then nanRes f xs
    else (t.foldl (fun acc y => if maxi then fGreater f acc y else fLesser f acc y) x, 0)

/-- The bits of 1.0. -/
def oneBits (f : Fmt) : Nat := f.bias * 2 ^ (f.p - 1)

/-- Element 0 of a reduction over the active elements (R178). -/
def reduce (op : Nat) (t : BitVec 2) (mode : BitVec 2) (xs : List Nat) : FRes :=
  let w := tiWidth t
  let f := fmtOfTf t
  match op with
  | 0 => plain (xs.foldl (· + ·) 0 % 2 ^ w)
  | 1 =>
    match xs with
    | [] => (0, 0)
    | x :: r => exactSum f mode x (r.map fun y => { factors := [(f, y), (f, oneBits f)] }) none
  | 2 => plain (wrapInt w (xs.foldl (fun acc y => min acc (sintOf w y)) (2 ^ (w - 1) - 1)))
  | 3 => plain (xs.foldl min (2 ^ w - 1))
  | 4 => plain (wrapInt w (xs.foldl (fun acc y => max acc (sintOf w y)) (-2 ^ (w - 1))))
  | 5 => plain (xs.foldl max 0)
  | 6 => foldMinMax f false xs
  | _ => foldMinMax f true xs

/-- A reduction on a floating type. -/
def reducesFloat (op : Nat) : Bool := op = 1 || 6 ≤ op

/-- VRED (R112, R178): the whole register is written. -/
def execVred (d a : BitVec 6) (o : BitVec 3) (t : BitVec 2) (m : BitVec 3) (s : State) : Out :=
  issue (.vred d a o t m) s fun s =>
    let w := if reducesFloat o.toNat then tfWidth t else tiWidth t
    s.vector (.vred d a o t m) [a] { s.tags d (some a) none m false with merges := false } false (s.core.tagOf a != 0) 0
      fun s vs pf =>
      let x := src vs 0
      let r := reduce o.toNat t s.rm ((activeElems (s.core.vec.pred m) w).map (elem w x))
      s.vwhole [a] d (BitVec.ofNat 2048 (r.1 % 2 ^ w)) 0 (pf ||| r.2)

/-! ## Haar steps (R182, R183) -/

/-- A pair form: d and d + 1 receive the two outputs, d first. Where the merge check fails, TD of tinfo is the old tag of d if that is
the one that fails it, otherwise that of d + 1 (DESIGN CHOICE, log entry 80). -/
def haarPair (i : Instr) (fwd : Bool) (d a b : BitVec 6) (m : BitVec 3) (s : State) : Out :=
  issue i s fun s =>
    let u := s.core.tagOf a ||| s.core.tagOf b
    let t : BitVec 2 := if fwd then u ||| 1 else u &&& 2
    let g := s.tags d (some a) (some b) m false
    let odd := s.tags (d + 1) (some a) (some b) m false
    let g' := if g.d != t then g else { g with d := odd.d }
    s.vector i [a, b] g' false false t fun s vs pf =>
      let x := src vs 0
      let y := src vs 1
      let p := s.core.vec.pred m
      let rs := (List.range 64).map fun e => haarEach fp32 s.rm fwd (elem 32 x e) (elem 32 y e)
      let first := underMask p 32 false (s.oldV d).data fun e => (nth ((0, 0), (0, 0)) rs e).1
      let second := underMask p 32 false (s.oldV (d + 1)).data fun e => (nth ((0, 0), (0, 0)) rs e).2
      s.vdone [a, b] 0 [] [(d, { data := first.1, dom := t }), (d + 1, { data := second.1, dom := t })]
        (pf ||| (first.2 ||| second.2))

/-- VHAAR.F, register pair (R182). -/
def execVhaarF (d a b : BitVec 6) (m : BitVec 3) (s : State) : Out := haarPair (.vhaarF d a b m) true d a b m s

/-- VHAAR.I, register pair (R182). -/
def execVhaarI (d a b : BitVec 6) (m : BitVec 3) (s : State) : Out := haarPair (.vhaarI d a b m) false d a b m s

/-- A lane form at level L (R183). -/
def haarLane (i : Instr) (fwd : Bool) (d a : BitVec 6) (n : BitVec 3) (s : State) : Out :=
  issue i s fun s =>
    let ta := s.core.tagOf a
    let t : BitVec 2 := if fwd then ta ||| 2 else if n = 1 then ta &&& 1 else ta
    s.vector i [a] (s.tags d (some a) none 0 false) false false t fun s vs pf =>
      let x : List FRes := (elems 32 (nth VReg.zero vs 0).data).map fun e => (e, 0)
      let y := if fwd then haarDown s.rm n.toNat x else haarUp s.rm n.toNat x
      s.vwhole [a] d (ofElems 32 (y.map (·.1))) t (pf ||| flagsOf y)

/-- VHAAR.F.L (R183). -/
def execVhaarFL (d a : BitVec 6) (n : BitVec 3) (s : State) : Out := haarLane (.vhaarFL d a n) true d a n s

/-- VHAAR.I.L (R183). -/
def execVhaarIL (d a : BitVec 6) (n : BitVec 3) (s : State) : Out := haarLane (.vhaarIL d a n) false d a n s

/-! ## Scale-and-accumulate (R184) -/

/-- VSCA: d and a carry one tag, the scale source carries tag 0; lane-coefficient data takes lane 0's scale. -/
def execVsca (d a b : BitVec 6) (m : BitVec 3) (s : State) : Out :=
  issue (.vsca d a b m) s fun s =>
    let t := s.core.tagOf a
    s.vector (.vsca d a b m) [a, b, d] (s.tags d (some a) (some b) m false) (s.core.tagOf d != t) (s.core.tagOf b != 0) t
      fun s vs pf =>
      let x := src vs 0
      let y := src vs 1
      let acc := src vs 2
      s.vput [a, b, d] 0 d m 32 false t pf fun e =>
        fFma fp32 s.rm (elem 32 x e) (elem 32 y (if t.getLsbD 1 then 0 else e)) (elem 32 acc e)

end Sys2Proof.Machine
end

