-- ==== Sys2Proof/Machine/VectorMem.lean ====
section
/-!
DEFINITION. Vector loads and stores (R166 to R169).
-/

namespace Sys2Proof.Machine

/-- A register from the results of its active elements in ascending order (R163). -/
def spread (m : BitVec 256) (w : Nat) (z : Bool) (old : BitVec 2048) : List Nat → List Nat → List Nat
  | [], _ => []
  | i :: t, rs =>
    if active m w i then
      match rs with
      | [] => 0 :: spread m w z old t []
      | r :: rest => r :: spread m w z old t rest
    else (if z then 0 else elem w old.toNat i) :: spread m w z old t rs

/-- Byte positions of the active elements of width w. -/
def activePlaces (m : BitVec 256) (w : Nat) : List Nat :=
  (activeElems m w).flatMap fun i => (List.range (w / 8)).map (i * (w / 8) + ·)

/-- A load of the active elements at given addresses (R167, R169): alignment, translation, one access each; tag 0. An enabled
flag of a popped index vector traps it before any access performs (R31, R109). -/
def State.vload (s : State) (fs : List (BitVec 6)) (d : BitVec 6) (m : BitVec 3) (z : Bool) (w lk : Nat) (pf : Flags)
    (accs : List (List Nat)) : State :=
  s.loadReady kindLoad accs fun s frames => s.unlessTrapped pf fun s => s.loadPerform accs frames fun s bs =>
    let p := s.core.vec.pred m
    let x := ofElems w (spread p w z (s.oldV d).data (List.range (2048 / w)) (rowsOf (w / 8) (bs.length / (w / 8)) bs))
    s.vdone fs lk [] [(d, { data := x, dom := 0 })] pf (some (s.loadSrc frames (.lanes (activePlaces p w)) accs.flatten bs))

/-- The first address of a list that is no multiple of n. -/
def misaligned (n : Nat) (as : List Word) : Option Word := as.find? fun a => a.toNat % n != 0

/-- VLD (R167, R168): all active bytes are one access. -/
def execVld (d a b : BitVec 6) (m : BitVec 3) (z : BitVec 1) (l : BitVec 4) (s : State) : Out :=
  issue (.vld d a b m z l) s fun s =>
    let ea := s.g (g6 a) + b.signExtend 64 * 256
    s.vector (.vld d a b m z l) [] (s.tags d none none m (z1 z)) false false 0 fun s _ pf =>
      if ea.toNat % 64 ≠ 0 then s.trap 0x04 ea
      else
        let lanes := activeElems (s.core.vec.pred m) 8
        s.vload [] d m (z1 z) 8 l.toNat pf [lanes.map fun j => (ea.toNat + j) % 2 ^ 64]

/-- VST (R167, R168): one entry of the active in-range bytes; nothing where there is none. -/
def execVst (d a b : BitVec 6) (m : BitVec 3) (s : State) : Out :=
  issue (.vst d a b m) s fun s =>
    let ea := s.g (g6 a) + b.signExtend 64 * 256
    s.vector (.vst d a b m) [d] (s.tagsOut none none) false false 0 fun s vs pf =>
      if ea.toNat % 64 ≠ 0 then s.trap 0x04 ea
      else
        let lanes := activeElems (s.core.vec.pred m) 8
        let live := lanes.filter fun j => !outOfRange ((ea.toNat + j) % 2 ^ 64)
        let mask := BitVec.ofNat 256 (live.foldl (fun acc j => acc + 2 ^ j) 0)
        if !live.isEmpty && s.core.sbFull then s.stall .storeBuffer
        else
          s.unlessTrapped pf fun s =>
            let s := s.updCx (·.recordOors true [lanes.map fun j => (ea.toNat + j) % 2 ^ 64])
            let s := if live.isEmpty then s else s.appendStore 1 ea 256 (nth VReg.zero vs 0).data mask
            ((s.pops [d]).raise pf).retire

/-- Addresses of the active elements of VLDS. -/
def strideAddrs (base stride : Word) (es : List Nat) : List Word := es.map fun i => base + BitVec.ofNat 64 i * stride

/-- Addresses of the active elements of VGATH and VSCAT. -/
def indexAddrs (base : Word) (w idx : Nat) (es : List Nat) : List Word :=
  es.map fun i => base + BitVec.ofInt 64 (sintOf w (elem w idx i)) * BitVec.ofNat 64 (w / 8)

/-- VLDS (R167, R169). -/
def execVlds (d a b : BitVec 6) (m : BitVec 3) (z : BitVec 1) (w l : BitVec 2) (s : State) : Out :=
  issue (.vlds d a b m z w l) s fun s =>
    let base := s.g (g6 a)
    let stride := s.g (g6 b)
    let n := tiWidth w
    s.vector (.vlds d a b m z w l) [] (s.tags d none none m (z1 z)) false false 0 fun s _ pf =>
      let addrs := strideAddrs base stride (activeElems (s.core.vec.pred m) n)
      match misaligned (n / 8) addrs with
      | some ea => s.trap 0x04 ea
      | none => s.vload [] d m (z1 z) n l.toNat pf (addrs.map fun x => byteEAs x (n / 8))

/-- VGATH (R167, R169). -/
def execVgath (d a b : BitVec 6) (m : BitVec 3) (z : BitVec 1) (w l : BitVec 2) (s : State) : Out :=
  issue (.vgath d a b m z w l) s fun s =>
    let base := s.g (g6 a)
    let n := tiWidth w
    s.vector (.vgath d a b m z w l) [b] (s.tags d none (some b) m (z1 z)) false (s.core.tagOf b != 0) 0 fun s vs pf =>
      let addrs := indexAddrs base n (src vs 0) (activeElems (s.core.vec.pred m) n)
      match misaligned (n / 8) addrs with
      | some ea => s.trap 0x04 ea
      | none => s.vload [b] d m (z1 z) n l.toNat pf (addrs.map fun x => byteEAs x (n / 8))

/-- One element of VSCAT appended; out of range it is recorded and dropped. -/
def State.scatterOne (s : State) (n : Nat) (ea : Word) (v : Nat) : State :=
  if outOfRange ea.toNat then s.updCx fun x => x.recordOor ea.toNat true
  else s.appendStore 2 ea (n / 8) (BitVec.ofNat 2048 v) (BitVec.ofNat 256 (2 ^ (n / 8) - 1))

/-- The elements of VSCAT in ascending order, from the first not appended yet; with a full buffer the rest waits (R169). -/
def State.scatter (s : State) (n : Nat) (go : State → State) : List (Word × Nat) → State
  | [] => go s
  | (ea, v) :: t =>
    if !outOfRange ea.toNat && s.core.sbFull then s.stall .storeBuffer
    else ((s.scatterOne n ea v).updCx fun x => { x with appended := x.appended + 1 }).scatter n go t

/-- VSCAT (R167, R169): index vectors carry tag 0, the data any tag. -/
def execVscat (d a b : BitVec 6) (m : BitVec 3) (w : BitVec 2) (s : State) : Out :=
  issue (.vscat d a b m w) s fun s =>
    let base := s.g (g6 a)
    let n := tiWidth w
    s.vector (.vscat d a b m w) [b, d] (s.tagsOut none (some b)) false (s.core.tagOf b != 0) 0 fun s vs pf =>
      let es := activeElems (s.core.vec.pred m) n
      let addrs := indexAddrs base n (src vs 0) es
      match misaligned (n / 8) addrs with
      | some ea => s.trap 0x04 ea
      | none =>
        let items := addrs.zip (es.map (elem n (src vs 1)))
        s.unlessTrapped pf fun s =>
          s.scatter n (fun s => ((s.pops [b, d]).raise pf).retire) (items.drop s.cx.appended)

end Sys2Proof.Machine
end

