-- ==== Sys2Proof/Machine/Dispatch.lean ====
section
/-!
DEFINITION. The dispatch: one arm for each constructor of Instr, each a direct call of its meaning.
-/

namespace Sys2Proof.Machine

/-- The meaning of every instruction and event. -/
def exec (i : Instr) (s : State) : Host.Outcome State Fault Refusal :=
  match i with
  | .add d a b => Sys2Proof.Machine.execAdd d a b s
  | .sub d a b => Sys2Proof.Machine.execSub d a b s
  | .mul d a b => Sys2Proof.Machine.execMul d a b s
  | .mulhS64 d a b => Sys2Proof.Machine.execMulhS64 d a b s
  | .mulhB64 d a b => Sys2Proof.Machine.execMulhB64 d a b s
  | .and d a b => Sys2Proof.Machine.execAnd d a b s
  | .or d a b => Sys2Proof.Machine.execOr d a b s
  | .xor d a b => Sys2Proof.Machine.execXor d a b s
  | .andn d a b => Sys2Proof.Machine.execAndn d a b s
  | .shl d a b => Sys2Proof.Machine.execShl d a b s
  | .shr d a b => Sys2Proof.Machine.execShr d a b s
  | .sar d a b => Sys2Proof.Machine.execSar d a b s
  | .slt d a b => Sys2Proof.Machine.execSlt d a b s
  | .sltb d a b => Sys2Proof.Machine.execSltb d a b s
  | .minS64 d a b => Sys2Proof.Machine.execMinS64 d a b s
  | .minB64 d a b => Sys2Proof.Machine.execMinB64 d a b s
  | .maxS64 d a b => Sys2Proof.Machine.execMaxS64 d a b s
  | .maxB64 d a b => Sys2Proof.Machine.execMaxB64 d a b s
  | .clz d a w => Sys2Proof.Machine.execClz d a w s
  | .ffs d a w => Sys2Proof.Machine.execFfs d a w s
  | .popcnt d a w => Sys2Proof.Machine.execPopcnt d a w s
  | .sel d a b c => Sys2Proof.Machine.execSel d a b c s
  | .div d a b l w w2 => Sys2Proof.Machine.execDiv d a b l w w2 s
  | .rem d a b l w w2 => Sys2Proof.Machine.execRem d a b l w w2 s
  | .addi d a imm => Sys2Proof.Machine.execAddi d a imm s
  | .andi d a imm => Sys2Proof.Machine.execAndi d a imm s
  | .ori d a imm => Sys2Proof.Machine.execOri d a imm s
  | .xori d a imm => Sys2Proof.Machine.execXori d a imm s
  | .slti d a imm => Sys2Proof.Machine.execSlti d a imm s
  | .sltbi d a imm => Sys2Proof.Machine.execSltbi d a imm s
  | .ldhi d a imm => Sys2Proof.Machine.execLdhi d a imm s
  | .shli d a n => Sys2Proof.Machine.execShli d a n s
  | .shri d a n => Sys2Proof.Machine.execShri d a n s
  | .sari d a n => Sys2Proof.Machine.execSari d a n s
  | .fence => Sys2Proof.Machine.execFence s
  | .fenceR a => Sys2Proof.Machine.execFenceR a s
  | .fenceA a => Sys2Proof.Machine.execFenceA a s
  | .fenceAr a => Sys2Proof.Machine.execFenceAr a s
  | .ldB8 d a l imm => Sys2Proof.Machine.execLdB8 d a l imm s
  | .ldS8 d a l imm => Sys2Proof.Machine.execLdS8 d a l imm s
  | .ldB16 d a l imm => Sys2Proof.Machine.execLdB16 d a l imm s
  | .ldS16 d a l imm => Sys2Proof.Machine.execLdS16 d a l imm s
  | .ldB32 d a l imm => Sys2Proof.Machine.execLdB32 d a l imm s
  | .ldS32 d a l imm => Sys2Proof.Machine.execLdS32 d a l imm s
  | .ldD d a l imm => Sys2Proof.Machine.execLdD d a l imm s
  | .st d a w2 imm => Sys2Proof.Machine.execSt d a w2 imm s
  | .amoadd d a z b => Sys2Proof.Machine.execAmoadd d a z b s
  | .amoswap d a z b => Sys2Proof.Machine.execAmoswap d a z b s
  | .amocas d a z b => Sys2Proof.Machine.execAmocas d a z b s
  | .amominS d a z b => Sys2Proof.Machine.execAmominS d a z b s
  | .amominB d a z b => Sys2Proof.Machine.execAmominB d a z b s
  | .amomaxS d a z b => Sys2Proof.Machine.execAmomaxS d a z b s
  | .amomaxB d a z b => Sys2Proof.Machine.execAmomaxB d a z b s
  | .beq a b o => Sys2Proof.Machine.execBeq a b o s
  | .bne a b o => Sys2Proof.Machine.execBne a b o s
  | .blt a b o => Sys2Proof.Machine.execBlt a b o s
  | .bge a b o => Sys2Proof.Machine.execBge a b o s
  | .bltb a b o => Sys2Proof.Machine.execBltb a b o s
  | .bgeb a b o => Sys2Proof.Machine.execBgeb a b o s
  | .jal o => Sys2Proof.Machine.execJal o s
  | .jr d a => Sys2Proof.Machine.execJr d a s
  | .loop k a l => Sys2Proof.Machine.execLoop k a l s
  | .vld d a b m z l => Sys2Proof.Machine.execVld d a b m z l s
  | .vst d a b m => Sys2Proof.Machine.execVst d a b m s
  | .vlds d a b m z w l => Sys2Proof.Machine.execVlds d a b m z w l s
  | .vgath d a b m z w l => Sys2Proof.Machine.execVgath d a b m z w l s
  | .vscat d a b m w => Sys2Proof.Machine.execVscat d a b m w s
  | .vaddInt d a b m z t => Sys2Proof.Machine.execVaddInt d a b m z t s
  | .vsubInt d a b m z t => Sys2Proof.Machine.execVsubInt d a b m z t s
  | .vmulInt d a b m z t => Sys2Proof.Machine.execVmulInt d a b m z t s
  | .vnegInt d a m z t => Sys2Proof.Machine.execVnegInt d a m z t s
  | .vminS d a b m z t => Sys2Proof.Machine.execVminS d a b m z t s
  | .vminB d a b m z t => Sys2Proof.Machine.execVminB d a b m z t s
  | .vmaxS d a b m z t => Sys2Proof.Machine.execVmaxS d a b m z t s
  | .vmaxB d a b m z t => Sys2Proof.Machine.execVmaxB d a b m z t s
  | .vabsInt d a m z t => Sys2Proof.Machine.execVabsInt d a m z t s
  | .vshl d a b m z t => Sys2Proof.Machine.execVshl d a b m z t s
  | .vshr d a b m z t => Sys2Proof.Machine.execVshr d a b m z t s
  | .vsar d a b m z t => Sys2Proof.Machine.execVsar d a b m z t s
  | .vclz d a m z t => Sys2Proof.Machine.execVclz d a m z t s
  | .vffs d a m z t => Sys2Proof.Machine.execVffs d a m z t s
  | .vpop d a m z t => Sys2Proof.Machine.execVpop d a m z t s
  | .vand d a b m z => Sys2Proof.Machine.execVand d a b m z s
  | .vor d a b m z => Sys2Proof.Machine.execVor d a b m z s
  | .vxor d a b m z => Sys2Proof.Machine.execVxor d a b m z s
  | .vandn d a b m z => Sys2Proof.Machine.execVandn d a b m z s
  | .vdivS d a l t m z => Sys2Proof.Machine.execVdivS d a l t m z s
  | .vdivB d a l t m z => Sys2Proof.Machine.execVdivB d a l t m z s
  | .vremS d a l t m z => Sys2Proof.Machine.execVremS d a l t m z s
  | .vremB d a l t m z => Sys2Proof.Machine.execVremB d a l t m z s
  | .vaddF d a b m z t => Sys2Proof.Machine.execVaddF d a b m z t s
  | .vsubF d a b m z t => Sys2Proof.Machine.execVsubF d a b m z t s
  | .vmulF d a b m z t => Sys2Proof.Machine.execVmulF d a b m z t s
  | .vfma d a b m z t => Sys2Proof.Machine.execVfma d a b m z t s
  | .vminF d a b m z t => Sys2Proof.Machine.execVminF d a b m z t s
  | .vmaxF d a b m z t => Sys2Proof.Machine.execVmaxF d a b m z t s
  | .vabsF d a m z t => Sys2Proof.Machine.execVabsF d a m z t s
  | .vnegF d a m z t => Sys2Proof.Machine.execVnegF d a m z t s
  | .vcmpS c p a b m z t => Sys2Proof.Machine.execVcmpS c p a b m z t s
  | .vcmpB c p a b m z t => Sys2Proof.Machine.execVcmpB c p a b m z t s
  | .vcmpF c p a b m z t => Sys2Proof.Machine.execVcmpF c p a b m z t s
  | .vsel d a b m => Sys2Proof.Machine.execVsel d a b m s
  | .vexp2 d a l t m z => Sys2Proof.Machine.execVexp2 d a l t m z s
  | .vlog2 d a l t m z => Sys2Proof.Machine.execVlog2 d a l t m z s
  | .vrcp d a l t m z => Sys2Proof.Machine.execVrcp d a l t m z s
  | .vrsq d a l t m z => Sys2Proof.Machine.execVrsq d a l t m z s
  | .vtanh d a l t m z => Sys2Proof.Machine.execVtanh d a l t m z s
  | .vgelu d a l t m z => Sys2Proof.Machine.execVgelu d a l t m z s
  | .vcvt d a e w2 m z u => Sys2Proof.Machine.execVcvt d a e w2 m z u s
  | .vpack d a f => Sys2Proof.Machine.execVpack d a f s
  | .vunpack d a f => Sys2Proof.Machine.execVunpack d a f s
  | .vdot d a b m z f => Sys2Proof.Machine.execVdot d a b m z f s
  | .vperm d a b m w => Sys2Proof.Machine.execVperm d a b m w s
  | .vred d a o t m => Sys2Proof.Machine.execVred d a o t m s
  | .vmatchB32 d a m => Sys2Proof.Machine.execVmatchB32 d a m s
  | .vmatchB64 d a m => Sys2Proof.Machine.execVmatchB64 d a m s
  | .vhaarF d a b m => Sys2Proof.Machine.execVhaarF d a b m s
  | .vhaarFL d a n => Sys2Proof.Machine.execVhaarFL d a n s
  | .vhaarI d a b m => Sys2Proof.Machine.execVhaarI d a b m s
  | .vhaarIL d a n => Sys2Proof.Machine.execVhaarIL d a n s
  | .vsca d a b m => Sys2Proof.Machine.execVsca d a b m s
  | .vtag d a c => Sys2Proof.Machine.execVtag d a c s
  | .vbcast d a t m => Sys2Proof.Machine.execVbcast d a t m s
  | .vext d a t => Sys2Proof.Machine.execVext d a t s
  | .vwhile p a b w => Sys2Proof.Machine.execVwhile p a b w s
  | .vlq d => Sys2Proof.Machine.execVlq d s
  | .mma l c a b g h e f => Sys2Proof.Machine.execMma l c a b g h e f s
  | .mmaz l c a b g h e f => Sys2Proof.Machine.execMmaz l c a b g h e f s
  | .msca l c a b k w2 => Sys2Proof.Machine.execMsca l c a b k w2 s
  | .mdrain l c a b x => Sys2Proof.Machine.execMdrain l c a b x s
  | .mldacc l c a => Sys2Proof.Machine.execMldacc l c a s
  | .mzero l c => Sys2Proof.Machine.execMzero l c s
  | .mmovvToV l c a b => Sys2Proof.Machine.execMmovvToV l c a b s
  | .mmovvToAcc l c a b => Sys2Proof.Machine.execMmovvToAcc l c a b s
  | .mtag l c a => Sys2Proof.Machine.execMtag l c a s
  | .cbload l a f n => Sys2Proof.Machine.execCbload l a f n s
  | .cpy l t a b => Sys2Proof.Machine.execCpy l t a b s
  | .cpyv l t a => Sys2Proof.Machine.execCpyv l t a s
  | .fill l t a b => Sys2Proof.Machine.execFill l t a b s
  | .sbind l k a => Sys2Proof.Machine.execSbind l k a s
  | .sunbind k => Sys2Proof.Machine.execSunbind k s
  | .xput l t a b o => Sys2Proof.Machine.execXput l t a b o s
  | .xget l t a b o => Sys2Proof.Machine.execXget l t a b o s
  | .xadd l t a b o y => Sys2Proof.Machine.execXadd l t a b o y s
  | .xmin l t a b o y => Sys2Proof.Machine.execXmin l t a b o y s
  | .xmax l t a b o y => Sys2Proof.Machine.execXmax l t a b o y s
  | .xcas l t a b o y => Sys2Proof.Machine.execXcas l t a b o y s
  | .xflag l t a b => Sys2Proof.Machine.execXflag l t a b s
  | .xtask l t a b => Sys2Proof.Machine.execXtask l t a b s
  | .xexpect a k => Sys2Proof.Machine.execXexpect a k s
  | .xwait k => Sys2Proof.Machine.execXwait k s
  | .gets d n => Sys2Proof.Machine.execGets d n s
  | .sets d n => Sys2Proof.Machine.execSets d n s
  | .callsv n => Sys2Proof.Machine.execCallsv n s
  | .rett => Sys2Proof.Machine.execRett s
  | .halt => Sys2Proof.Machine.execHalt s
  | .hstart d a b => Sys2Proof.Machine.execHstart d a b s
  | .hexit => Sys2Proof.Machine.execHexit s
  | .grid a => Sys2Proof.Machine.execGrid a s
  | .gnext d => Sys2Proof.Machine.execGnext d s
  | .graise d a => Sys2Proof.Machine.execGraise d a s
  | .gkill => Sys2Proof.Machine.execGkill s
  | .stepX => Sys2Proof.Machine.execStepX s
  | .stepC => Sys2Proof.Machine.execStepC s
  | .phreg b m => Sys2Proof.Machine.execPhreg b m s
  | .phdrop b => Sys2Proof.Machine.execPhdrop b s
  | .phsig b => Sys2Proof.Machine.execPhsig b s
  | .phwait b => Sys2Proof.Machine.execPhwait b s
  | .phnext b => Sys2Proof.Machine.execPhnext b s
  | .qpush a q => Sys2Proof.Machine.execQpush a q s
  | .qpop d q => Sys2Proof.Machine.execQpop d q s
  | .sdrain => Sys2Proof.Machine.execSdrain s
  | .tlbinvVa a b => Sys2Proof.Machine.execTlbinvVa a b s
  | .tlbinvAsid b => Sys2Proof.Machine.execTlbinvAsid b s
  | .tlbinvPart => Sys2Proof.Machine.execTlbinvPart s
  | .tlbretire a => Sys2Proof.Machine.execTlbretire a s
  | .capmint d a => Sys2Proof.Machine.execCapmint d a s
  | .hintImm p => Sys2Proof.Machine.execHintImm p s
  | .hintMod p => Sys2Proof.Machine.execHintMod p s
  | .hintPri b n k => Sys2Proof.Machine.execHintPri b n k s
  | .trapEntry lcn cause info imp => Sys2Proof.Machine.execTrapEntry lcn cause info imp s
  | .helperTrapEntry lcn => Sys2Proof.Machine.execHelperTrapEntry lcn s
  | .impreciseTrapTaken lcn => Sys2Proof.Machine.execImpreciseTrapTaken lcn s
  | .flaguUpdate lcn => Sys2Proof.Machine.execFlaguUpdate lcn s
  | .hintPriExpiry lcn k => Sys2Proof.Machine.execHintPriExpiry lcn k s
  | .coreReset lcn => Sys2Proof.Machine.execCoreReset lcn s
  | .moduleReset => Sys2Proof.Machine.execModuleReset s
  | .helperKill lcn h => Sys2Proof.Machine.execHelperKill lcn h s
  | .queueOverflowOrUnderflow lcn k => Sys2Proof.Machine.execQueueOverflowOrUnderflow lcn k s
  | .drectWrite lcn level v => Sys2Proof.Machine.execDrectWrite lcn level v s
  | .dmemWrite lcn v => Sys2Proof.Machine.execDmemWrite lcn v s
  | .computeBudgetSpent dom => Sys2Proof.Machine.execComputeBudgetSpent dom s
  | .exchangeBudgetSpent dom => Sys2Proof.Machine.execExchangeBudgetSpent dom s
  | .exchangeWindowOpen => Sys2Proof.Machine.execExchangeWindowOpen s
  | .computeWindowOpen => Sys2Proof.Machine.execComputeWindowOpen s
  | .gangEnd gang => Sys2Proof.Machine.execGangEnd gang s
  | .matrixQueuePerform lcn => Sys2Proof.Machine.execMatrixQueuePerform lcn s
  | .governorWindowStart lcn => Sys2Proof.Machine.execGovernorWindowStart lcn s
  | .mgovWrite lcn v => Sys2Proof.Machine.execMgovWrite lcn v s
  | .pageWalk lcn va => Sys2Proof.Machine.execPageWalk lcn va s
  | .belfryReply lcn slot seq kill => Sys2Proof.Machine.execBelfryReply lcn slot seq kill s
  | .storeDrain lcn => Sys2Proof.Machine.execStoreDrain lcn s
  | .sfqPop lcn => Sys2Proof.Machine.execSfqPop lcn s
  | .sbstHoldClear lcn => Sys2Proof.Machine.execSbstHoldClear lcn s
  | .xlatWrite lcn v => Sys2Proof.Machine.execXlatWrite lcn v s
  | .pspaceWrite lcn v => Sys2Proof.Machine.execPspaceWrite lcn v s
  | .migrationStart mig part asid leaf frame => Sys2Proof.Machine.execMigrationStart mig part asid leaf frame s
  | .migrationLineCopy mig => Sys2Proof.Machine.execMigrationLineCopy mig s
  | .migrationRemove mig => Sys2Proof.Machine.execMigrationRemove mig s
  | .combiningLineArrival n => Sys2Proof.Machine.execCombiningLineArrival n s
  | .xputPacketArrival lcn id packet => Sys2Proof.Machine.execXputPacketArrival lcn id packet s
  | .xgetRequestArrival lcn id => Sys2Proof.Machine.execXgetRequestArrival lcn id s
  | .xcasArrival lcn id => Sys2Proof.Machine.execXcasArrival lcn id s
  | .xflagArrival lcn id => Sys2Proof.Machine.execXflagArrival lcn id s
  | .taskArrival lcn id => Sys2Proof.Machine.execTaskArrival lcn id s
  | .transferEnd lcn id => Sys2Proof.Machine.execTransferEnd lcn id s
  | .engineTransferBegin lcn id => Sys2Proof.Machine.execEngineTransferBegin lcn id s
  | .streamFetch lcn sm => Sys2Proof.Machine.execStreamFetch lcn sm s
  | .lndWrite lcn n v => Sys2Proof.Machine.execLndWrite lcn n v s
  | .proxyRequest id => Sys2Proof.Machine.execProxyRequest id s
  | .proxyHomeOperation id => Sys2Proof.Machine.execProxyHomeOperation id s
  | .proxyResponse id => Sys2Proof.Machine.execProxyResponse id s
  | .relayReinject lcn id => Sys2Proof.Machine.execRelayReinject lcn id s
  | .twinPairMatch lcn id => Sys2Proof.Machine.execTwinPairMatch lcn id s
  | .uncorrectableErrorConsumed lcn k src pa => Sys2Proof.Machine.execUncorrectableErrorConsumed lcn k src pa s
  | .rollback gang => Sys2Proof.Machine.execRollback gang s
  | .preemptRequest lcn v => Sys2Proof.Machine.execPreemptRequest lcn v s
  | .preemptSave gang => Sys2Proof.Machine.execPreemptSave gang s
  | .preemptRestore gang => Sys2Proof.Machine.execPreemptRestore gang s
  | .towerRetire tower => Sys2Proof.Machine.execTowerRetire tower s
  | .mapGenerationIssue changes => Sys2Proof.Machine.execMapGenerationIssue changes s
  | .dump lcn read => Sys2Proof.Machine.execDump lcn read s
  | .testPackage pkg => Sys2Proof.Machine.execTestPackage pkg s
  | .registerWrite lcn k num v who => Sys2Proof.Machine.execRegisterWrite lcn k num v who s
  | .stopDomainRequest lcn => Sys2Proof.Machine.execStopDomainRequest lcn s
  | .stopGangRequest lcn => Sys2Proof.Machine.execStopGangRequest lcn s
  | .preciseStopRequest lcn on => Sys2Proof.Machine.execPreciseStopRequest lcn on s
  | .resume lcn => Sys2Proof.Machine.execResume lcn s
  | .singleStep lcn smsk scnt => Sys2Proof.Machine.execSingleStep lcn smsk scnt s
  | .stepEnd lcn => Sys2Proof.Machine.execStepEnd lcn s
  | .stopTrigger lcn => Sys2Proof.Machine.execStopTrigger lcn s
  | .debugHalt lcn => Sys2Proof.Machine.execDebugHalt lcn s
  | .moduleStop => Sys2Proof.Machine.execModuleStop s
  | .moduleStopEnd => Sys2Proof.Machine.execModuleStopEnd s
  | .counterSample lcn => Sys2Proof.Machine.execCounterSample lcn s
  | .ringTestInject lcn v => Sys2Proof.Machine.execRingTestInject lcn v s
  | .nsvalWrite lcn group v => Sys2Proof.Machine.execNsvalWrite lcn group v s
  | .turretSeedStart turret => Sys2Proof.Machine.execTurretSeedStart turret s
  | .wavefrontArrival site => Sys2Proof.Machine.execWavefrontArrival site s
  | .clockLock site ok => Sys2Proof.Machine.execClockLock site ok s
  | .configurationArrival site => Sys2Proof.Machine.execConfigurationArrival site s
  | .selfTestEnd site ok => Sys2Proof.Machine.execSelfTestEnd site ok s
  | .bondDecision site side ok => Sys2Proof.Machine.execBondDecision site side ok s
  | .bondTimeout site side => Sys2Proof.Machine.execBondTimeout site side s
  | .enterLinked site => Sys2Proof.Machine.execEnterLinked site s
  | .enterServingReduced site => Sys2Proof.Machine.execEnterServingReduced site s
  | .fullServiceDecision => Sys2Proof.Machine.execFullServiceDecision s
  | .fullServiceRaise => Sys2Proof.Machine.execFullServiceRaise s
  | .powerCapSet watts => Sys2Proof.Machine.execPowerCapSet watts s
  | .rateLowering lcn rate => Sys2Proof.Machine.execRateLowering lcn rate s
  | .thermalThrottle tower hot rate => Sys2Proof.Machine.execThermalThrottle tower hot rate s
  | .doorbellTailWrite q tail => Sys2Proof.Machine.execDoorbellTailWrite q tail s
  | .doorbellSizeWrite q size base => Sys2Proof.Machine.execDoorbellSizeWrite q size base s
  | .queueEntryAccept q => Sys2Proof.Machine.execQueueEntryAccept q s
  | .launchStart q => Sys2Proof.Machine.execLaunchStart q s
  | .hostCopy q => Sys2Proof.Machine.execHostCopy q s
  | .gcbPreempt q => Sys2Proof.Machine.execGcbPreempt q s
  | .gcbRestore q => Sys2Proof.Machine.execGcbRestore q s
  | .gcbKill q => Sys2Proof.Machine.execGcbKill q s
  | .faultAgentMessage tower => Sys2Proof.Machine.execFaultAgentMessage tower s
  | .eventAnswer vf ans seq => Sys2Proof.Machine.execEventAnswer vf ans seq s
  | .faultTimeout lcn slot => Sys2Proof.Machine.execFaultTimeout lcn slot s
  | .partitionCreate req => Sys2Proof.Machine.execPartitionCreate req s
  | .partitionDestroy part => Sys2Proof.Machine.execPartitionDestroy part s
  | .towerAssign part tower give => Sys2Proof.Machine.execTowerAssign part tower give s
  | .imageRegister part addr len => Sys2Proof.Machine.execImageRegister part addr len s
  | .attest nonce part => Sys2Proof.Machine.execAttest nonce part s
  | .windowGroupToken round => Sys2Proof.Machine.execWindowGroupToken round s
  | .groupMemberRemove gsz gpos => Sys2Proof.Machine.execGroupMemberRemove gsz gpos s
  | .longLatencyCompletion lcn k => Sys2Proof.Machine.execLongLatencyCompletion lcn k s
  | .ringTestFlitDelivery lcn => Sys2Proof.Machine.execRingTestFlitDelivery lcn s
  | .moduleLinkDown module => Sys2Proof.Machine.execModuleLinkDown module s
  | .linkWindowSetup part module base len => Sys2Proof.Machine.execLinkWindowSetup part module base len s

end Sys2Proof.Machine
end

