-- ==== Sys2Proof/Machine/Schedule.lean ====
section
/-!
DEFINITION. Turns (log entry 3): the issue arbiter of a core (R133, R134), the delivery of pending traps before an issue, the
fetch and run of an instruction, time (R26, R352), and which event the machine performs of itself between instructions.
-/

namespace Sys2Proof.Machine

/-! ## The issue arbiter (R133, R134) -/

/-- Entries of the queues that a mask names. -/
def Core.occupancy (c : Core) (mask : Nat) : Nat :=
  (List.range 8).foldl (fun a q => if mask / 2 ^ q % 2 = 1 then a + (c.queue q).length else a) 0

/-- The stage score of a context. -/
def Core.score (c : Core) (k : Nat) : Int :=
  let x := c.ctx k
  let g := x.reg 0x041
  (x.boost : Int) + (c.occupancy (bits g 8 8) : Int) - (c.occupancy (bits g 0 8) : Int)

/-- A step of the debugger lets a context issue (R349): to its limit or a trigger, but never between a hint and its instruction. -/
def State.stepLets (s : State) (lcn k : Nat) : Bool :=
  let c := s.coreAt lcn
  match c.dbg.step with
  | none => true
  | some (_, n) =>
    c.stepping k && (!s.atBarrier lcn k && ((c.dbg.issued < n && c.dbg.trigger.isNone) || (c.ctx k).hinted))

/-- The instruction of a context has consumed an uncorrectable error, and does not complete (R324). -/
def State.consuming (s : State) (lcn k : Nat) : Bool :=
  match s.gang? (s.coreAt lcn).mem.gang with
  | some g => g.gr.report.any fun r => r.1 == lcn && (r.2.1 == k && (r.2.2.1 == 0 || r.2.2.1 == 2))
  | none => false

/-- A context that may try to issue: RUNNING, or BLOCKED in a wait, not halted, its core not held after an arrival, its instruction
not stopped by an error (R121, R145, R324, R342). -/
def State.canTry (s : State) (lcn k : Nat) : Bool :=
  let c := s.coreAt lcn
  let x := c.ctx k
  (x.st == .running || x.st == .blocked) && (!x.halted && (!c.mem.held && (s.stepLets lcn k && !s.consuming lcn k)))

/-- Of two contexts, the one the arbiter takes first, `b` standing after `a` in the order j + 1, j + 2, …: a wait count of 16 or
more goes before one below, the greater before the lesser; otherwise the greater score. -/
def Core.before (c : Core) (a b : Nat) : Bool :=
  let wa := (c.ctx a).waitCount
  let wb := (c.ctx b).waitCount
  if 16 ≤ wa ∨ 16 ≤ wb then wb ≤ wa else decide (c.score b ≤ c.score a)

/-- A context placed among others in the arbiter's order. -/
def Core.place (c : Core) (k : Nat) : List Nat → List Nat
  | [] => [k]
  | j :: t => if c.before k j then k :: j :: t else j :: c.place k t

/-- The contexts in the order in which they try to issue. -/
def State.order (s : State) (lcn : Nat) : List Nat :=
  let c := s.coreAt lcn
  let ring := (List.range 11).map fun i => (c.lastIssue + 1 + i) % 11
  (ring.filter (s.canTry lcn)).foldr c.place []

/-! ## A turn of a core -/

/-- A function of the next state, where there is one. -/
def thenNext (o : Out) (f : State → State) : Out :=
  match o with
  | .next t => .next (f t)
  | .fault r => .fault r
  | .refused r => .refused r

/-- The instruction that the context whose turn it is stands at has not been issued: it may wait for its own fetch. -/
def State.unissued (s : State) : Bool :=
  s.cx.unissued || (s.cx.wait == some .mailbox && (Tab.find? s.core.mail s.k).any (·.kind == kindFetch))

/-- What the debugger sees of an issue, made in `s` and leading to `t`: each matching breakpoint counts as event 12, and may trigger a
stop, before anything that the instruction itself triggers (R341, R346); a step counts it and keeps what the contexts had retired
before it, since the step's last issue is where it ends (R349, log entry 92). -/
def Core.noteDebug (c : Core) (before : Core) (hits k : Nat) (tr : Option Trigger) : Core :=
  let c := if hits = 0 then c else c.countEvent 12 (some k) hits
  let c := match tr with
    | some t => if before.dbg.trigger.isNone then ({ c with dbg := { c.dbg with trigger := none } } : Core).setTrigger t else c
    | none => c
  match c.dbg.step with
  | none => c
  | some _ => { c with dbg := { c.dbg with issued := c.dbg.issued + 1, rets := before.retiredAll } }

/-- The turn from `s` to `t` of the context in focus issued its instruction: it completed or trapped, or it now waits for what an
issued instruction waits for. `fresh`, it had not been issued before. -/
def State.countIssue (s : State) (fresh : Bool) (t : State) : State :=
  let x := (t.coreAt s.lcn).ctx s.k
  if !fresh || (x.wait.isSome && x.unissued) then t
  else t.updCoreAt s.lcn fun c => c.noteDebug s.core s.bpHits.length s.k s.bpTrigger

/-- A fetched word runs: the instruction it decodes to, or the illegal-instruction trap of R53. -/
def State.runWord (s : State) (fresh : Bool) (w : Option Word32) : Out :=
  match w with
  | none => .next (s.dropStaleHint.trap 0x01 0)
  | some w =>
    match decodeWord w with
    | .ok i => thenNext (exec i s) (s.countIssue fresh)
    | .error _ => .next (s.dropStaleHint.trap 0x01 (w.setWidth 64))

/-- The context whose turn it is fetches its instruction and runs it. -/
def State.runOne (s : State) : Out := s.fetch .next fun t w => t.runWord s.unissued w

/-- Context k of the core whose turn it is waits. -/
def State.waiting (s : State) (lcn k : Nat) : Bool := ((s.coreAt lcn).ctx k).wait.isSome

/-- A context is ready (R121): its next instruction would issue and not wait. -/
def State.readyCx (s : State) (lcn k : Nat) : Bool :=
  match { s with lcn := lcn, k := k }.runOne with
  | .next t => !t.waiting lcn k
  | _ => true

/-- The wait counts of a core after a cycle (R133): one more for the contexts that were ready and did not issue. -/
def State.countWaits (s : State) (lcn : Nat) (ready : List Nat) : State :=
  s.updCoreAt lcn fun c =>
    { c with ctxs := Tab.mapEntries (fun j x => { x with waitCount := if ready.contains j then x.waitCount + 1 else 0 }) c.ctxs }

/-- Context k has issued. -/
def State.issued (s : State) (lcn k : Nat) : State := s.updCoreAt lcn fun c => { c with lastIssue := k }

/-- The contexts of a core try in order; the first whose instruction does not wait has issued, and of those after it the ready
ones have waited a cycle (R133, R134). -/
def State.tryAll (s : State) (lcn : Nat) : List Nat → Out
  | [] => .next (s.countWaits lcn [])
  | k :: ks =>
    match { s with lcn := lcn, k := k }.runOne with
    | .next t =>
      if t.waiting lcn k then t.tryAll lcn ks else .next ((t.issued lcn k).countWaits lcn (ks.filter (s.readyCx lcn)))
    | o => o

/-- An imprecise trap or a store-fault trap can be taken (R312). -/
def State.impreciseDue (s : State) (lcn : Nat) : Bool :=
  (s.controlOpen lcn && (s.coreAt lcn).nextCause.isSome) || (s.nextStore lcn).isSome

/-- A helper's trap can be taken (R127). -/
def State.helperDue (s : State) (lcn : Nat) : Bool :=
  let c := s.coreAt lcn
  s.controlOpen lcn && (!c.pend.helpers.isEmpty && (c.nextCause.isNone && !c.pend.stores.any (fun t => t.ctx == 0)))

/-- A core's turn: a pending trap is taken, or an instruction issues (R156). -/
def State.turn (s : State) (lcn : Nat) : Out :=
  if s.impreciseDue lcn then execImpreciseTrapTaken lcn s
  else if s.helperDue lcn then execHelperTrapEntry lcn s
  else s.tryAll lcn (s.order lcn)

/-! ## Events the machine performs of itself (log entry 3) -/

/-- An event does something: what a view shows of the state changes. -/
def State.moves {α : Type} [DecidableEq α] (s : State) (o : Out) (view : State → α) : Bool :=
  match o with
  | .next t => view t != view s
  | _ => false

/-- An event that is due: what it does. -/
abbrev Due := Option (State → Out)

/-- The first of some candidates. -/
def firstDue (xs : List (State → Due)) (s : State) : Due := xs.findSome? fun f => f s

/-- The first key of a table whose entry passes a test. -/
def firstKey {α : Type} (p : Nat → α → Bool) : Tab α → Option Nat
  | [] => none
  | (k, x) :: t => if p k x then some k else firstKey p t

/-- The first of the events that the entries of a table give. -/
def firstOf {α : Type} (f : Nat → α → Due) : Tab α → Due
  | [] => none
  | (k, x) :: t => match f k x with
    | some e => some e
    | none => firstOf f t

/-- Reports of errors, stops and halts (R156 ranks 1 and 2). -/
def State.dueStops (s : State) : Due :=
  match s.arb.gangs.find? fun g => g.gr.report.isSome && !g.ended with
  | some g => some (execRollback g.id)
  | none =>
    firstOf (fun l c =>
      if s.triggerDue l then some (execStopTrigger l)
      else if c.dbg.stop.isSome && (!c.dbg.halt && c.haltReady) then some (execDebugHalt l)
      else if s.stepOver l && c.haltReady then some (execStepEnd l)
      else none) s.cores

/-- Traps of contexts (R156 rank 3): the causes and store faults pending, helpers' traps, the check of a queue wait. -/
def State.dueTraps (s : State) : Due :=
  firstOf (fun l c =>
    if s.impreciseDue l then some (execImpreciseTrapTaken l)
    else if s.helperDue l then some (execHelperTrapEntry l)
    else (firstKey (fun k _ => c.lonely k && s.moves (execQueueOverflowOrUnderflow l k s) fun t => (t.coreAt l).ctxs) c.ctxs).map
      fun k => execQueueOverflowOrUnderflow l k) s.cores

/-- A gang that is over ends, before its windows turn again (R143). -/
def State.dueEnds (s : State) : Due := (s.arb.gangs.find? fun g => !g.ended && s.gangOver g).map fun g => execGangEnd g.id

/-- Windows and budgets (R148 to R150). -/
def State.dueWindows (s : State) : Due :=
  if s.arb.stopped then none
  else
    match s.arb.win with
    | .turnX => some execExchangeWindowOpen
    | .turnC => if s.groupReady then some execComputeWindowOpen else none
    | .compute =>
      (s.activeDoms.find? fun d => !d.done && (d.dph == 0 && (!d.spent && d.since + (s.budgets d).1 ≤ s.clock))).map
        fun d => execComputeBudgetSpent d.key
    | .exchange =>
      (s.activeDoms.find? fun d => d.entered && (d.dph == 2 && (!d.spent && d.since + (s.budgets d).2 ≤ s.clock))).map
        fun d => execExchangeBudgetSpent d.key

/-- Results of a core that are still pending: they complete once something waits for them, or nothing issues after them. -/
def State.dueResults (s : State) (lcn : Nat) : Due :=
  let c := s.coreAt lcn
  let idle := fun (x : Ctx) => x.wait.isSome || (x.halted || (x.st != .running || c.dbg.stop.isSome))
  match firstKey (fun _ x => !x.late.isEmpty && idle x) c.ctxs with
  | some k => some (execLongLatencyCompletion lcn k)
  | none =>
    if !c.mat.queue.isEmpty && ((!s.late || c.ctxs.any (fun e => idle e.2)) &&
        s.moves (execMatrixQueuePerform lcn s) fun t => (t.coreAt lcn).mat.queue.length) then some (execMatrixQueuePerform lcn)
    else if s.governorDue lcn && (c.reg mgovNow != c.reg 0x0C2 || c.mat.rem ≤ 0) then some (execGovernorWindowStart lcn)
    else if c.pend.flags ≠ 0 then some (execFlaguUpdate lcn)
    else if s.sampleDue lcn then some (execCounterSample lcn)
    else (firstKey (fun _ x => x.boost != 0 && (!x.halted && x.boostEnd ≤ s.clock)) c.ctxs).map fun k => execHintPriExpiry lcn k

/-- The next event of a transfer of a core. -/
def State.dueTransfer (s : State) (lcn : Nat) (f : Fp) : Due :=
  let try' := fun (e : State → Out) => if s.moves (e s) (fun t => (t.coreAt lcn).fps) then some e else none
  match f.stage with
  | .accepted => try' (execEngineTransferBegin lcn f.id)
  | .ended _ _ => some (execTransferEnd lcn f.id)
  | .lost _ => none
  | .begun =>
    if f.op.remote?.isNone then try' (execEngineTransferBegin lcn f.id)
    else if f.leg.any (·.relay) then try' (execRelayReinject lcn f.id)
    else if s.twinned lcn then try' (execTwinPairMatch lcn f.id)
    else
      match f.op with
      | .xput _ _ n =>
        match (List.range (packetsOf n)).find? fun p => !f.packets.contains p with
        | some p => try' (execXputPacketArrival lcn f.id p)
        | none => none
      | .xget _ _ _ => try' (execXgetRequestArrival lcn f.id)
      | .xcas _ _ _ _ => try' (execXcasArrival lcn f.id)
      | .xflag _ _ => try' (execXflagArrival lcn f.id)
      | .xtask _ _ => try' (execTaskArrival lcn f.id)
      | _ => none

/-- What a core's store buffer, mailbox and hold show of a drain. -/
def Core.drained (c : Core) : List SbEntry × (Tab Mail × Bool) := (c.sb, (c.mail, c.hold))

/-- Results, engines, streams and the store buffer of a core, and its fault timeouts. -/
def State.dueCore (s : State) (lcn : Nat) : Due :=
  let c := s.coreAt lcn
  match s.dueResults lcn with
  | some e => some e
  | none =>
    match c.fps.findSome? (s.dueTransfer lcn) with
    | some e => some e
    | none =>
      if !c.sb.isEmpty && s.moves (execStoreDrain lcn s) (fun t => (t.coreAt lcn).drained) then some (execStoreDrain lcn)
      else
        match firstKey (fun j _ => s.moves (execStreamFetch lcn j s) (fun t => (t.coreAt lcn).streams)) c.streams with
        | some j => some (execStreamFetch lcn j)
        | none => ((List.range 12).find? (s.timedOut lcn)).map fun j => execFaultTimeout lcn j

/-- The next event of a proxied atomic. -/
def State.dueProxy (s : State) (o : ProxyOp) : Due :=
  match o.st with
  | .queued => if s.proxyHead o then some (execProxyRequest o.id) else none
  | .sent => some (execProxyHomeOperation o.id)
  | .performed _ => some (execProxyResponse o.id)
  | .answered _ => none

/-- Messages, ring tests, proxied operations, combining lines, migrations (R251, R256, R271, R274, R372). -/
def State.dueMessages (s : State) : Due :=
  match firstOf (fun t w => if w.belfry.isEmpty then
        w.ring.landed.head?.map fun c => execRingTestFlitDelivery (8 * t + c)
      else some (execFaultAgentMessage t)) s.towers with
  | some e => some e
  | none =>
    match s.fab.proxies.findSome? s.dueProxy with
    | some e => some e
    | none =>
      match (List.range s.arb.sent.length).find? fun n => s.moves (execCombiningLineArrival n s) (·.arb.sent) with
      | some n => some (execCombiningLineArrival n)
      | none =>
        s.fab.migs.findSome? fun m =>
          if s.moves (execMigrationLineCopy m.id s) (·.fab.migs) then some (execMigrationLineCopy m.id)
          else if s.moves (execMigrationRemove m.id s) (·.fab.migs) then some (execMigrationRemove m.id)
          else none

/-- The next event of a queue: an entry accepted, or the entry at its head started. -/
def State.dueQueue (s : State) (q : Nat) : Due :=
  let try' := fun (e : State → Out) => if s.moves (e s) (·.host.queues) then some e else none
  match try' (execQueueEntryAccept q) with
  | some e => some e
  | none =>
    match s.headOf q with
    | none => none
    | some r =>
      if recNat r 0 1 = 6 then try' (execHostCopy q)
      else if recNat r 0 1 ≠ 9 then try' (execLaunchStart q)
      else if recNat r 1 1 = 2 then try' (execGcbRestore q)
      else if recNat r 1 1 = 3 then try' (execGcbKill q)
      else try' (execGcbPreempt q)

/-- Gangs that are saved or restored, and the queues (R330, R331, R403, R404). -/
def State.dueGangs (s : State) : Due :=
  match s.arb.gangs.findSome? fun g =>
      if g.ended then none
      else if g.gr.st = 1 ∧ s.saveWindow = true then some (execPreemptSave g.id)
      else if s.restoreReady g then some (execPreemptRestore g.id)
      else none with
  | some e => some e
  | none => firstOf (fun q _ => s.dueQueue q) s.host.queues

/-- The event of bring-up at a site whose step is the least; training and tests that nothing fails succeed. -/
def State.dueSite (s : State) (n : Nat) : Due :=
  let x := s.site n
  match x.bs with
  | 0 => some (execWavefrontArrival n)
  | 1 => some (execClockLock n true)
  | 2 => some (execConfigurationArrival n)
  | 3 => some (execSelfTestEnd n true)
  | 4 =>
    match (List.range 4).find? fun d => !x.decided.getLsbD d && s.siteStep n == some (s.bondStep n d) with
    | none => some (execEnterLinked n)
    | some d =>
      match across n d with
      | some m => if 4 ≤ (s.site m).bs ∧ (s.site m).bs ≤ 7 then some (execBondDecision n d true) else some (execBondTimeout n d)
      | none => some (execBondDecision n d true)
  | 5 => some (execEnterServingReduced n)
  | _ => none

/-- Bring-up (R385 to R389). -/
def State.dueSites (s : State) : Due :=
  if s.raiseReady then some execFullServiceRaise
  else
    match s.leastStep with
    | none => none
    | some t => firstOf (fun n _ => if s.siteStep n = some t then s.dueSite n else none) s.fab.sites

/-- Every core's events. -/
def State.dueCores (s : State) : Due := firstOf (fun l _ => s.dueCore l) s.cores

/-- The event the machine performs next, where one is due: stops, traps and window turns before arriving tasks and messages
(R156). -/
def State.nextDue (s : State) : Due :=
  firstDue [State.dueStops, State.dueTraps, State.dueEnds, State.dueWindows, State.dueCores, State.dueMessages, State.dueGangs, State.dueSites] s

/-! ## Time (R26, R352) -/

/-- Counters of a core over n cycles: as ccount; with no context ready, held by the governor, gated after an arrival, stalled on
a full store buffer, as many as the timing left out gives (log entry 7). -/
def Core.passTime (c : Core) (t n : Nat) : Core :=
  let some' := fun evt => Config.stallCycles evt t % (n + 1)
  let going := fun (x : Ctx) => x.live && !x.halted
  let any := c.ctxs.any fun e => going e.2
  let c := c.ctxs.foldl (fun c e =>
    if going e.2 then
      let c := c.countEvent 1 (some e.1) n
      if e.2.wait = some .storeBuffer then c.countEvent 11 (some e.1) (some' 11) else c
    else c) c
  if !any then c
  else if c.mem.held then c.countEvent 7 none n
  else
    let c := c.countEvent 3 none (some' 3)
    if c.mat.queue.isEmpty then c else c.countEvent 6 none (some' 6)

/-- A core counts cycles. -/
def Core.timed (c : Core) : Bool :=
  (List.range 8).any fun j => let e := bits (c.reg (0x160 + j)) 0 8; e == 1 || (e == 3 || (e == 6 || (e == 7 || e == 11)))

/-- The clock goes on by one cycle and as many more as the timing left out gives (log entry 7). -/
def State.passTime (s : State) : State :=
  let n := 1 + Config.extraCycles s.tick
  { s with
    cores := Tab.mapEntries (fun _ c => if c.timed then c.passTime s.tick n else c) s.cores
    towers := Tab.mapEntries (fun _ t => if t.ring.quiet then t else { t with ring := t.ring.run n }) s.towers
    arb := { s.arb with clock := s.arb.clock + n }
    tick := s.tick + 1 }

/-- A core has something to do in a turn. -/
def State.busy (s : State) (lcn : Nat) : Bool :=
  !(s.order lcn).isEmpty || (s.impreciseDue lcn || s.helperDue lcn)

/-- The focus moves on to the next core of the array (R6) that has something to do (log entry 3). -/
def State.rotate (s : State) : State :=
  match firstKey (fun l _ => s.lcn < l && (l < Config.cores && s.busy l)) s.cores with
  | some l => { s with lcn := l }
  | none =>
    match firstKey (fun l _ => l < Config.cores && s.busy l) s.cores with
    | some l => { s with lcn := l }
    | none => s

/-- The turn that the agenda names; where it names none, an event that is due, or else the core in focus, after which the focus
moves on. -/
def State.run (s : State) : Out :=
  match s.agenda with
  | .event i :: rest => exec i { s with agenda := rest }
  | .core l :: rest => { s with agenda := rest, lcn := l % Config.cores }.turn (l % Config.cores)
  | [] =>
    match s.nextDue with
    | some e => e s
    | none => thenNext (s.turn s.lcn) State.rotate

/-- What follows every turn: time passes, and trace records are written. -/
def State.endStep (s : State) : State := s.passTime.flushTraces

/-! ## Placing an instruction -/

/-- The core in focus with context k alone first to issue, nothing pending against it. -/
def Core.clearFor (c : Core) (k : Nat) (pc : BitVec 48) : Core :=
  let most := c.ctxs.foldl (fun m e => max m e.2.waitCount) 16
  { c.updCtx k (fun x => { x with st := .running, halted := false, wait := none, hint := Hint.none, pc := pc, waitCount := most + 1 }) with
    mem := { c.mem with held := false }
    dbg := { c.dbg with step := none }
    pend := { c.pend with causes := [], stores := [], helpers := [] } }

/-- The words of an instruction stored where the context in focus fetches next (log entry 4). -/
def State.placeWord (s : State) (nbits w : Nat) : State :=
  let pc := if (s.viewPA s.lcn s.cx.pc.toNat).isSome then s.cx.pc else 0
  let t := s.updCore fun c => c.clearFor s.k pc
  { t.putBytes ((t.viewPA t.lcn pc.toNat).getD 0) (leBytes 4 (w % 2 ^ nbits)) with agenda := [.core s.lcn] }

end Sys2Proof.Machine
end

