-- ==== Sys2Proof/Machine/Step.lean ====
section
/-!
DEFINITION. One step of the machine: a turn, and what follows it.
-/

namespace Sys2Proof.Machine

/-- One step. -/
def step (s : State) : Host.Outcome State Fault Refusal :=
  if Config.cores ≤ s.lcn ∨ 10 < s.k then .fault .noSuchContext else thenNext s.run State.endStep

/-- The state with an instruction placed where step fetches its next one (log entry 4). -/
def State.withFetchWord (s : State) (nbits w : Nat) : State := s.placeWord nbits w

end Sys2Proof.Machine
end

