-- ==== Sys2Proof/Safety.lean ====
section
/-!
DEFINITION. What counts as a safe state and a safe run, and what a claim says an instruction leaves alone: frames, and how a
context goes on after an instruction that completes in order.
-/

namespace Sys2Proof.Machine

/-! ## Safe states and runs -/

/-- A state from which the machine goes on: the core in focus lies in the largest array (R6), the context slot exists (R120),
and memory is in its canonical form. Every state that a run from reset reaches is one. -/
def State.safe (s : State) : Bool := decide (s.lcn < Config.cores) && (decide (s.k ≤ 10) && Memory.wf s.mem)

/-- n steps from a state end in a next state: none of them is a fault or a refusal. -/
def State.runsFor (s : State) (n : Nat) : Prop := ∃ t, Host.Core.run Sys2Proof.core n s = .next t

/-! ## Frames -/

/-- What an instruction may change: general registers and per-context registers of its context, registers of its core, and whole
parts of the machine. -/
structure Frame where
  g : List (BitVec 5)
  sr : List Nat
  cr : List Nat
  /-- The privilege level. -/
  level : Bool
  /-- The vector files and predicates (R158). -/
  vec : Bool
  /-- Accumulators, tags, counters and codebooks of the matrix engine. -/
  mat : Bool
  streams : Bool
  /-- The store buffer with HOLD and the store-fault queue (R253, R254). -/
  stores : Bool
  /-- Footprints and combining lines (R271, R284). -/
  engines : Bool
  /-- The first-level TLB and the mailbox slots (R245, R251). -/
  mmu : Bool
  /-- The hardware queues (R114). -/
  queues : Bool
  /-- The group, domain and gang registers of the core. -/
  member : Bool
  /-- TA and the pending traps. -/
  traps : Bool
  /-- The other contexts of the core. -/
  ctxs : Bool
  /-- The other cores. -/
  cores : Bool
  memory : Bool
  towers : Bool
  arb : Bool
  fab : Bool
  host : Bool
deriving DecidableEq, Repr

/-- Nothing may change. -/
def Frame.none : Frame :=
  { g := [], sr := [], cr := [], level := false, vec := false, mat := false, streams := false, stores := false, engines := false,
    mmu := false, queues := false, member := false, traps := false, ctxs := false, cores := false, memory := false,
    towers := false, arb := false, fab := false, host := false }

/-- A context keeps what a frame does not name; the loop counters lc0 to lc2 are for `State.advances` to say. -/
def Ctx.keeps (f : Frame) (x y : Ctx) : Prop :=
  (∀ r, r ∉ f.g → y.gr r = x.gr r) ∧ (∀ n, n ∉ f.sr → n < 0x07A ∨ 0x07C < n → y.reg n = x.reg n) ∧
  (f.level = false → y.priv = x.priv)

/-- A core keeps what a frame does not name; its event counters count (R350), and k is the context whose turn it is. -/
def Core.keeps (f : Frame) (k : Nat) (c d : Core) : Prop :=
  (∀ n, n ∉ f.cr → n < 0x158 ∨ 0x15F < n → d.reg n = c.reg n) ∧
  (f.vec = false → d.vec = c.vec) ∧
  (f.mat = false → d.mat.el = c.mat.el ∧ d.mat.tag = c.mat.tag ∧ d.mat.kc = c.mat.kc ∧ d.mat.code = c.mat.code ∧
    d.mat.codeFmt = c.mat.codeFmt) ∧
  (f.streams = false → d.streams = c.streams) ∧
  (f.stores = false → d.sb = c.sb ∧ d.hold = c.hold ∧ d.sfq = c.sfq) ∧
  (f.engines = false → d.fps = c.fps ∧ d.comb = c.comb) ∧
  (f.mmu = false → d.tlb = c.tlb ∧ d.mail = c.mail) ∧
  (f.queues = false → d.hq = c.hq) ∧
  (f.member = false → d.mem = c.mem) ∧
  (f.traps = false → d.ta = c.ta ∧ d.pend = c.pend) ∧
  (f.ctxs = false → ∀ j, j ≠ k → d.ctx j = c.ctx j)

/-- The module keeps what a frame does not name: every byte of memory, every other core, and the rest. -/
def State.keeps (s : State) (f : Frame) (t : State) : Prop :=
  t.lcn = s.lcn ∧ t.k = s.k ∧
  (f.memory = false → ∀ pa, t.byteAt pa = s.byteAt pa) ∧
  (f.cores = false → ∀ l, l ≠ s.lcn → t.coreAt l = s.coreAt l) ∧
  (f.towers = false → t.towers = s.towers) ∧
  (f.arb = false → t.arb = s.arb) ∧
  (f.fab = false → t.fab = s.fab) ∧
  (f.host = false → t.host = s.host) ∧
  Core.keeps f s.k s.core t.core ∧ Ctx.keeps f s.cx t.cx

/-- The same for an event on context k of core lcn. -/
def State.keepsAt (s : State) (f : Frame) (lcn k : Nat) (t : State) : Prop :=
  t.lcn = s.lcn ∧ t.k = s.k ∧
  (f.memory = false → ∀ pa, t.byteAt pa = s.byteAt pa) ∧
  (f.cores = false → ∀ l, l ≠ lcn → t.coreAt l = s.coreAt l) ∧
  (f.towers = false → t.towers = s.towers) ∧
  (f.arb = false → t.arb = s.arb) ∧
  (f.fab = false → t.fab = s.fab) ∧
  (f.host = false → t.host = s.host) ∧
  Core.keeps f k (s.coreAt lcn) (t.coreAt lcn) ∧ Ctx.keeps f ((s.coreAt lcn).ctx k) ((t.coreAt lcn).ctx k)

/-! ## Going on -/

/-- The instruction of the context completes in order: it counts as retired, leaves no hint and no wait, and the pc is at the
next word with the loop counters as they were, unless a hardware loop ends there (R12, R85). -/
def State.advances (s t : State) : Prop :=
  t.cx.retired = s.cx.retired + 1 ∧ t.cx.hint = Hint.none ∧ t.cx.wait = none ∧
  ((∀ k, k < 3 → s.cx.endsAt s.cx.pc k = false) →
    t.cx.pc = s.cx.pc + 4 ∧ ∀ n, 0x07A ≤ n → n ≤ 0x07C → t.cx.reg n = s.cx.reg n)

/-- A general register takes a value, g0 staying 0 (R12); the instruction completes in order and changes nothing else. -/
def State.gives (s t : State) (d : BitVec 5) (v : Word) : Prop :=
  t.g d = (if d = 0 then 0 else v) ∧ s.advances t ∧ s.keeps { Frame.none with g := [d] } t

/-- The payload of a HINT.IMM bound to the instruction at the pc (R48, R51). -/
def State.widening (s : State) : Option (BitVec 22) := if s.cx.hint.next = s.cx.pc then s.cx.hint.imm else none

/-- The address that a precise trap of the instruction at the pc returns to: the earliest hint bound to it, or its own (R31, R51). -/
def State.replayPc (s : State) : BitVec 48 :=
  if s.cx.hint = Hint.none ∨ s.cx.hint.next ≠ s.cx.pc then s.cx.pc else s.cx.hint.first

/-- The control context enters a precise trap at once (R31): cause, tinfo, return address; supervisor level, TA, the pc at the trap
vector. A wait on its mailbox slot ends with it, and what frame `f` names may change beside it. -/
def State.enters (s t : State) (f : Frame) (cause : BitVec 8) (info : Word) (ep : BitVec 48) : Prop :=
  bits (t.core.reg 0x00A) 2 46 = ep.toNat / 4 ∧ t.core.reg 0x009 = cause.setWidth 64 ∧ t.core.reg 0x00B = info ∧
  t.core.reg 0x00C = BitVec.ofNat 64 (s.cx.priv.toNat * 256) ∧ t.core.ta = true ∧ t.cx.priv = 1 ∧
  t.cx.pc = BitVec.ofNat 48 (bits (s.core.reg 0x008) 2 46 * 4) ∧
  (∀ n, 0x07A ≤ n → n ≤ 0x07C → t.cx.reg n = s.cx.reg n) ∧
  s.keeps { f with cr := [0x009, 0x00A, 0x00B, 0x00C], level := true, traps := true, mmu := true } t

/-- A precise trap that the control context takes with no other effect. -/
def State.traps (s t : State) (cause : BitVec 8) (info : Word) (ep : BitVec 48) : Prop := s.enters t Frame.none cause info ep

/-- The trap of an access that translation refuses (R242, R244): cause 0x05 with the address as tinfo, and pfinfo with VALID, KIND,
REASON and the address. What the translation filled stays (R245). -/
def State.refusesAccess (s t : State) (kind reason va : Nat) : Prop :=
  s.enters t { Frame.none with sr := [0x085], towers := true } 0x05 (BitVec.ofNat 64 va) s.replayPc ∧
  t.cx.reg 0x085 = BitVec.ofNat 64 (2 ^ 63 + kind * 2 ^ 56 + reason * 2 ^ 48 + va % 2 ^ 48)

/-- The conditions under which a trap is taken so: the control context, no trap being handled, its older instructions completed. -/
def State.mayTrap (s : State) : Prop := s.k = 0 ∧ s.core.ta = false ∧ s.olderPending = false

/-- Pending results of long-latency instructions stay out: the model lets a result with a lookahead count come late only where
`late` is set, the count is not 0 and no FP trap is enabled (R44, R46; log entry 9). -/
def State.promptly (s : State) (lk : Nat) : Bool := !(s.late && (lk != 0 && s.en == 0))

/-- Accesses bring nothing else with them: no combining partial waits for its home (R272) and no watchpoint is enabled (R347). -/
def State.calm (s : State) : Bool := s.arb.sent.isEmpty && s.cores.all fun e => !e.2.watches

/-- No core keeps an undo journal (R318, R323). -/
def State.unjournalled (s : State) : Bool := s.cores.all fun e => !e.2.journalOn

/-- The cells that a write performs at: what its bytes read as afterwards, every other byte as before. Where two cells share an
address the last one counts. -/
def State.wrote (s t : State) (cells : List (Nat × Byte)) : Prop :=
  ∀ pa, t.byteAt pa = ((cells.reverse.find? fun c => c.1 == pa).map (·.2)).getD (s.byteAt pa)

/-- The streams that a list of vector sources names are ready for their pops: bound, begun, with a vector waiting for each pop of
the instruction or at their end (R293). Sources that are registers are always ready. -/
def State.served (s : State) (done : List (BitVec 6)) : List (BitVec 6) → Bool
  | [] => true
  | x :: t =>
    (match smSlot x with
      | none => true
      | some k =>
        match Tab.find? s.core.streams k with
        | none => false
        | some m =>
          (s.core.streamFp k).all (fun f => decide (f.stage ≠ .accepted)) && ((Tab.find? s.core.mail s.k).isNone &&
            (decide ((done.filter (· == x)).length + 1 ≤ m.ready.length) || m.ended))) &&
    s.served (x :: done) t

/-! ## Vector results -/

/-- A vector instruction completes in order: its streams are popped, with the out-of-range records of the vectors popped (R293);
the vector files become `v`, the general registers of `g` take their values, and its flags reach fpm.FLG and, later, flagu
(R24, R110, R163). -/
def State.vmoves (s t : State) (fs : List (BitVec 6)) (g : List (BitVec 5 × Word)) (v : VecState) (fl : BitVec 5) : Prop :=
  s.advances t ∧ t.core.ta = s.core.ta ∧
  s.keeps { Frame.none with g := g.map (·.1), sr := [0x001, 0x002], vec := true, streams := true, traps := true } t ∧
  t.core.streams = (s.pops fs).core.streams ∧ t.cx.reg 0x002 = (s.pops fs).cx.reg 0x002 ∧
  t.core.vec = v ∧ (∀ e ∈ g, t.g e.1 = if e.1 = 0 then 0 else e.2) ∧
  t.cx.reg 0x001 = s.fpm ||| BitVec.ofNat 64 (fl.toNat * 4) ∧
  t.core.pend = { s.core.pend with flags := s.core.pend.flags ||| fl }

/-- The same for one of lookahead count lk: its results come at once, or stay pending (R44; log entry 9). -/
def State.vgives (s t : State) (fs : List (BitVec 6)) (lk : Nat) (g : List (BitVec 5 × Word)) (out : List (BitVec 6 × VReg))
    (fl : BitVec 5) : Prop :=
  if s.promptly lk = true then s.vmoves t fs g (out.foldl (fun v e => v.put e.1 e.2) s.core.vec) fl
  else s.vmoves t fs [] s.core.vec 0 ∧ ∃ p ∈ t.cx.late, p.left = lk ∧ p.gdest = g ∧ p.vdest = out ∧ p.flags = fl

/-- The element results of an instruction as one register: each active element computed, the others zero or kept (R163). -/
def State.lanes (s : State) (w : Nat) (m : BitVec 3) (z : BitVec 1) (d : BitVec 6) (r : BitVec 2048) (f : Nat → Nat) : Prop :=
  ∀ e, e < 2048 / w → elem w r.toNat e =
    if active (s.core.vec.pred m) w e then f e % 2 ^ w else if z = 1 then 0 else elem w (s.core.vec.reg d).data.toNat e

/-- A flag set is the union of the flags of the active elements (R109, R163). -/
def State.raisedBy (s : State) (w : Nat) (m : BitVec 3) (fl : BitVec 5) (f : Nat → FRes) : Prop :=
  ∀ j, fl.getLsbD j = true ↔
    ∃ e, e < 2048 / w ∧ active (s.core.vec.pred m) w e = true ∧ (f e).2.getLsbD j = true

/-! ## Exact values and rounding (R106) -/

/-- The rational number that an exact dyadic stands for. -/
def dyValue (d : Dyadic') : ℚ := d.m * (2 : ℚ) ^ d.e

/-- The value of a finite pattern. -/
def Fmt.value (f : Fmt) (x : Nat) : ℚ := dyValue (f.val x)

/-- The magnitude n of unit u stands for x rounded by a mode of fpm.RM: to nearest with ties to even, toward zero, up, down. -/
def roundsTo (mode : BitVec 2) (x u : ℚ) (n : ℕ) : Prop :=
  let y : ℚ := if x < 0 then -(n * u) else n * u
  (mode = 0 → |y - x| ≤ u / 2 ∧ (|y - x| = u / 2 → n % 2 = 0)) ∧ (mode = 1 → |y| ≤ |x| ∧ |x| < |y| + u) ∧
  (mode = 2 → x ≤ y ∧ y < x + u) ∧ (mode = 3 → y ≤ x ∧ x < y + u)

/-! ## The matrix engine -/

/-- An instruction of the matrix engine is performed as it issues: the engine's queue is empty and its result does not come late
(R186; log entry 9). -/
def State.engineFree (s : State) (lk : Nat) : Prop := s.core.mat.queue = [] ∧ s.promptly lk = true

/-- The governor holds no step of the engine: neither mgov nor mgcap, as in force now, sets a budget (R200, R392). -/
def State.unheld (s : State) : Prop := (s.core.governNow s.clock).governed = false

/-- The frame of an instruction of the engine: the engine itself, fpm and oorf, the traps, what translation fills, and the governor's
values in force, which a window start that is due brings up to date (R200). -/
def Frame.matrix : Frame :=
  { Frame.none with mat := true, sr := [0x001, 0x002], cr := [mgovNow, mgcapNow], traps := true }

/-- The bytes of operands are read at once: located with `frames`, in state `u` after translation, and held by no mailbox, no
buffered store and no footprint (R187). -/
def State.fetches (s : State) (ops : List (List Nat)) (frames : Tab Nat) (u : State) : Prop :=
  s.calm = true ∧ Tab.find? s.core.mail s.k = none ∧
  s.begin.locateAll s.lcn s.k (s.begin.query s.lcn s.k true false false true) ops [] = (.ok frames, u) ∧
  u.fetchHeld s.lcn frames ops.flatten = false ∧ u.core.fpHoldsAccess (ops.flatten.filterMap (u.spotPA s.lcn frames)) = false

/-- A byte of an operand (R29). -/
def State.operandByte (s : State) (frames : Tab Nat) (ea : Nat) : Byte :=
  match s.spotPA s.lcn frames ea with
  | some pa => s.byteAt pa
  | none => 0

/-- Accumulators other than k keep their elements, tags and chunk counters, and with `books` the codebooks stay. -/
def MatState.keepsBut (m n : MatState) (k : Nat) (books : Bool) : Prop :=
  (∀ c, c ≠ k → (∀ i j, i < 64 → j < 64 → n.at c i j = m.at c i j) ∧ n.tagOf c = m.tagOf c ∧ n.kcOf c = m.kcOf c) ∧
  (books = true → n.code = m.code ∧ n.codeFmt = m.codeFmt)

/-- An instruction of the matrix engine that was performed at its issue completes: its flags reach fpm, its accesses outside
every window are recorded (R29, R188), and what it changes beside them is the engine. -/
def State.engineDone (s t : State) (fl : BitVec 5) (write : Bool) (oor : List (List Nat)) : Prop :=
  s.advances t ∧ t.core.ta = s.core.ta ∧ t.core.mat.queue = [] ∧
  t.core.pend = { s.core.pend with flags := s.core.pend.flags ||| fl } ∧
  t.cx.reg 0x001 = s.fpm ||| BitVec.ofNat 64 (fl.toNat * 4) ∧ t.cx.reg 0x002 = (s.cx.recordOors write oor).reg 0x002

/-! ## Waits, engines and events -/

/-- The result of a step at the state that twins share goes to the other twin as well, and no other core changes (R326). -/
def State.tellsTwin (s t : State) (w : Word) : Prop :=
  (∀ l, l ≠ s.lcn → s.otherTwin s.lcn ≠ some l → t.coreAt l = s.coreAt l) ∧
  ∀ h, s.otherTwin s.lcn = some h → h ≠ s.lcn →
    t.coreAt h = { s.coreAt h with mem := { (s.coreAt h).mem with ahead := (s.coreAt h).mem.ahead ++ [w] } }

/-- The instruction of the context waits on `w`: it has not completed, and nothing else changes. -/
def State.waits (s t : State) (w : Wait) : Prop :=
  t.cx.pc = s.cx.pc ∧ t.cx.retired = s.cx.retired ∧ t.cx.wait = some w ∧ s.keeps Frame.none t

/-- The context blocks on a page that is not present (R251): its mailbox slot waits for an answer to the message that goes to the
belfry core, and nothing else changes but what translation fills. -/
def State.awaitsPage (s t : State) (kind va : Nat) : Prop :=
  t.cx.pc = s.cx.pc ∧ t.cx.retired = s.cx.retired ∧ t.cx.wait = some .mailbox ∧ t.cx.st = .blocked ∧
  s.keeps { Frame.none with mmu := true, towers := true } t ∧
  ∃ m msgs, Tab.find? t.core.mail s.k = some m ∧ m.va = BitVec.ofNat 48 va ∧ m.kind = kind ∧ m.answer = none ∧
    m.seq = s.core.mailSeq + 1 ∧ t.tower.belfry = s.tower.belfry ++ msgs ∧
    msgs = [.notPresent s.lcn s.k kind m.va m.asid (s.partOf s.lcn) (BitVec.ofNat 64 (s.domOf s.lcn).sstep) m.seq]

/-- The frame of an instruction that an engine accepts: footprints, and what translation fills (R245). -/
def Frame.engine : Frame := { Frame.none with engines := true, mmu := true, towers := true }

/-- An engine accepts a transfer (R280, R286): the instruction completes, its entry stands behind `old`, its token is pending,
and its destination register keeps its value. -/
def State.accepts (s t : State) (old : List Fp) (e : Fp) : Prop :=
  s.advances t ∧ t.core.fps = old ++ [{ e with id := s.core.count + 1, ctx := s.k, after := s.core.count, nth := s.cx.sends }] ∧
  t.cx.tokens = s.cx.tokens ++ (if e.tok = 0 then [] else [(e.tok, s.core.count + 1)]) ∧ t.core.comb = s.core.comb ∧
  t.core.mail = s.core.mail

/-- What an engine, the network or the host does leaves every context, the vector and matrix state, the queues and the store
buffers of every core alone, and every control or core register outside `regs`. -/
def State.spares (s t : State) (regs : List Nat) : Prop :=
  t.lcn = s.lcn ∧ t.k = s.k ∧ ∀ l, (∀ k, (t.coreAt l).ctx k = (s.coreAt l).ctx k) ∧
    (∀ n, n ∉ regs → n < 0x158 ∨ 0x15F < n → (t.coreAt l).reg n = (s.coreAt l).reg n) ∧
    (t.coreAt l).vec = (s.coreAt l).vec ∧ (t.coreAt l).mat = (s.coreAt l).mat ∧ (t.coreAt l).hq = (s.coreAt l).hq ∧
    (t.coreAt l).sb = (s.coreAt l).sb ∧ (t.coreAt l).ta = (s.coreAt l).ta

/-- Writes bring no journal entry and reach no moved page: no core keeps a journal and no page migrates (R256, R320). -/
def State.settled (s : State) : Prop := s.calm = true ∧ s.unjournalled = true ∧ s.fab.migs = []

/-- The bytes of a completion record and where they lie (R406, R407): none where CPLADDR is 0, or where the host refuses the write;
`tick` numbers the free value that says so. -/
def State.completion (s : State) (tick q : Nat) (seq cpl : Word) (flags status killed sfs : Nat) (x : Word) : List (Nat × Byte) :=
  if cpl = 0 ∨ Config.hostRefuses tick (BitVec.ofNat 43 cpl.toNat) = true then []
  else
    (leBytes 1 7 ++ (leBytes 1 flags ++ (leBytes 1 status ++ (leBytes 1 0 ++ (leBytes 2 q ++ (leBytes 2 0 ++
      (leBytes 8 seq.toNat ++ (leBytes 4 killed ++ (leBytes 4 sfs ++ (leBytes 8 x.toNat ++ zeros 32)))))))))).zipIdx.map
      fun b => (s.hostPA cpl.toNat + b.2, b.1)

/-- The final completion record of a queue's head entry that starts no gang. -/
def State.finalRecord (s : State) (tick q : Nat) (r : List Byte) (status : Nat) (x : Word) : List (Nat × Byte) :=
  if badCpl r = true then [] else s.completion tick q (entrySeq r) (entryCpl r) 3 status 0 0 x

/-! ## Bring-up -/

/-- A state of bring-up: only sites change, and the step in which the next seed may start (R385; log entry 26). -/
def State.built (s t : State) (step : Nat) : Prop :=
  t = { s with fab := { s.fab with sites := t.fab.sites, bstep := max s.fab.bstep (step + 1) } }

end Sys2Proof.Machine
end

