-- ==== Sys2Proof/Certificates/Slice0/Obligations.lean ====
section
/-!
DEFINITION. The statements for the provers. Each names the rules of the specification that it rests on; what a statement owes to
a choice of the model is named by its log entry.
-/

open Sys2Proof Sys2Proof.Machine

/-- Register, counting and immediate arithmetic: results, completion and frame. R74, R37: the three-register operations. R75.
R48, R76, R77. -/
def Obligations.ScalarArithmetic : Prop :=
  (∀ (s : State) (d a b : BitVec 5) (x y : Word), x = s.g a → y = s.g b →
   ∀ e ∈ ([(.add d a b, x + y), (.sub d a b, x - y), (.mul d a b, x * y),
       (.mulhS64 d a b, ((x.signExtend 128 * y.signExtend 128) >>> 64).setWidth 64),
       (.mulhB64 d a b, ((x.setWidth 128 * y.setWidth 128) >>> 64).setWidth 64),
       (.and d a b, x &&& y), (.or d a b, x ||| y), (.xor d a b, x ^^^ y), (.andn d a b, x &&& ~~~y),
       (.shl d a b, BitVec.ofNat 64 (x.toNat * 2 ^ (y.toNat % 64))),
       (.shr d a b, BitVec.ofNat 64 (x.toNat / 2 ^ (y.toNat % 64))),
       (.sar d a b, BitVec.ofInt 64 (x.toInt / 2 ^ (y.toNat % 64))),
       (.slt d a b, if x.toInt < y.toInt then 1 else 0), (.sltb d a b, if x.toNat < y.toNat then 1 else 0),
       (.minS64 d a b, if x.toInt < y.toInt then x else y), (.minB64 d a b, if x.toNat < y.toNat then x else y),
       (.maxS64 d a b, if x.toInt < y.toInt then y else x), (.maxB64 d a b, if x.toNat < y.toNat then y else x)] :
       List (Instr × Word)),
     s.ready e.1 = true → ∃ t, exec e.1 s = .next t ∧ s.gives t d e.2) ∧
  (∀ (s : State) (d a : BitVec 5) (w : BitVec 2) (n x : Nat), n = 8 * 2 ^ w.toNat → x = (s.g a).toNat % 2 ^ n →
     (s.ready (.clz d a w) = true → ∃ t r, exec (.clz d a w) s = .next t ∧ s.gives t d (BitVec.ofNat 64 r) ∧
       (if x = 0 then r = n else r < n ∧ 2 ^ (n - 1 - r) ≤ x ∧ x < 2 ^ (n - r))) ∧
     (s.ready (.ffs d a w) = true → ∃ t r, exec (.ffs d a w) s = .next t ∧ s.gives t d (BitVec.ofNat 64 r) ∧
       (if x = 0 then r = n else r < n ∧ x.testBit r = true ∧ ∀ i, i < r → x.testBit i = false)) ∧
     (s.ready (.popcnt d a w) = true → ∃ t, exec (.popcnt d a w) s = .next t ∧
       s.gives t d (BitVec.ofNat 64 ((List.range n).countP (x.testBit ·))))) ∧
  (∀ (s : State) (d a : BitVec 5) (imm : BitVec 16) (n : BitVec 6) (x i z : Word), x = s.g a →
   (match s.widening with
     | none => i = imm.signExtend 64 ∧ z = imm.setWidth 64
     | some p => i = (p ++ imm).signExtend 64 ∧ z = (p ++ imm).setWidth 64) →
   ∀ e ∈ ([(.addi d a imm, x + i), (.andi d a imm, x &&& z), (.ori d a imm, x ||| z), (.xori d a imm, x ^^^ z),
       (.slti d a imm, if x.toInt < i.toInt then 1 else 0), (.sltbi d a imm, if x.toNat < i.toNat then 1 else 0),
       (.ldhi d a imm, x + i * 65536), (.shli d a n, BitVec.ofNat 64 (x.toNat * 2 ^ n.toNat)),
       (.shri d a n, BitVec.ofNat 64 (x.toNat / 2 ^ n.toNat)), (.sari d a n, BitVec.ofInt 64 (x.toInt / 2 ^ n.toNat))] :
       List (Instr × Word)),
     s.ready e.1 = true → ∃ t, exec e.1 s = .next t ∧ s.gives t d e.2)

/-- SEL: its word, its result and its frame. R78. -/
def Obligations.Select : Prop :=
  ∀ (s : State) (d a b c : BitVec 5),
    (encode (.sel d a b c)).toNat = 2 ^ 26 + d.toNat * 2 ^ 21 + a.toNat * 2 ^ 16 + b.toNat * 2 ^ 11 + c.toNat * 2 ^ 6 ∧
    (s.ready (.sel d a b c) = true → ∃ t, exec (.sel d a b c) s = .next t ∧
      s.gives t d (if s.g c = 0 then s.g b else s.g a))

/-- DIV and REM, and the completion of pending long-latency results. R36, R79. R31, R44, R110: a pending result of a long-latency
instruction is written. -/
def Obligations.DivisionAndLateResults : Prop :=
  (∀ (s : State) (d a b : BitVec 5) (l : BitVec 4) (w u : BitVec 1) (n x y : Nat), n = (if w = 1 then 32 else 64) →
   x = (s.g a).toNat % 2 ^ n → y = (s.g b).toNat % 2 ^ n →
   ∃ q r : Int,
     (if u = 1 then
       (if y = 0 then q = 2 ^ n - 1 ∧ r = x else q = (x / y : Nat) ∧ r = (x % y : Nat))
     else
       if sintOf n y = 0 then q = -1 ∧ r = sintOf n x
       else if sintOf n x = -2 ^ (n - 1) ∧ sintOf n y = -1 then q = sintOf n x ∧ r = 0
       else q = Int.tdiv (sintOf n x) (sintOf n y) ∧ r = sintOf n x - q * sintOf n y) ∧
     ∀ e ∈ ([(.div d a b l w u, BitVec.ofInt 64 q), (.rem d a b l w u, BitVec.ofInt 64 r)] : List (Instr × Word)),
       s.ready e.1 = true → ∃ t, exec e.1 s = .next t ∧
         if s.promptly l.toNat = true then s.gives t d e.2
         else s.advances t ∧ s.keeps Frame.none t ∧ ∃ p ∈ t.cx.late, p.left = l.toNat ∧ p.gdest = [(d, e.2)]) ∧
  (∀ (s : State) (lcn k : Nat) (p : Late) (rest : List Late), ((s.coreAt lcn).ctx k).late = p :: rest →
   (∀ e ∈ p.gdest, e.1 ≠ 0) → (p.gdest.map (·.1)).Nodup → ∃ t, exec (.longLatencyCompletion lcn k) s = .next t ∧
     ((t.coreAt lcn).ctx k).late = rest ∧ (∀ e ∈ p.gdest, ((t.coreAt lcn).ctx k).gr e.1 = e.2) ∧
     (t.coreAt lcn).vec = p.vdest.foldl (fun v e => v.put e.1 e.2) (s.coreAt lcn).vec ∧
     ((t.coreAt lcn).ctx k).reg 0x001 = ((s.coreAt lcn).ctx k).reg 0x001 ||| BitVec.ofNat 64 (p.flags.toNat * 4) ∧
     (t.coreAt lcn).pend.flags = (s.coreAt lcn).pend.flags ||| p.flags ∧ (t.coreAt lcn).ta = (s.coreAt lcn).ta ∧
     ((t.coreAt lcn).ctx k).pc = ((s.coreAt lcn).ctx k).pc ∧
     s.keepsAt { Frame.none with g := p.gdest.map (·.1), sr := [0x001], vec := true, traps := true } lcn k t)

/-- Conditional branches: target, fall through, frame. R40, R80. -/
def Obligations.Branches : Prop :=
  ∀ (s : State) (a b : BitVec 5) (o : BitVec 16) (x y off : Word), x = s.g a → y = s.g b →
  (match s.widening with | none => off = o.signExtend 64 | some p => off = (p ++ o).signExtend 64) →
  ∀ e ∈ ([(.beq a b o, x = y), (.bne a b o, x ≠ y), (.blt a b o, x.toInt < y.toInt), (.bge a b o, y.toInt ≤ x.toInt),
      (.bltb a b o, x.toNat < y.toNat), (.bgeb a b o, y.toNat ≤ x.toNat)] : List (Instr × Prop)),
    s.ready e.1 = true → ∃ t, exec e.1 s = .next t ∧ s.keeps Frame.none t ∧
      (e.2 → t.cx.pc = ((s.cx.pc + 4).setWidth 64 + off * 4).setWidth 48 ∧ t.cx.retired = s.cx.retired + 1 ∧
        ∀ k, k < 3 → t.cx.reg (0x07A + k) = s.cx.reg (0x07A + k)) ∧
      (¬ e.2 → s.advances t)

/-- JAL: its word, g31, the target and the frame. R81. -/
def Obligations.JumpAndLink : Prop :=
  ∀ (s : State) (o : BitVec 26), (encode (.jal o)).toNat = 0x1E * 2 ^ 26 + o.toNat ∧
    (s.ready (.jal o) = true → ∃ t, exec (.jal o) s = .next t ∧ t.g 31 = (s.cx.pc + 4).setWidth 64 ∧
      t.cx.pc = s.cx.pc + 4 + (o.signExtend 48) * 4 ∧ t.cx.retired = s.cx.retired + 1 ∧
      s.keeps { Frame.none with g := [31] } t ∧ ∀ n, 0x07A ≤ n → n ≤ 0x07C → t.cx.reg n = s.cx.reg n)

/-- JR: its word, link, target, misaligned trap and frame. R82. -/
def Obligations.JumpRegister : Prop :=
  ∀ (s : State) (d a : BitVec 5),
    (encode (.jr d a)).toNat = 0x1F * 2 ^ 26 + d.toNat * 2 ^ 21 + a.toNat * 2 ^ 16 ∧
    (s.ready (.jr d a) = true → (s.g a).toNat % 4 = 0 → ∃ t, exec (.jr d a) s = .next t ∧
      t.g d = (if d = 0 then 0 else (s.cx.pc + 4).setWidth 64) ∧
      t.cx.pc = (s.g a).setWidth 48 ∧ t.cx.retired = s.cx.retired + 1 ∧
      s.keeps { Frame.none with g := [d] } t ∧ ∀ n, 0x07A ≤ n → n ≤ 0x07C → t.cx.reg n = s.cx.reg n) ∧
    (s.ready (.jr d a) = true → (s.g a).toNat % 4 ≠ 0 → s.mayTrap →
      ∃ t, exec (.jr d a) s = .next t ∧ s.traps t 0x04 (((s.g a).setWidth 48).setWidth 64) s.replayPc)

/-- LOOP, and what an instruction at a loop end does. R84, R85. R12, R85: hardware loops, for an instruction that ends one. -/
def Obligations.HardwareLoops : Prop :=
  (∀ (s : State) (k : BitVec 2) (a : BitVec 5) (l : BitVec 8), s.ready (.loop k a l) = true →
     ∃ t, exec (.loop k a l) s = .next t ∧ s.keeps { Frame.none with sr := [0x07D + k.toNat] } t ∧
       t.cx.retired = s.cx.retired + 1 ∧
       (s.g a = 0 → t.cx.reg (0x07A + k.toNat) = 0 ∧ t.cx.reg (0x07D + k.toNat) = s.cx.reg (0x07D + k.toNat) ∧
         t.cx.pc = s.cx.pc + 4 + BitVec.ofNat 48 (4 * (l.toNat + 1)) ∧
         ∀ j, j < 3 → j ≠ k.toNat → t.cx.reg (0x07A + j) = s.cx.reg (0x07A + j)) ∧
       (s.g a ≠ 0 → (∀ j, j < 3 → j ≠ k.toNat → s.cx.endsAt s.cx.pc j = false) → s.cx.pc.toNat % 4 = 0 → s.cx.priv.toNat < 2 →
         t.cx.reg (0x07A + k.toNat) = s.g a ∧ bits (t.cx.reg (0x07D + k.toNat)) 2 46 = (s.cx.pc + 4).toNat / 4 ∧
         bits (t.cx.reg (0x07D + k.toNat)) 56 8 = l.toNat ∧ bits (t.cx.reg (0x07D + k.toNat)) 48 1 = s.cx.priv.toNat ∧
         t.cx.pc = s.cx.pc + 4 ∧ ∀ j, j < 3 → j ≠ k.toNat → t.cx.reg (0x07A + j) = s.cx.reg (0x07A + j))) ∧
  (∀ (s : State) (k : Nat) (d a b : BitVec 5) (lc : Word), k < 3 → s.ready (.add d a b) = true → s.cx.endsAt s.cx.pc k = true →
   lc = s.cx.reg (0x07A + k) → ∃ t, exec (.add d a b) s = .next t ∧ t.g d = (if d = 0 then 0 else s.g a + s.g b) ∧
     t.cx.retired = s.cx.retired + 1 ∧ s.keeps { Frame.none with g := [d] } t ∧
     ((∀ j, j < 3 → j ≠ k → s.cx.endsAt s.cx.pc j = false) →
       (1 < lc.toNat → t.cx.pc = BitVec.ofNat 48 (bits (s.cx.reg (0x07D + k)) 2 46 * 4) ∧ t.cx.reg (0x07A + k) = lc - 1) ∧
       (lc = 1 → t.cx.pc = s.cx.pc + 4 ∧ t.cx.reg (0x07A + k) = 0) ∧
       ∀ j, j < 3 → j ≠ k → t.cx.reg (0x07A + j) = s.cx.reg (0x07A + j)) ∧
     (∀ j, j < 3 → j ≠ k → s.cx.endsAt s.cx.pc j = true → (∀ i, i < 3 → i ≠ k → i ≠ j → s.cx.endsAt s.cx.pc i = false) →
       s.cx.loopStart j < s.cx.loopStart k →
       (1 < lc.toNat → t.cx.pc = BitVec.ofNat 48 (s.cx.loopStart k) ∧ t.cx.reg (0x07A + k) = lc - 1 ∧
         t.cx.reg (0x07A + j) = s.cx.reg (0x07A + j)) ∧
       (lc = 1 → 1 < (s.cx.reg (0x07A + j)).toNat → t.cx.pc = BitVec.ofNat 48 (s.cx.loopStart j) ∧ t.cx.reg (0x07A + k) = 0 ∧
         t.cx.reg (0x07A + j) = s.cx.reg (0x07A + j) - 1)))

/-- Hint words: what they bind, the boost, and its expiry. R47 to R51. -/
def Obligations.Hints : Prop :=
  ∀ (s : State),
    (∀ p, s.ready (.hintImm p) = true → ∃ t, exec (.hintImm p) s = .next t ∧ s.keeps Frame.none t ∧
      t.cx.retired = s.cx.retired + 1 ∧ t.cx.hint.imm = some p ∧ t.cx.hint.next = s.cx.pc + 4 ∧
      (s.cx.hint = Hint.none → t.cx.hint.mod = none ∧ t.cx.hint.first = s.cx.pc)) ∧
    (∀ p, s.ready (.hintMod p) = true → ∃ t, exec (.hintMod p) s = .next t ∧ s.keeps Frame.none t ∧
      t.cx.retired = s.cx.retired + 1 ∧ t.cx.hint.mod = some p ∧ t.cx.hint.next = s.cx.pc + 4 ∧
      (s.cx.hint = Hint.none → t.cx.hint.imm = none ∧ t.cx.hint.first = s.cx.pc)) ∧
    (∀ b n k, s.ready (.hintPri b n k) = true → ∃ t, exec (.hintPri b n k) s = .next t ∧ s.advances t ∧
      (t.core.ctx k.toNat).boost = b.toNat ∧
      (t.core.ctx k.toNat).boostEnd = s.clock + n.toNat ∧
      s.keeps { Frame.none with ctxs := true } t ∧ ∀ j, j ≠ s.k → j ≠ k.toNat → t.core.ctx j = s.core.ctx j) ∧
    (∀ lcn k, ((s.coreAt lcn).ctx k).boostEnd ≤ s.clock → ((s.coreAt lcn).ctx k).halted = false →
      ∃ t, exec (.hintPriExpiry lcn k) s = .next t ∧ ((t.coreAt lcn).ctx k).boost = 0 ∧ s.keepsAt Frame.none lcn k t)

/-- Scalar loads, and the local addresses that a load reaches. R16, R29, R87, R88, R258. R28, R239, R244: which addresses a load
of local memory reaches. -/
def Obligations.LoadsAndAddresses : Prop :=
  (∀ (s b : State) (d a : BitVec 5) (l : BitVec 4) (imm : BitVec 12) (ea : Word), b = s.begin →
   ea = s.g a + (match s.widening with | none => imm.signExtend 64 | some p => (p ++ imm).signExtend 64) →
   ∀ e ∈ ([(.ldB8 d a l imm, 1, false), (.ldS8 d a l imm, 1, true), (.ldB16 d a l imm, 2, false), (.ldS16 d a l imm, 2, true),
       (.ldB32 d a l imm, 4, false), (.ldS32 d a l imm, 4, true), (.ldD d a l imm, 8, false)] : List (Instr × Nat × Bool)),
     s.ready e.1 = true →
     (ea.toNat % e.2.1 ≠ 0 → s.mayTrap → ∃ t, exec e.1 s = .next t ∧ s.traps t 0x04 ea s.replayPc) ∧
     (∀ u frames v, ea.toNat % e.2.1 = 0 → s.calm = true → Tab.find? s.core.mail s.k = none →
       b.locate s.lcn s.k (b.query s.lcn s.k true false false true) (byteEAs ea e.2.1) = (.ok frames, u) →
       u.loadHeld s.lcn s.k frames (byteEAs ea e.2.1) = false →
       u.core.fpHoldsAccess ((byteEAs ea e.2.1).filterMap (u.spotPA s.lcn frames)) = false →
       v = ofLeBytes ((byteEAs ea e.2.1).map (s.loadByte s.lcn s.k frames)) →
       ∃ t, exec e.1 s = .next t ∧ s.advances t ∧ t.towers = u.towers ∧
         s.keeps { Frame.none with g := [d], sr := [0x002], mmu := true, towers := true } t ∧
         t.cx.reg 0x002 = (s.cx.recordOors false [byteEAs ea e.2.1]).reg 0x002 ∧
         (s.promptly l.toNat = true → t.g d = if d = 0 then 0 else
           if e.2.2 then BitVec.ofInt 64 (sintOf (8 * e.2.1) v) else BitVec.ofNat 64 v) ∧
         (s.promptly l.toNat = false → ∃ p ∈ t.cx.late, p.left = l.toNat ∧ p.gdest =
           [(d, if e.2.2 then BitVec.ofInt 64 (sintOf (8 * e.2.1) v) else BitVec.ofNat 64 v)]))) ∧
  (∀ (s : State) (q : Query) (k : Nat) (eas : List Nat), (∀ ea ∈ eas, isVirtual ea = false) →
     s.locate s.lcn k q eas = (.ok [], s) ∧ ∀ ea ∈ eas,
       s.spotPA s.lcn [] ea = (if ea < 0x80000 then some (s.fab.modnum * 2 ^ 52 + 0x800000000 + s.lcn * 0x80000 + ea)
         else if 0x8000000 ≤ ea ∧ ea < 0xC000000 then some (s.fab.modnum * 2 ^ 52 + s.lcn / 8 * 0x4000000 + (ea - 0x8000000))
         else none) ∧
       (s.spotPA s.lcn [] ea = none → s.core.sb = [] → s.loadByte s.lcn k [] ea = 0))

/-- ST puts one entry into the store buffer, and a drain writes it. R29, R87, R89, R253. R253. -/
def Obligations.StoresAndDrains : Prop :=
  (∀ (s : State) (d a : BitVec 5) (z : BitVec 2) (imm : BitVec 12) (n : Nat) (ea : Word), n = 2 ^ z.toNat →
   ea = s.g a + (match s.widening with | none => imm.signExtend 64 | some p => (p ++ imm).signExtend 64) →
   s.ready (.st d a z imm) = true →
     (ea.toNat % n ≠ 0 → s.mayTrap → ∃ t, exec (.st d a z imm) s = .next t ∧ s.traps t 0x04 ea s.replayPc) ∧
     (ea.toNat % n = 0 → outOfRange ea.toNat = true → ∃ t, exec (.st d a z imm) s = .next t ∧ s.advances t ∧
       s.keeps { Frame.none with sr := [0x002] } t ∧
       (bit (s.cx.reg 0x002) 63 = false → bits (t.cx.reg 0x002) 62 2 = 3 ∧ bits (t.cx.reg 0x002) 48 8 = 1 ∧
         bits (t.cx.reg 0x002) 0 48 = ea.toNat % 2 ^ 48) ∧
       (bit (s.cx.reg 0x002) 63 = true → bits (t.cx.reg 0x002) 0 48 = bits (s.cx.reg 0x002) 0 48 ∧
         bits (t.cx.reg 0x002) 48 8 = min (bits (s.cx.reg 0x002) 48 8 + 1) 255)) ∧
     (ea.toNat % n = 0 → outOfRange ea.toNat = false → s.core.sb.length < 32 →
       ∃ t x, exec (.st d a z imm) s = .next t ∧ s.advances t ∧ s.keeps { Frame.none with stores := true } t ∧
         t.core.sb = s.core.sb ++ [x] ∧ t.core.hold = s.core.hold ∧ t.core.sfq = s.core.sfq ∧
         x.ctx = s.k ∧ x.kind = 0 ∧ x.ea = ea ∧ x.size = n ∧ x.data.toNat = (s.g d).toNat % 2 ^ (8 * n) ∧
         (∀ j, j < 256 → x.mask.getLsbD j = decide (j < n)) ∧ x.priv = s.cx.priv ∧ x.pc = s.cx.pc)) ∧
  (∀ (s u : State) (lcn : Nat) (e : SbEntry) (rest : List SbEntry) (frames : Tab Nat),
     (s.coreAt lcn).sb = e :: rest → (s.coreAt lcn).hold = false → (s.coreAt lcn).dbg.halt = false →
     Tab.find? (s.coreAt lcn).mail 11 = none → s.calm = true → s.unjournalled = true → s.fab.migs = [] →
     s.headPlaces lcn e = (.ok frames, u) →
     (u.coreAt lcn).fpHoldsDrain e.seq (e.eas.filterMap (u.spotPA lcn frames)) = false →
     ∃ t, exec (.storeDrain lcn) s = .next t ∧ (t.coreAt lcn).sb = rest ∧
       s.wrote t (e.eas.filterMap fun ea => (u.spotPA lcn frames ea).map fun pa => (pa, e.byteFor ea)) ∧
       ∀ l k r, ((t.coreAt l).ctx k).gr r = ((s.coreAt l).ctx k).gr r)

/-- Atomics performed locally, misaligned, out of range or answered by their home. R90 to R92, R239. R90, R29, R91, R274. -/
def Obligations.Atomics : Prop :=
  (∀ (s b u : State) (d a bb : BitVec 5) (z : BitVec 1) (n pa old x v : Nat) (frames : Tab Nat), b = s.begin →
   n = (if z = 1 then 8 else 4) → (s.g a).toNat % n = 0 → outOfRange (s.g a).toNat = false →
   (∀ o ∈ s.fab.proxies, ¬ (o.lcn = s.lcn ∧ o.k = s.k)) → Tab.find? s.core.mail s.k = none →
   b.locate s.lcn s.k { b.query s.lcn s.k true true false false with peer := true } [(s.g a).toNat] = (.ok frames, u) →
   u.spotPA s.lcn frames (s.g a).toNat = some pa → u.drainsFirst = false → u.isLocal s.lcn pa = true →
   u.core.fpHoldsAccess [pa] = false → s.calm = true → s.unjournalled = true → s.fab.migs = [] →
   old = ofLeBytes ((List.range n).map fun i => s.byteAt (pa + i)) → x = (s.g bb).toNat % 2 ^ (8 * n) →
   v = (s.g d).toNat % 2 ^ (8 * n) →
   ∀ e ∈ ([(.amoadd d a z bb, (old + x) % 2 ^ (8 * n), (old : Int)), (.amoswap d a z bb, x, old),
       (.amocas d a z bb, if old = v then x else old, old),
       (.amominS d a z bb, if sintOf (8 * n) old ≤ sintOf (8 * n) x then old else x, sintOf (8 * n) old),
       (.amominB d a z bb, min old x, old),
       (.amomaxS d a z bb, if sintOf (8 * n) old ≤ sintOf (8 * n) x then x else old, sintOf (8 * n) old),
       (.amomaxB d a z bb, max old x, old)] : List (Instr × Nat × Int)),
     s.ready e.1 = true → ∃ t, exec e.1 s = .next t ∧ s.advances t ∧
       t.g d = (if d = 0 then 0 else BitVec.ofInt 64 e.2.2) ∧ (∀ r, r ≠ d → t.g r = s.g r) ∧
       (∀ i, i < n → (t.byteAt (pa + i)).toNat = e.2.1 / 2 ^ (8 * i) % 256) ∧
       (∀ p, p < pa ∨ pa + n ≤ p → t.byteAt p = s.byteAt p) ∧ t.core.vec = s.core.vec ∧ t.core.sb = s.core.sb) ∧
  (∀ (s : State) (d a bb : BitVec 5) (z : BitVec 1) (n : Nat), n = (if z = 1 then 8 else 4) →
   ∀ e ∈ ([(.amoadd d a z bb, false), (.amoswap d a z bb, false), (.amocas d a z bb, false), (.amominS d a z bb, true),
       (.amominB d a z bb, false), (.amomaxS d a z bb, true), (.amomaxB d a z bb, false)] : List (Instr × Bool)),
     s.ready e.1 = true →
     ((s.g a).toNat % n ≠ 0 → s.mayTrap → ∃ t, exec e.1 s = .next t ∧ s.traps t 0x04 (s.g a) s.replayPc) ∧
     ((s.g a).toNat % n = 0 → outOfRange (s.g a).toNat = true → ∃ t, exec e.1 s = .next t ∧ s.advances t ∧
       t.g d = 0 ∧ s.keeps { Frame.none with g := [d], sr := [0x002] } t) ∧
     (∀ o old, (s.g a).toNat % n = 0 → outOfRange (s.g a).toNat = false →
       s.fab.proxies.find? (fun o => o.lcn == s.lcn && o.k == s.k) = some o → o.st = .answered (some old) →
       ∃ t, exec e.1 s = .next t ∧ s.advances t ∧
         t.g d = (if d = 0 then 0 else if e.2 then BitVec.ofInt 64 (sintOf (8 * n) old.toNat) else old) ∧
         s.keeps { Frame.none with g := [d], fab := true } t ∧ ∀ q ∈ t.fab.proxies, ¬ (q.lcn = s.lcn ∧ q.k = s.k)))

/-- Proxied operations from request to response, and the fences. R274, R411. R93, R255, R263, R267. -/
def Obligations.ProxiedAtomicsAndFences : Prop :=
  (∀ (s : State) (o : ProxyOp), s.fab.proxies.find? (fun x => x.id == o.id) = some o →
     (o.st = .queued → s.proxyHead o = true → ∃ t leg, exec (.proxyRequest o.id) s = .next t ∧
       t.fab.proxies.find? (fun x => x.id == o.id) = some { o with st := .sent, leg := leg } ∧ t.mem = s.mem ∧ t.cores = s.cores) ∧
     (o.st = .sent → s.legAhead o.leg = false → s.proxyAccepted o = false → ∃ t, exec (.proxyHomeOperation o.id) s = .next t ∧
       t.fab.proxies.find? (fun x => x.id == o.id) = some { o with st := .performed none } ∧ t.mem = s.mem ∧ t.cores = s.cores) ∧
     (∀ old, o.st = .sent → s.legAhead o.leg = false → s.proxyAccepted o = true → s.calm = true → s.unjournalled = true → s.fab.migs = [] →
       (o.size = 4 ∨ o.size = 8) → o.operand.toNat < 2 ^ (8 * o.size) →
       old = ofLeBytes ((List.range o.size).map fun i => s.byteAt (o.pa.toNat + i)) →
       ∃ t, exec (.proxyHomeOperation o.id) s = .next t ∧
         t.fab.proxies.find? (fun x => x.id == o.id) = some { o with st := .performed (some (BitVec.ofNat 64 old)) } ∧
         (∀ p, p < o.pa.toNat ∨ o.pa.toNat + o.size ≤ p → t.byteAt p = s.byteAt p) ∧
         (o.op = 0 → ∀ i, i < o.size →
           (t.byteAt (o.pa.toNat + i)).toNat = (old + o.operand.toNat) % 2 ^ (8 * o.size) / 2 ^ (8 * i) % 256)) ∧
     (∀ old, o.st = .performed old → o.k ≠ 11 → ∃ t, exec (.proxyResponse o.id) s = .next t ∧
       t.fab.proxies.find? (fun x => x.id == o.id) = some { o with st := .answered old } ∧ t.mem = s.mem ∧ t.cores = s.cores)) ∧
  (∀ (s b : State) (a : BitVec 5), b = s.begin →
   ∀ e ∈ ([(.fence, b.olderPending || b.drainsFirst), (.fenceR a, b.olderPending || (b.drainsFirst || b.tokensDue false)),
       (.fenceA a, !b.cx.late.isEmpty || b.tokensDue true),
       (.fenceAr a, b.olderPending || (b.drainsFirst || b.tokensDue false) || (!b.cx.late.isEmpty || b.tokensDue true)),
       (.sdrain, b.drainsFirst)] : List (Instr × Bool)),
     s.ready e.1 = true →
     (e.2 = false → ∃ t, exec e.1 s = .next t ∧ s.advances t ∧ s.keeps Frame.none t) ∧
     (e.2 = true → ∃ t, exec e.1 s = .next t ∧ t.cx.pc = s.cx.pc ∧ t.cx.retired = s.cx.retired ∧ t.cx.wait = some .drain ∧
       s.keeps Frame.none t))

/-- Vector integer instructions, counts and division. R37, R164, R170. R36, R171, R170: one source. -/
def Obligations.VectorIntegers : Prop :=
  (∀ (s : State) (d a b : BitVec 6) (m : BitVec 3) (z : BitVec 1) (ty : BitVec 2) (w : Nat) (tag : BitVec 2) (x y : VReg)
     (pf : BitVec 5), w = 8 * 2 ^ ty.toNat → s.served [] [a, b] = true → s.core.sources [] [a, b] = ([x, y], pf) →
   pf &&& s.en = 0 → s.core.tagOf a = tag → s.core.tagOf b = tag → (m = 0 ∨ z = 1 ∨ (s.core.vec.reg d).dom = tag) →
   ∀ e ∈ ([(.vaddInt d a b m z ty, w, fun p q => p + q), (.vsubInt d a b m z ty, w, fun p q => p + 2 ^ w - q)] ++
       (if tag ≠ 0 then [] else
       [(.vmulInt d a b m z ty, w, fun p q => p * q),
       (.vminS d a b m z ty, w, fun p q => if sintOf w p < sintOf w q then p else q),
       (.vminB d a b m z ty, w, fun p q => if p < q then p else q),
       (.vmaxS d a b m z ty, w, fun p q => if sintOf w p < sintOf w q then q else p),
       (.vmaxB d a b m z ty, w, fun p q => if p < q then q else p),
       (.vshl d a b m z ty, w, fun p q => p * 2 ^ (q % w)), (.vshr d a b m z ty, w, fun p q => p / 2 ^ (q % w)),
       (.vsar d a b m z ty, w, fun p q => (sintOf w p / 2 ^ (q % w) % 2 ^ w).toNat),
       (.vand d a b m z, 8, fun p q => p &&& q), (.vor d a b m z, 8, fun p q => p ||| q),
       (.vxor d a b m z, 8, fun p q => p ^^^ q), (.vandn d a b m z, 8, fun p q => p &&& (255 - q))]) :
       List (Instr × Nat × (Nat → Nat → Nat))),
     s.ready e.1 = true → ∃ t r, exec e.1 s = .next t ∧ s.vgives t [a, b] 0 [] [(d, ⟨r, tag⟩)] pf ∧
       s.lanes e.2.1 m z d r fun i => e.2.2 (elem e.2.1 x.data.toNat i) (elem e.2.1 y.data.toNat i)) ∧
  (∀ (s : State) (d a : BitVec 6) (l : BitVec 4) (m : BitVec 3) (z : BitVec 1) (ty : BitVec 2) (w : Nat) (x y : VReg)
     (pf qf : BitVec 5), w = 8 * 2 ^ ty.toNat → s.served [] [a, d] = true →
   s.core.sources [] [a] = ([x], pf) → s.core.sources [] [a, d] = ([x, y], qf) → (pf ||| qf) &&& s.en = 0 →
   (m = 0 ∨ z = 1 ∨ (s.core.vec.reg d).dom = s.core.tagOf a) →
   (s.ready (.vnegInt d a m z ty) = true → ∃ t r, exec (.vnegInt d a m z ty) s = .next t ∧
     s.vgives t [a] 0 [] [(d, ⟨r, s.core.tagOf a⟩)] pf ∧ s.lanes w m z d r fun i => 2 ^ w - elem w x.data.toNat i) ∧
   (s.core.tagOf a = 0 →
     (∀ e ∈ ([(.vabsInt d a m z ty, fun p v => v = (sintOf w p).natAbs),
         (.vclz d a m z ty, fun p v => if p = 0 then v = w else v < w ∧ 2 ^ (w - 1 - v) ≤ p ∧ p < 2 ^ (w - v)),
         (.vffs d a m z ty, fun p v => if p = 0 then v = w else v < w ∧ p.testBit v = true ∧ ∀ i, i < v → p.testBit i = false),
         (.vpop d a m z ty, fun p v => v = (List.range w).countP (p.testBit ·))] : List (Instr × (Nat → Nat → Prop))),
       s.ready e.1 = true → ∃ t r f, exec e.1 s = .next t ∧ s.vgives t [a] 0 [] [(d, ⟨r, 0⟩)] pf ∧ s.lanes w m z d r f ∧
         ∀ i, e.2 (elem w x.data.toNat i) (f i)) ∧
     (s.core.tagOf d = 0 → ∀ e ∈ ([(.vdivS d a l ty m z, true, false), (.vdivB d a l ty m z, false, false),
         (.vremS d a l ty m z, true, true), (.vremB d a l ty m z, false, true)] : List (Instr × Bool × Bool)),
       s.ready e.1 = true → ∃ t r f, exec e.1 s = .next t ∧ s.vgives t [a, d] l.toNat [] [(d, ⟨r, 0⟩)] qf ∧ s.lanes w m z d r f ∧
         ∀ i, ∃ p v : Int, p = (if e.2.1 then sintOf w (elem w y.data.toNat i) else (elem w y.data.toNat i : Int)) ∧
           v = (if e.2.1 then sintOf w (elem w x.data.toNat i) else (elem w x.data.toNat i : Int)) ∧
           ((f i : Int) - (if v = 0 then (if e.2.2 then p else -1) else if e.2.2 then p - Int.tdiv p v * v else Int.tdiv p v)) %
             2 ^ w = 0)))

/-- Vector floating-point instructions: elements, flags, tag and frame. R106, R108, R172, R174. -/
def Obligations.VectorFloats : Prop :=
  ∀ (s : State) (d a b : BitVec 6) (l : BitVec 4) (m : BitVec 3) (z : BitVec 1) (ty tag : BitVec 2) (f : Fmt)
    (v : List (BitVec 6) → Nat → Nat → Nat), s.en = 0 → f = fmtOfTf ty → (m = 0 ∨ z = 1 ∨ (s.core.vec.reg d).dom = tag) →
  (∀ fs n i, v fs n i = elem f.width (src (s.core.sources [] fs).1 n) i) →
  ∀ e ∈ ([(.vaddF d a b m z ty, [a, b], 0, fun i => fAdd f s.rm (v [a, b] 0 i) (v [a, b] 1 i)),
      (.vsubF d a b m z ty, [a, b], 0, fun i => fSub f s.rm (v [a, b] 0 i) (v [a, b] 1 i)),
      (.vnegF d a m z ty, [a], 0, fun i => (fFlip f (v [a] 0 i), 0))] ++
    (if tag ≠ 0 then [] else
      [(.vmulF d a b m z ty, [a, b], 0, fun i => fMul f s.rm (v [a, b] 0 i) (v [a, b] 1 i)),
      (.vfma d a b m z ty, [a, b, d], 0, fun i => fFma f s.rm (v [a, b, d] 0 i) (v [a, b, d] 1 i) (v [a, b, d] 2 i)),
      (.vminF d a b m z ty, [a, b], 0, fun i => fMinMax f false (v [a, b] 0 i) (v [a, b] 1 i)),
      (.vmaxF d a b m z ty, [a, b], 0, fun i => fMinMax f true (v [a, b] 0 i) (v [a, b] 1 i)),
      (.vabsF d a m z ty, [a], 0, fun i => (v [a] 0 i % 2 ^ (f.width - 1), 0)),
      (.vexp2 d a l ty m z, [a], l.toNat, fun i => Elem.apply f s.rm 0 (v [a] 0 i)),
      (.vlog2 d a l ty m z, [a], l.toNat, fun i => Elem.apply f s.rm 1 (v [a] 0 i)),
      (.vrcp d a l ty m z, [a], l.toNat, fun i => Elem.apply f s.rm 2 (v [a] 0 i)),
      (.vrsq d a l ty m z, [a], l.toNat, fun i => Elem.apply f s.rm 3 (v [a] 0 i)),
      (.vtanh d a l ty m z, [a], l.toNat, fun i => Elem.apply f s.rm 4 (v [a] 0 i)),
      (.vgelu d a l ty m z, [a], l.toNat, fun i => Elem.apply f s.rm 5 (v [a] 0 i))]) :
      List (Instr × List (BitVec 6) × Nat × (Nat → FRes))),
    s.ready e.1 = true → s.served [] e.2.1 = true → (∀ q ∈ e.2.1, s.core.tagOf q = tag) →
    ∃ t r fl, exec e.1 s = .next t ∧
      s.vgives t e.2.1 e.2.2.1 [] [(d, ⟨r, tag⟩)] ((s.core.sources [] e.2.1).2 ||| fl) ∧
      s.lanes f.width m z d r (fun i => (e.2.2.2 i).1) ∧ s.raisedBy f.width m fl e.2.2.2

/-- VCMP, VSEL, VCVT, VPACK, VUNPACK, and what Round, RoundInt and TBQuant give. R61, R108, R173. R49, R175, R176. R106: Round
and RoundInt; R107, R108: the exact value that an element operation rounds. R103: TBQuant on finite values. -/
def Obligations.VectorComparesAndConversions : Prop :=
  (∀ (s : State) (c p : BitVec 3) (d a b : BitVec 6) (m : BitVec 3) (z : BitVec 1) (ty : BitVec 2) (x y : VReg) (pf : BitVec 5),
   s.en = 0 → s.served [] [a, b] = true → s.core.sources [] [a, b] = ([x, y], pf) → s.core.tagOf a = 0 → s.core.tagOf b = 0 →
   (∀ e ∈ ([(.vcmpS c p a b m z ty, 8 * 2 ^ ty.toNat, fun u v =>
           let i := sintOf (8 * 2 ^ ty.toNat) u
           let j := sintOf (8 * 2 ^ ty.toNat) v
           (decide ((c = 0 ∧ i = j) ∨ (c = 1 ∧ i ≠ j) ∨ (c = 2 ∧ i < j) ∨ (c = 3 ∧ i ≤ j) ∨ (c = 4 ∧ i > j) ∨ (c = 5 ∧ i ≥ j)), 0)),
         (.vcmpB c p a b m z ty, 8 * 2 ^ ty.toNat, fun i j =>
           (decide ((c = 0 ∧ i = j) ∨ (c = 1 ∧ i ≠ j) ∨ (c = 2 ∧ i < j) ∨ (c = 3 ∧ i ≤ j) ∨ (c = 4 ∧ i > j) ∨ (c = 5 ∧ i ≥ j)), 0)),
         (.vcmpF c p a b m z ty, (fmtOfTf ty).width, fun u v => fCmp (fmtOfTf ty) c.toNat u v)] :
         List (Instr × Nat × (Nat → Nat → Bool × BitVec 5))),
     s.ready e.1 = true → ∃ t r fl, exec e.1 s = .next t ∧
       s.vmoves t [a, b] [] { s.core.vec with m := Tab.set 0 s.core.vec.m p.toNat r } (pf ||| fl) ∧
       (∀ j, j < 256 → r.getLsbD j =
         if active (s.core.vec.pred m) e.2.1 (j / (e.2.1 / 8)) then
           (e.2.2 (elem e.2.1 x.data.toNat (j / (e.2.1 / 8))) (elem e.2.1 y.data.toNat (j / (e.2.1 / 8)))).1
         else if z = 1 then false else (s.core.vec.pred p).getLsbD j) ∧
       s.raisedBy e.2.1 m fl fun i =>
         (0, (e.2.2 (elem e.2.1 x.data.toNat i) (elem e.2.1 y.data.toNat i)).2)) ∧
   (s.ready (.vsel d a b m) = true → ∃ t r, exec (.vsel d a b m) s = .next t ∧ s.vgives t [a, b] 0 [] [(d, ⟨r, 0⟩)] pf ∧
     ∀ i, i < 256 → elem 8 r.toNat i = elem 8 (if (s.core.vec.pred m).getLsbD i then x else y).data.toNat i)) ∧
  (∀ (s : State) (d a : BitVec 6) (e : BitVec 4) (c u : BitVec 2) (m : BitVec 3) (z : BitVec 1) (x : VReg) (pf : BitVec 5)
     (sat : Bool), s.en = 0 → s.served [] [a] = true → s.core.sources [] [a] = ([x], pf) →
   sat = (match s.cx.hint.mod with | some p => decide (s.cx.hint.next = s.cx.pc) && p.getLsbD 1 | none => false) →
   (∀ (from' into : CvtTy) (tag : BitVec 2), into = cvtTy e.toNat → from' = cvtTy (4 * c.toNat + u.toNat) →
     tag = (if into.isFloat && from'.isFloat then s.core.tagOf a else 0) →
     (into.isFloat = true ∧ from'.isFloat = true ∨ s.core.tagOf a = 0) → (m = 0 ∨ z = 1 ∨ (s.core.vec.reg d).dom = tag) →
     s.ready (.vcvt d a e c m z u) = true → ∃ t r fl, exec (.vcvt d a e c m z u) s = .next t ∧
       s.vgives t [a] 0 [] [(d, ⟨r, tag⟩)] (pf ||| fl) ∧
       (∀ i, i < 2048 / max from'.width into.width → elem into.width r.toNat i =
         if active (s.core.vec.pred m) into.width i then
           (convert from' into s.rm sat (elem from'.width x.data.toNat i)).1 % 2 ^ into.width
         else if z = 1 then 0 else elem into.width (s.core.vec.reg d).data.toNat i) ∧
       (∀ i, 2048 / max from'.width into.width ≤ i → i < 2048 / into.width → elem into.width r.toNat i = 0) ∧
       ∀ j, fl.getLsbD j = true ↔ ∃ i, i < 2048 / max from'.width into.width ∧ active (s.core.vec.pred m) into.width i = true ∧
         (convert from' into s.rm sat (elem from'.width x.data.toNat i)).2.getLsbD j = true) ∧
   (s.ready (.vpack d a c) = true → ∃ t r fl, exec (.vpack d a c) s = .next t ∧
     s.vgives t [a] 0 [] [(d, ⟨r, s.core.tagOf a⟩)] (pf ||| fl) ∧ r.toNat < 2 ^ (32 * tbBytes c.toNat) ∧
     fl = flagsOf ((List.range 4).map fun k => tbQuant c.toNat ((List.range 16).map fun i => elem 32 x.data.toNat (16 * k + i))) ∧
     ∀ k, k < 4 → elem (8 * tbBytes c.toNat) r.toNat k =
       (tbQuant c.toNat ((List.range 16).map fun i => elem 32 x.data.toNat (16 * k + i))).1 % 2 ^ (8 * tbBytes c.toNat)) ∧
   (s.ready (.vunpack d a c) = true → ∃ t r, exec (.vunpack d a c) s = .next t ∧
     s.vgives t [a] 0 [] [(d, ⟨r, s.core.tagOf a⟩)] pf ∧
     ∀ i, i < 64 → elem 32 r.toNat i =
       tbDecode c.toNat (elem (8 * tbBytes c.toNat) x.data.toNat (i / 16)) (i % 16) % 2 ^ 32)) ∧
  ((∀ f ∈ [fp32, fp16, bf16], ∀ (mode : BitVec 2) (z : Bool) (d : Dyadic') (x : ℚ) (r : FRes), x = dyValue d → r = roundDy f mode z d →
     (x = 0 → r = (f.signed z 0, 0)) ∧
     ∀ (e emin q : ℤ) (n m : ℕ) (y top : ℚ), (2 : ℚ) ^ e ≤ |x| → |x| < (2 : ℚ) ^ (e + 1) → emin = 1 - f.bias → q = max e emin →
       roundsTo mode x ((2 : ℚ) ^ (q - f.p + 1)) n → roundsTo mode x ((2 : ℚ) ^ (e - f.p + 1)) m →
       y = (if x < 0 then -(n * (2 : ℚ) ^ (q - f.p + 1)) else n * (2 : ℚ) ^ (q - f.p + 1)) →
       top = (2 - (2 : ℚ) ^ (1 - (f.p : ℤ))) * (2 : ℚ) ^ (f.bias : ℤ) →
       (top < |y| → r.2 = fOF ||| fNX ∧ r.1 = f.signed (decide (x < 0))
         (if mode = 0 ∨ (mode = 2 ∧ 0 < x) ∨ (mode = 3 ∧ x < 0) then f.infBits else f.maxBits)) ∧
       (|y| ≤ top → f.finite r.1 = true ∧ f.value r.1 = y ∧ f.neg r.1 = decide (x < 0) ∧ r.1 < 2 ^ f.width ∧
         r.2 = (if y = x then 0 else if m * (2 : ℚ) ^ (e - f.p + 1) < (2 : ℚ) ^ emin then fNX ||| fUF else fNX))) ∧
   (∀ f ∈ [fp32, fp16, bf16], ∀ (x : Nat) (lo hi : ℤ) (mode : BitVec 2),
     (f.isNaN x = true → roundInt f x lo hi mode = (0, fNV)) ∧
     (f.isInf x = true → roundInt f x lo hi mode = (if f.neg x = true then lo else hi, fNV)) ∧
     ∀ (k : ℕ) (n : ℤ), f.finite x = true → roundsTo mode (f.value x) 1 k → n = (if f.value x < 0 then -(k : ℤ) else k) →
       roundInt f x lo hi mode = if n < lo then (lo, fNV) else if hi < n then (hi, fNV)
         else (n, if (n : ℚ) = f.value x then 0 else fNX)) ∧
   ∀ f ∈ [fp32, fp16, bf16], ∀ (mode : BitVec 2) (a b c : Nat), f.finite a = true → f.finite b = true → f.finite c = true →
     (∃ d, dyValue d = f.value a + f.value b ∧ fAdd f mode a b = roundDy f mode
       (if f.value a = 0 ∧ f.value b = 0 ∧ f.neg a = f.neg b then f.neg a else mode == 3) d) ∧
     (∃ d, dyValue d = f.value a * f.value b ∧ fMul f mode a b = roundDy f mode (f.neg a != f.neg b) d) ∧
     (∃ d, dyValue d = f.value c + f.value a * f.value b ∧ fFma f mode a b c = roundDy f mode
       (if f.value c = 0 ∧ f.value a * f.value b = 0 ∧ f.neg c = (f.neg a != f.neg b) then f.neg c else mode == 3) d) ∧
     (∀ g ∈ [fp32, fp16, bf16], f ≠ g → ∃ d, dyValue d = f.value a ∧ fConv f g mode false a = roundDy g mode (f.neg a) d) ∧
     ∀ n : ℤ, ∃ d, dyValue d = n ∧ intToF f mode n = roundDy f mode false d) ∧
  (∀ (fmt : Nat) (xs : List Nat) (q : FRes) (M top e : ℕ) (unit : ℕ → ℕ → ℚ), fmt < 3 → xs.length = 16 →
     (∀ x ∈ xs, fp32.finite x = true) → q = tbQuant fmt xs → M = tbM fmt → top = 2 ^ M - 1 → e = q.1 % 256 →
     unit = (fun (a mu : ℕ) => (2 : ℚ) ^ ((a : ℤ) - 127 - (mu : ℤ) - ((M : ℤ) - 1))) →
     e ≤ 254 ∧ q.1 < 2 ^ (8 * tbBytes fmt) ∧
     (e < 254 → ∀ x ∈ xs, ∀ n, roundsTo 0 |fp32.value x| (unit e 0) n → n ≤ top) ∧
     (∀ a, a < e → ∃ x ∈ xs, ∀ n, roundsTo 0 |fp32.value x| (unit a 0) n → top < n) ∧
     (∀ i x mu n, i < 16 → xs[i]? = some x → mu = q.1 / 2 ^ (8 + i / 2) % 2 → roundsTo 0 |fp32.value x| (unit e mu) n →
       q.1 / 2 ^ (16 + (M + 1) * i) % 2 ^ M = min n top ∧
       (q.1 / 2 ^ (16 + (M + 1) * i + M) % 2 = 1 ↔ fp32.neg x = true)) ∧
     (∀ j, j < 8 → (q.1 / 2 ^ (8 + j) % 2 = 1 ↔ ∀ x, (xs[2 * j]? = some x ∨ xs[2 * j + 1]? = some x) →
       ∀ n, roundsTo 0 |fp32.value x| (unit e 1) n → n ≤ top)) ∧
     ∀ (big inex small : Prop),
       (big ↔ ∃ i x n, i < 16 ∧ xs[i]? = some x ∧ roundsTo 0 |fp32.value x| (unit e (q.1 / 2 ^ (8 + i / 2) % 2)) n ∧ top < n) →
       (inex ↔ ∃ i x n, i < 16 ∧ xs[i]? = some x ∧ roundsTo 0 |fp32.value x| (unit e (q.1 / 2 ^ (8 + i / 2) % 2)) n ∧
         n * unit e (q.1 / 2 ^ (8 + i / 2) % 2) ≠ |fp32.value x|) →
       (small ↔ ∃ i x, i < 16 ∧ xs[i]? = some x ∧ fp32.value x ≠ 0 ∧
         roundsTo 0 |fp32.value x| (unit e (q.1 / 2 ^ (8 + i / 2) % 2)) 0) →
       ∀ j, q.2.getLsbD j = true ↔ (j = 2 ∧ big) ∨ (j = 0 ∧ (big ∨ inex)) ∨ (j = 1 ∧ small))

/-- VDOT, VRED, VSCA, the Haar instructions, and what ExactSum gives. R111, R112, R177, R178, R184. R182, R183. R111: ExactSum;
R113: the chunks of a product, one after the other. -/
def Obligations.VectorSumsAndHaar : Prop :=
  ((∀ (s : State) (d a b : BitVec 6) (m : BitVec 3) (z : BitVec 1) (ty : BitVec 2) (tag : BitVec 2)
     (x y u : VReg) (pf : BitVec 5), s.en = 0 → s.served [] [a, b, d] = true →
   s.core.sources [] [a, b, d] = ([x, y, u], pf) →
   s.core.tagOf a = tag → s.core.tagOf b = 0 → s.core.tagOf d = tag →
   (m = 0 ∨ z = 1 ∨ (s.core.vec.reg d).dom = tag) →
   (tag = 0 → s.ready (.vdot d a b m z ty) = true → ∃ t r fl, exec (.vdot d a b m z ty) s = .next t ∧
     s.vgives t [a, b, d] 0 [] [(d, ⟨r, 0⟩)] (pf ||| fl) ∧
     s.lanes 32 m z d r (fun i => (dotLane ty.toNat s.rm x.data.toNat y.data.toNat (elem 32 u.data.toNat i) i).1) ∧
     s.raisedBy 32 m fl (fun i => dotLane ty.toNat s.rm x.data.toNat y.data.toNat (elem 32 u.data.toNat i) i) ∧
     (ty = 2 → s.lanes 32 m z d r fun i =>
       (((elem 32 u.data.toNat i : Int) + (sintOf 8 (elem 8 x.data.toNat (4 * i)) * sintOf 8 (elem 8 y.data.toNat (4 * i)) +
         sintOf 8 (elem 8 x.data.toNat (4 * i + 1)) * sintOf 8 (elem 8 y.data.toNat (4 * i + 1)) +
         sintOf 8 (elem 8 x.data.toNat (4 * i + 2)) * sintOf 8 (elem 8 y.data.toNat (4 * i + 2)) +
         sintOf 8 (elem 8 x.data.toNat (4 * i + 3)) * sintOf 8 (elem 8 y.data.toNat (4 * i + 3)))) % 2 ^ 32).toNat)) ∧
   (z = 0 → s.ready (.vsca d a b m) = true → ∃ t r fl, exec (.vsca d a b m) s = .next t ∧
     s.vgives t [a, b, d] 0 [] [(d, ⟨r, tag⟩)] (pf ||| fl) ∧
     s.lanes 32 m 0 d r (fun i => (fFma fp32 s.rm (elem 32 x.data.toNat i)
       (elem 32 y.data.toNat (if tag.getLsbD 1 then 0 else i)) (elem 32 u.data.toNat i)).1) ∧
     s.raisedBy 32 m fl fun i => fFma fp32 s.rm (elem 32 x.data.toNat i)
       (elem 32 y.data.toNat (if tag.getLsbD 1 then 0 else i)) (elem 32 u.data.toNat i))) ∧
   ∀ (s : State) (d a : BitVec 6) (m : BitVec 3) (ty : BitVec 2) (o : BitVec 3) (x : VReg) (qf : BitVec 5), s.en = 0 →
     s.served [] [a] = true → s.core.sources [] [a] = ([x], qf) → s.core.tagOf a = 0 → s.ready (.vred d a o ty m) = true →
     ∃ t r fl, exec (.vred d a o ty m) s = .next t ∧ s.vgives t [a] 0 [] [(d, ⟨r, 0⟩)] (qf ||| fl) ∧
     ∀ w xs, w = (if reducesFloat o.toNat then (fmtOfTf ty).width else 8 * 2 ^ ty.toNat) →
       xs = (((List.range (2048 / w)).filter (active (s.core.vec.pred m) w)).map (elem w x.data.toNat)) →
       r.toNat = (reduce o.toNat ty s.rm xs).1 % 2 ^ w ∧ fl = (reduce o.toNat ty s.rm xs).2 ∧ (o = 0 → r.toNat = xs.sum % 2 ^ w) ∧
       (o = 5 → ∀ p ∈ xs, p ≤ r.toNat) ∧ (o = 3 → ∀ p ∈ xs, r.toNat ≤ p)) ∧
  (∀ (s : State) (d a b : BitVec 6) (m n : BitVec 3) (x y x1 : VReg) (pf qf : BitVec 5), s.en = 0 →
   s.served [] [a, b] = true → s.core.sources [] [a, b] = ([x, y], pf) → s.core.sources [] [a] = ([x1], qf) →
   (∀ e ∈ ([(.vhaarF d a b m, true, (s.core.tagOf a ||| s.core.tagOf b) ||| 1),
       (.vhaarI d a b m, false, (s.core.tagOf a ||| s.core.tagOf b) &&& 2)] : List (Instr × Bool × BitVec 2)),
     s.ready e.1 = true → (m = 0 ∨ (s.core.vec.reg d).dom = e.2.2 ∧ (s.core.vec.reg (d + 1)).dom = e.2.2) →
     ∃ t r1 r2 fl, exec e.1 s = .next t ∧
       s.vgives t [a, b] 0 [] [(d, ⟨r1, e.2.2⟩), (d + 1, ⟨r2, e.2.2⟩)] (pf ||| fl) ∧
       s.lanes 32 m 0 d r1 (fun i => (haarEach fp32 s.rm e.2.1 (elem 32 x.data.toNat i) (elem 32 y.data.toNat i)).1.1) ∧
       (s.lanes 32 m 0 (d + 1) r2 fun i => (haarEach fp32 s.rm e.2.1 (elem 32 x.data.toNat i) (elem 32 y.data.toNat i)).2.1) ∧
       s.raisedBy 32 m fl fun i => (0, (haarEach fp32 s.rm e.2.1 (elem 32 x.data.toNat i) (elem 32 y.data.toNat i)).1.2 |||
         (haarEach fp32 s.rm e.2.1 (elem 32 x.data.toNat i) (elem 32 y.data.toNat i)).2.2)) ∧
   (∀ e ∈ ([(.vhaarFL d a n, haarDown, s.core.tagOf a ||| 2),
       (.vhaarIL d a n, haarUp, if n = 1 then s.core.tagOf a &&& 1 else s.core.tagOf a)] :
       List (Instr × (BitVec 2 → Nat → List FRes → List FRes) × BitVec 2)),
     s.ready e.1 = true → ∃ t r fl, exec e.1 s = .next t ∧ s.vgives t [a] 0 [] [(d, ⟨r, e.2.2⟩)] (qf ||| fl) ∧
       fl = flagsOf (e.2.1 s.rm n.toNat ((List.range 64).map fun j => (elem 32 x1.data.toNat j, 0))) ∧
       ∀ i, i < 64 → elem 32 r.toNat i =
         (nth (0, 0) (e.2.1 s.rm n.toNat ((List.range 64).map fun j => (elem 32 x1.data.toNat j, 0))) i).1 % 2 ^ 32)) ∧
  ((∀ (f : Fmt) (mode : BitVec 2) (acc : Nat) (ps : List Prod') (prov : Option Nat) (r : FRes) (bad both nan : Prop),
     r = exactSum f mode acc ps prov → (bad ↔ ∃ p ∈ ps, p.bad = true) → (nan ↔ f.isNaN acc = true ∨ ∃ p ∈ ps, p.hasNaN = true) →
     (both ↔ ∀ n, (f.isInf acc = true ∧ f.neg acc = n) ∨ ∃ p ∈ ps, p.isInf = true ∧ p.neg = n) →
     (f.finite acc = true → (∀ p ∈ ps, ∀ x ∈ p.factors, x.1.finite x.2 = true) →
       ((∀ p ∈ ps, p.isZero = true) → r = (acc, 0)) ∧
       ((∃ p ∈ ps, p.isZero = false) → ∃ d, r = roundDy f mode (mode == 3) d ∧
         dyValue d = f.value acc + (ps.map fun p => (p.factors.map fun x => x.1.value x.2).prod).sum)) ∧
     (prov = none → nan ∨ bad ∨ both → r.1 = nanPick f (acc :: ps.flatMap fun p => p.operands f) ∧ (r.2 = 0 ∨ r.2 = fNV) ∧
       (r.2 = fNV ↔ f.isSNaN acc = true ∨ (∃ p ∈ ps, p.hasSNaN = true) ∨ bad ∨ both)) ∧
     (∀ n, ¬ (nan ∨ bad ∨ both) → (f.isInf acc = true ∧ f.neg acc = n) ∨ (∃ p ∈ ps, p.isInf = true ∧ p.neg = n) →
       r = (f.signed n f.infBits, 0)) ∧
     ∀ v, prov = some v → f.isNaN acc = true → ¬ (∀ n, ∃ p ∈ ps, p.isInf = true ∧ p.neg = n) → ¬ bad →
       (∀ p ∈ ps, p.hasNaN = false) → r = (acc, 0)) ∧
   ∀ (mode : BitVec 2) (lcn kc c : Nat) (acc r : FRes) (x y : List Nat) (xs ys : List (List Nat)),
     r = exactSum fp32 mode acc.1 (List.zipWith (fun a b => ⟨[(fp32, a), (fp32, b)]⟩) x y)
       (some (lcn % 4096 * 1024 + min (kc + c) 1023)) →
     chunkLoop mode lcn kc c acc (x :: xs) (y :: ys) = chunkLoop mode lcn kc (c + 1) (r.1, acc.2 ||| r.2) xs ys ∧
     chunkLoop mode lcn kc c acc [] ys = acc ∧ chunkLoop mode lcn kc c acc xs [] = acc)

/-- VPERM, VBCAST, VEXT, VMATCH, VTAG, VWHILE and VLQ. R166, R179, R180, R181, R185. -/
def Obligations.VectorMoves : Prop :=
  ∀ (s : State) (d a b : BitVec 6) (m : BitVec 3) (ty c : BitVec 2) (w : Nat) (x y x1 : VReg) (pf qf : BitVec 5),
  w = 8 * 2 ^ ty.toNat → s.served [] [a, b] = true → s.core.sources [] [a, b] = ([x, y], pf) →
  s.core.sources [] [a] = ([x1], qf) → pf &&& s.en = 0 → qf &&& s.en = 0 →
  (s.core.tagOf b = 0 → (m = 0 ∨ (s.core.vec.reg d).dom = s.core.tagOf a) → s.ready (.vperm d a b m ty) = true →
    ∃ t r, exec (.vperm d a b m ty) s = .next t ∧ s.vgives t [a, b] 0 [] [(d, ⟨r, s.core.tagOf a⟩)] pf ∧
      s.lanes w m 0 d r fun i => elem w x.data.toNat (elem w y.data.toNat i % (2048 / w))) ∧
  ((m = 0 ∨ (s.core.vec.reg d).dom = 0) → s.ready (.vbcast d a ty m) = true →
    ∃ t r, exec (.vbcast d a ty m) s = .next t ∧ s.vgives t [] 0 [] [(d, ⟨r, 0⟩)] 0 ∧
      s.lanes w m 0 d r fun _ => (s.g (a.setWidth 5)).toNat) ∧
  (s.ready (.vext d a ty) = true → ∃ t, exec (.vext d a ty) s = .next t ∧
    s.vmoves t [a] [(d.setWidth 5, BitVec.ofNat 64 (elem w x1.data.toNat 0))] s.core.vec qf) ∧
  (∀ e ∈ ([(.vmatchB32 d a m, 32), (.vmatchB64 d a m, 64)] : List (Instr × Nat)), s.core.tagOf a = 0 → s.ready e.1 = true →
    ∃ t r, exec e.1 s = .next t ∧ s.vgives t [a] 0 [] [(d, ⟨r, 0⟩)] qf ∧
      ∀ i j, i < 2048 / e.2 → j < e.2 → (elem e.2 r.toNat i).testBit j = decide (j < 32 ∧
        active (s.core.vec.pred m) e.2 i = true ∧ active (s.core.vec.pred m) e.2 (i / 32 * 32 + j) = true ∧
        elem e.2 x1.data.toNat (i / 32 * 32 + j) = elem e.2 x1.data.toNat i)) ∧
  (s.ready (.vtag d a c) = true → ∃ t, exec (.vtag d a c) s = .next t ∧ s.vgives t [a] 0 [] [(d, ⟨x1.data, c⟩)] qf) ∧
  (s.ready (.vwhile m a b ty) = true → ∃ t r, exec (.vwhile m a b ty) s = .next t ∧
    s.vmoves t [] [] { s.core.vec with m := Tab.set 0 s.core.vec.m m.toNat r } 0 ∧
    ∀ j, j < 256 → r.getLsbD j =
      decide ((s.g (a.setWidth 5)).toInt + (j / 2 ^ ty.toNat : Nat) < (s.g (b.setWidth 5)).toInt)) ∧
  (s.ready (.vlq d) = true → ∃ t, exec (.vlq d) s = .next t ∧ s.gives t (d.setWidth 5) 256)

/-- Vector loads, stores and scatters, and the traps of vector instructions. R16, R29, R87, R167 to R169. R29, R87, R167 to R169,
R253. R30, R109, R164, R165, R293. -/
def Obligations.VectorMemory : Prop :=
  (∀ (s : State) (d a b : BitVec 6) (m : BitVec 3) (z : BitVec 1) (l4 : BitVec 4) (wc l2 : BitVec 2) (w : Nat) (x : VReg)
     (pf : BitVec 5), w = 8 * 2 ^ wc.toNat → s.core.sources [] [b] = ([x], pf) →
   (m = 0 ∨ z = 1 ∨ (s.core.vec.reg d).dom = 0) →
   (∀ ea : Word, ea = s.g (a.setWidth 5) + b.signExtend 64 * 256 → ea.toNat % 64 ≠ 0 → s.mayTrap →
     s.ready (.vld d a b m z l4) = true → ∃ t, exec (.vld d a b m z l4) s = .next t ∧ s.traps t 0x04 ea s.replayPc) ∧
   ∀ e ∈ ([(.vld d a b m z l4, [], 8, l4.toNat, true, fun i => s.g (a.setWidth 5) + b.signExtend 64 * 256 + BitVec.ofNat 64 i),
       (.vlds d a b m z wc l2, [], w, l2.toNat, false, fun i => s.g (a.setWidth 5) + BitVec.ofNat 64 i * s.g (b.setWidth 5)),
       (.vgath d a b m z wc l2, [b], w, l2.toNat, false,
         fun i => s.g (a.setWidth 5) + BitVec.ofInt 64 (sintOf w (elem w x.data.toNat i) * (w / 8 : Nat)))] :
       List (Instr × List (BitVec 6) × Nat × Nat × Bool × (Nat → Word))),
     s.ready e.1 = true → s.served [] e.2.1 = true → (∀ q ∈ e.2.1, s.core.tagOf q = 0) → (e.2.1 = [] ∨ pf &&& s.en = 0) →
     (e.2.2.2.2.1 = true → (e.2.2.2.2.2 0).toNat % 64 = 0) →
     ∀ lanes bytes frames u, lanes = (List.range (2048 / e.2.2.1)).filter (active (s.core.vec.pred m) e.2.2.1) →
     bytes = lanes.flatMap (fun i => byteEAs (e.2.2.2.2.2 i) (e.2.2.1 / 8)) →
     (∀ i ∈ lanes, (e.2.2.2.2.2 i).toNat % (e.2.2.1 / 8) = 0) → s.calm = true → Tab.find? s.core.mail s.k = none →
     s.begin.locate s.lcn s.k (s.begin.query s.lcn s.k true false false true) bytes = (.ok frames, u) →
     u.loadHeld s.lcn s.k frames bytes = false →
     u.core.fpHoldsAccess (bytes.filterMap (u.spotPA s.lcn frames)) = false →
     ∃ t r, exec e.1 s = .next t ∧ s.advances t ∧ t.towers = u.towers ∧
       s.keeps { Frame.none with sr := [0x001, 0x002], vec := true, streams := true, traps := true, mmu := true, towers := true } t ∧
       (s.lanes e.2.2.1 m z d r fun i =>
         ofLeBytes ((byteEAs (e.2.2.2.2.2 i) (e.2.2.1 / 8)).map (s.loadByte s.lcn s.k frames))) ∧
       t.core.streams = (s.pops e.2.1).core.streams ∧
       (e.2.1 = [] → t.cx.reg 0x002 = (s.cx.recordOors false
         (if e.2.2.2.2.1 then [bytes] else lanes.map fun i => byteEAs (e.2.2.2.2.2 i) (e.2.2.1 / 8))).reg 0x002) ∧
       (if s.promptly e.2.2.2.1 = true then t.core.vec = s.core.vec.put d ⟨r, 0⟩
       else t.core.vec = s.core.vec ∧ ∃ p ∈ t.cx.late, p.left = e.2.2.2.1 ∧ p.vdest = [(d, ⟨r, 0⟩)])) ∧
  (∀ (s : State) (d a b : BitVec 6) (m : BitVec 3) (wc : BitVec 2) (w : Nat) (x y : VReg) (pf qf : BitVec 5),
   w = 8 * 2 ^ wc.toNat → s.core.sources [] [d] = ([x], pf) → s.core.sources [] [b, d] = ([y, x], qf) →
   (pf ||| qf) &&& s.en = 0 →
   (∀ (ea : Word) (act live : List Nat), ea = s.g (a.setWidth 5) + b.signExtend 64 * 256 →
     act = (List.range 256).filter (fun j => (s.core.vec.pred m).getLsbD j) →
     live = act.filter (fun j => !outOfRange ((ea.toNat + j) % 2 ^ 64)) → s.served [] [d] = true →
     s.ready (.vst d a b m) = true →
     (ea.toNat % 64 ≠ 0 → s.mayTrap → ∃ t, exec (.vst d a b m) s = .next t ∧ s.traps t 0x04 ea s.replayPc) ∧
     (ea.toNat % 64 = 0 → (live = [] ∨ s.core.sb.length < 32) → ∃ t es, exec (.vst d a b m) s = .next t ∧ s.advances t ∧
       s.keeps { Frame.none with sr := [0x001, 0x002], stores := true, streams := true, traps := true } t ∧
       t.core.sb = s.core.sb ++ es ∧ t.core.hold = s.core.hold ∧ t.core.sfq = s.core.sfq ∧
       t.core.streams = (s.pops [d]).core.streams ∧ (live = act → t.cx.reg 0x002 = (s.pops [d]).cx.reg 0x002) ∧
       (live = [] → es = []) ∧
       (live ≠ [] → ∃ p, es = [p] ∧ p.ctx = s.k ∧ p.kind = 1 ∧ p.ea = ea ∧ p.size = 256 ∧ p.data = x.data ∧
         p.priv = s.cx.priv ∧ p.pc = s.cx.pc ∧ ∀ j, p.mask.getLsbD j = decide (j ∈ live)))) ∧
   (∀ (addr : Nat → Word) (act live : List Nat),
     (∀ i, addr i = s.g (a.setWidth 5) + BitVec.ofInt 64 (sintOf w (elem w y.data.toNat i) * (w / 8 : Nat))) →
     act = (List.range (2048 / w)).filter (active (s.core.vec.pred m) w) →
     live = act.filter (fun i => !outOfRange (addr i).toNat) → s.served [] [b, d] = true → s.core.tagOf b = 0 →
     (∀ i ∈ act, (addr i).toNat % (w / 8) = 0) → s.cx.appended = 0 → s.core.sb.length + live.length ≤ 32 →
     s.ready (.vscat d a b m wc) = true → ∃ t es, exec (.vscat d a b m wc) s = .next t ∧ s.advances t ∧
       s.keeps { Frame.none with sr := [0x001, 0x002], stores := true, streams := true, traps := true } t ∧
       t.core.sb = s.core.sb ++ es ∧ t.core.hold = s.core.hold ∧ t.core.sfq = s.core.sfq ∧
       t.core.streams = (s.pops [b, d]).core.streams ∧
       es.map (fun p => (p.ctx, p.kind, p.ea, p.size, p.data.toNat, p.mask.toNat)) =
         live.map fun i => (s.k, 2, addr i, w / 8, elem w x.data.toNat i, 2 ^ (w / 8) - 1))) ∧
  (∀ (s : State) (d a b : BitVec 6) (m : BitVec 3) (z : BitVec 1) (ty : BitVec 2) (info : Nat → Instr → Word),
   s.mayTrap →
   (∀ n i, info n i = BitVec.ofNat 64 (n * 2 ^ 38 + (s.core.vec.reg d).dom.toNat * 2 ^ 36 + (s.core.tagOf b).toNat * 2 ^ 34 +
     (s.core.tagOf a).toNat * 2 ^ 32 + (encode i).toNat)) →
   (∀ e ∈ ([(.vaddInt d a b m z ty, true), (.vsubInt d a b m z ty, true), (.vaddF d a b m z ty, true), (.vsubF d a b m z ty, true),
       (.vmulInt d a b m z ty, false), (.vmulF d a b m z ty, false), (.vminS d a b m z ty, false), (.vminB d a b m z ty, false),
       (.vmaxS d a b m z ty, false), (.vmaxB d a b m z ty, false), (.vminF d a b m z ty, false), (.vmaxF d a b m z ty, false),
       (.vshl d a b m z ty, false), (.vshr d a b m z ty, false), (.vsar d a b m z ty, false), (.vand d a b m z, false),
       (.vor d a b m z, false), (.vxor d a b m z, false), (.vandn d a b m z, false)] : List (Instr × Bool)),
     s.ready e.1 = true →
     (s.core.unbound [a, b] = true → ∃ t, exec e.1 s = .next t ∧ s.traps t 0x01 ((encode e.1).setWidth 64) s.replayPc) ∧
     (s.core.unbound [a, b] = false → e.2 = true → s.core.tagOf a ≠ s.core.tagOf b →
       ∃ t, exec e.1 s = .next t ∧ s.traps t 0x08 (info 0 e.1) s.replayPc) ∧
     (s.core.unbound [a, b] = false → e.2 = false → (s.core.tagOf a ≠ 0 ∨ s.core.tagOf b ≠ 0) →
       ∃ t, exec e.1 s = .next t ∧ s.traps t 0x08 (info 1 e.1) s.replayPc) ∧
     (s.core.unbound [a, b] = false → s.core.tagOf a = s.core.tagOf b → (e.2 = false → s.core.tagOf a = 0) →
       m ≠ 0 → z = 0 → (s.core.vec.reg d).dom ≠ s.core.tagOf a →
       ∃ t, exec e.1 s = .next t ∧ s.traps t 0x08 (info 2 e.1) s.replayPc)) ∧
   (∀ x y pf fl, s.ready (.vmulF d a b m z ty) = true → s.served [] [a, b] = true → s.core.tagOf a = 0 → s.core.tagOf b = 0 →
     (m = 0 ∨ z = 1 ∨ (s.core.vec.reg d).dom = 0) → s.core.sources [] [a, b] = ([x, y], pf) →
     s.raisedBy (fmtOfTf ty).width m fl (fun i => fMul (fmtOfTf ty) s.rm (elem (fmtOfTf ty).width x.data.toNat i)
       (elem (fmtOfTf ty).width y.data.toNat i)) → (pf ||| fl) &&& s.en ≠ 0 →
     ∃ t, exec (.vmulF d a b m z ty) s = .next t ∧ s.traps t 0x0A (BitVec.ofNat 64 ((pf ||| fl).toNat * 4)) s.replayPc))

/-- MZERO, MTAG, MMOVV and MSCA. R189, R211, R212, R217 to R219. -/
def Obligations.Accumulators : Prop :=
  ∀ (s : State) (l : BitVec 4) (c k src : BitVec 2) (a b : BitVec 5) (row : Nat) (va vb : VReg), row = (s.g b).toNat % 64 →
  va = s.core.vec.reg (a.setWidth 6) → vb = s.core.vec.reg (b.setWidth 6) → s.en = 0 →
  (s.ready (.mzero l c) = true → s.engineFree l.toNat → ∃ t, exec (.mzero l c) s = .next t ∧
    s.engineDone t 0 false [] ∧ s.keeps Frame.matrix t ∧ s.core.mat.keepsBut t.core.mat c.toNat true ∧
    (∀ i j, i < 64 → j < 64 → t.core.mat.at c.toNat i j = 0) ∧ t.core.mat.tagOf c.toNat = 0 ∧ t.core.mat.kcOf c.toNat = 0) ∧
  (∀ tag, tag = (s.g a).toNat % 65536 → s.ready (.mtag l c a) = true → s.engineFree l.toNat →
    (tag < 512 ∧ (tag % 4 = 0 → tag / 4 % 8 = 0) ∧ (tag % 4 ≠ 0 → 1 ≤ tag / 4 % 8 ∧ tag / 4 % 8 ≤ 6) →
      ∃ t, exec (.mtag l c a) s = .next t ∧ s.engineDone t 0 false [] ∧ s.keeps Frame.matrix t ∧
        s.core.mat.keepsBut t.core.mat c.toNat true ∧ t.core.mat.el = s.core.mat.el ∧
        t.core.mat.tagOf c.toNat = BitVec.ofNat 16 (tag % 32) ∧ t.core.mat.kcOf c.toNat = s.core.mat.kcOf c.toNat) ∧
    (512 ≤ tag → s.mayTrap → ∃ t, exec (.mtag l c a) s = .next t ∧ s.traps t 0x09 (tileInfo 5 0 (.mtag l c a)) s.replayPc)) ∧
  (s.ready (.mmovvToV l c a b) = true → s.core.mat.queue = [] → ∃ t r, exec (.mmovvToV l c a b) s = .next t ∧
    s.vgives t [] l.toNat [] [(a.setWidth 6, ⟨r, BitVec.ofNat 2 (s.core.mat.tagOf c.toNat).toNat⟩)] 0 ∧
    ∀ j, j < 64 → elem 32 r.toNat j = (s.core.mat.at c.toNat row j).toNat) ∧
  (s.ready (.mmovvToAcc l c a b) = true → s.engineFree l.toNat →
    va.dom.toNat = (s.core.mat.tagOf c.toNat).toNat % 4 → ∃ t, exec (.mmovvToAcc l c a b) s = .next t ∧
    s.engineDone t 0 false [] ∧ s.keeps Frame.matrix t ∧ s.core.mat.keepsBut t.core.mat c.toNat true ∧
    t.core.mat.tagOf c.toNat = s.core.mat.tagOf c.toNat ∧ t.core.mat.kcOf c.toNat = s.core.mat.kcOf c.toNat ∧
    ∀ i j, i < 64 → j < 64 → (t.core.mat.at c.toNat i j).toNat =
      if i = row then elem 32 va.data.toNat j else (s.core.mat.at c.toNat i j).toNat) ∧
  (s.ready (.msca l c a b k src) = true → s.engineFree l.toNat →
    (s.core.mat.tagOf c.toNat).toNat % 32 = (s.core.mat.tagOf src.toNat).toNat % 32 → (k ≠ 0 → va.dom = 0) → (k = 3 → vb.dom = 0) →
    (∀ e : Nat → Nat → FRes, s.unheld →
      (∀ i j code rows cols, i < 64 → j < 64 → code = (s.core.mat.tagOf c.toNat).toNat % 4 →
        rows = (if k = 0 then [(s.g a).toNat % 2 ^ 32] else if k = 2 then []
          else [elem 32 va.data.toNat (if code % 2 = 1 then 0 else i)]) →
        cols = (if k = 2 then [elem 32 va.data.toNat (if 2 ≤ code then 0 else j)]
          else if k = 3 then [elem 32 vb.data.toNat (if 2 ≤ code then 0 else j)] else []) →
        e i j = exactSum fp32 s.rm (nth 0 (s.core.mat.acc c.toNat) (64 * i + j)).toNat
          [{ factors := ((nth 0 (s.core.mat.acc src.toNat) (64 * i + j)).toNat :: (rows ++ cols)).map fun x => (fp32, x) }]
          (some (s.lcnShown s.lcn % 4096 * 1024 + s.core.mat.kcOf c.toNat))) →
      ∃ t fl, exec (.msca l c a b k src) s = .next t ∧ s.engineDone t fl false [] ∧
      s.keeps { Frame.matrix with cr := [0x0C8, mgovNow, mgcapNow] } t ∧
      bits (t.core.reg 0x0C8) 0 32 = (bits (s.core.reg 0x0C8) 0 32 + 64) % 2 ^ 32 ∧
      bits (t.core.reg 0x0C8) 32 32 = bits (s.core.reg 0x0C8) 32 32 ∧
      s.core.mat.keepsBut t.core.mat c.toNat true ∧ t.core.mat.tagOf c.toNat = s.core.mat.tagOf c.toNat ∧
      t.core.mat.kcOf c.toNat = min (s.core.mat.kcOf c.toNat + 1) 1023 ∧
      (∀ i j, i < 64 → j < 64 → (t.core.mat.at c.toNat i j).toNat = (e i j).1 % 2 ^ 32) ∧
      ∀ n, fl.getLsbD n = true ↔ ∃ i j, i < 64 ∧ j < 64 ∧ (e i j).2.getLsbD n = true) ∧
    ((s.core.governNow s.clock).governed = true → (s.core.governNow s.clock).mat.rem ≤ 0 →
      ∃ t p, exec (.msca l c a b k src) s = .next t ∧ s.advances t ∧ t.core.mat.queue = [p] ∧ p.i = .msca l c a b k src ∧
        p.steps = 0 ∧ p.left = 0 ∧ p.rm = s.rm ∧ t.core.mat.el = s.core.mat.el ∧ t.core.mat.kc = s.core.mat.kc ∧
        s.keeps { Frame.none with cr := [0x0C3, mgovNow, mgcapNow] } t ∧
        ((s.core.reg 0x0C3).toNat < 2 ^ 64 - 1 → (s.core.reg 0x0C3).toNat < (t.core.reg 0x0C3).toNat)))

/-- MMA and MMAZ: every element, the tag, the chunk counter and the frame. R113, R187, R192, R198, R203, R207 to R209. -/
def Obligations.MatrixProducts : Prop :=
  ∀ (s u : State) (fresh : Bool) (l : BitVec 4) (c : BitVec 2) (a b : BitVec 5) (g h : BitVec 1) (e f : BitVec 4)
    (frames : Tab Nat) (i : Instr) (x y : MatOpnd) (m0 : MatState) (w kk : Nat),
  i = (if fresh then .mmaz l c a b g h e f else .mma l c a b g h e f) → s.ready i = true → s.engineFree l.toNat → s.unheld → s.en = 0 →
  s.opndWhy g a e = none → s.opndWhy h b f = none → s.mmaDomain fresh c a b g h = none →
  s.fetches [s.opndEAs g a, s.opndEAs h b] frames u →
  x = s.core.mat.expand s.rm (s.opndSrc g a e ((s.opndEAs g a).map (s.operandByte frames))) →
  y = s.core.mat.expand s.rm (s.opndSrc h b f ((s.opndEAs h b).map (s.operandByte frames))) →
  m0 = (if fresh then s.core.mat.clear c.toNat else s.core.mat) →
  w = min (chunkWidth (s.core.mat.chunkFmt x.fmt)) (chunkWidth (s.core.mat.chunkFmt y.fmt)) → kk = min x.k y.k →
  ∃ t fl, exec i s = .next t ∧ s.engineDone t fl false [s.opndEAs g a, s.opndEAs h b] ∧ t.towers = u.towers ∧
    s.keeps { Frame.matrix with cr := [0x0C8, mgovNow, mgcapNow], mmu := true, towers := true } t ∧
    fl = (s.core.mat.product s.rm (s.lcnShown s.lcn) c.toNat fresh x y).2.1 ∧
    s.core.mat.keepsBut t.core.mat c.toNat true ∧
    t.core.mat.kcOf c.toNat = min (m0.kcOf c.toNat + kk / w) 1023 ∧
    t.core.mat.tagOf c.toNat = (if fresh then BitVec.ofNat 16 (productTag x.tag y.tag) else s.core.mat.tagOf c.toNat) ∧
    (∃ skip, skip = passable (x.rows.map (rowChunks w kk)) (y.rows.map (rowChunks w kk)) (kk / w) ∧ skip ≤ 64 * (kk / w) ∧ bits (t.core.reg 0x0C8) 32 32 = (bits (s.core.reg 0x0C8) 32 32 + skip) % 2 ^ 32 ∧
      bits (t.core.reg 0x0C8) 0 32 = (bits (s.core.reg 0x0C8) 0 32 + (64 * (kk / w) - skip)) % 2 ^ 32) ∧
    ∀ p q old lim, p < 64 → q < 64 → old = (nth 0 (m0.acc c.toNat) (64 * p + q)).toNat →
      lim = min kk (min x.vc y.vc + 1) → (t.core.mat.at c.toNat p q).toNat =
        if p < x.rows.length ∧ q < y.rows.length then
          (chunkLoop s.rm (s.lcnShown s.lcn) (m0.kcOf c.toNat) 0 (old, 0) (rowChunks w lim (nth [] x.rows p))
            (rowChunks w lim (nth [] y.rows q))).1 % 2 ^ 32
        else old

/-- MLDACC, MDRAIN, CBLOAD, and the queue of the matrix engine. R213 to R216, R220. R186 to R188, R199. -/
def Obligations.MatrixMemoryAndQueue : Prop :=
  (∀ (s u : State) (l : BitVec 4) (c : BitVec 2) (a b : BitVec 5) (x f : BitVec 1) (n : BitVec 3) (frames : Tab Nat) (w0 w1 : Word)
     (d : TileDesc) (eas : List Nat), w0 = s.g a → w1 = s.g (pairHi a) → d = tileOf w0 w1 →
   eas = d.eas.map (· % 2 ^ 64) → s.en = 0 →
   (s.ready (.mldacc l c a) = true → s.engineFree l.toNat →
     (∀ why, s.tileWhy .load w0 w1 = some why → s.mayTrap → ∃ t, exec (.mldacc l c a) s = .next t ∧
       s.traps t 0x09 (tileInfo why 0 (.mldacc l c a)) s.replayPc) ∧
     (s.tileWhy .load w0 w1 = none → s.fetches [eas] frames u → ∃ t fl, exec (.mldacc l c a) s = .next t ∧
       s.engineDone t fl false [eas] ∧ t.towers = u.towers ∧
       s.keeps { Frame.matrix with mmu := true, towers := true } t ∧
       fl = (s.core.mat.loadTile s.rm c.toNat w0 w1 (eas.map (s.operandByte frames))).2 ∧
       s.core.mat.keepsBut t.core.mat c.toNat true ∧ t.core.mat.kcOf c.toNat = 0 ∧
       t.core.mat.tagOf c.toNat = BitVec.ofNat 16 (d.tag % 32) ∧
       ∀ i j, i < 64 → j < 64 → (t.core.mat.at c.toNat i j).toNat = if i < d.rows then
         (nth (0, 0) (pad64 ((s.core.mat.row s.rm d.fmt d.cols (ofLeBytes ((d.rowEAs i).map fun ea =>
           s.operandByte frames (ea % 2 ^ 64)))).map quieted)) j).1 % 2 ^ 32 else 0)) ∧
   (∀ size, size = (if f = 1 then 1024 else 2048) → s.ready (.cbload l a f n) = true → s.engineFree l.toNat →
     (w0.toNat % size ≠ 0 → s.mayTrap → ∃ t, exec (.cbload l a f n) s = .next t ∧ s.traps t 0x04 w0 s.replayPc) ∧
     (w0.toNat % size = 0 → s.fetches [byteEAs w0 size] frames u → ∃ t, exec (.cbload l a f n) s = .next t ∧
       s.engineDone t 0 false [byteEAs w0 size] ∧ t.towers = u.towers ∧
       s.keeps { Frame.matrix with mmu := true, towers := true } t ∧
       t.core.mat.el = s.core.mat.el ∧ t.core.mat.tag = s.core.mat.tag ∧ t.core.mat.kc = s.core.mat.kc ∧
       (∀ p, Tab.get 0 t.core.mat.code p = if 2048 * n.toNat ≤ p ∧ p < 2048 * n.toNat + size then
         s.operandByte frames ((w0.toNat + (p - 2048 * n.toNat)) % 2 ^ 64) else Tab.get 0 s.core.mat.code p) ∧
       ∀ i, i < 8 → t.core.mat.codeFmt.getLsbD i = if i = n.toNat then f = 1 else s.core.mat.codeFmt.getLsbD i)) ∧
   (s.ready (.mdrain l c a b x) = true → s.engineFree l.toNat →
     (∀ why, s.tileWhy .drain w0 w1 = some why → s.mayTrap → ∃ t, exec (.mdrain l c a b x) s = .next t ∧
       s.traps t 0x09 (tileInfo why 2 (.mdrain l c a b x)) s.replayPc) ∧
     (∀ tag r o, s.tileWhy .drain w0 w1 = none → tag = (s.core.mat.tagOf c.toNat).toNat →
       (tag % 2 = 1 → d.code % 2 = 1) → (2 ≤ tag % 4 → 2 ≤ d.code) → (tag % 4 ≠ 0 → tag / 4 % 8 ≤ d.levels) →
       s.calm = true → s.unjournalled = true → s.fab.migs = [] → Tab.find? s.core.mail s.k = none →
       s.begin.locate s.lcn s.k (s.begin.query s.lcn s.k false true false true) eas = (.ok frames, u) →
       o = { matOp (.mdrain l c a b x) (.dest w0 w1 frames (s.core.thresholds (d.tag / 32 % 8))) .none with
         seq := s.core.count + 1 } → u.drainHeld s.lcn o = false →
       r = s.core.mat.drainRows s.rm c.toNat w0 w1 (s.core.thresholds (d.tag / 32 % 8)) →
       ∃ t, exec (.mdrain l c a b x) s = .next t ∧ s.engineDone t r.2.2 true [eas] ∧
         s.wrote t (drainCells s s.lcn d frames r.1).1 ∧ t.g b = (if b = 0 then 0 else BitVec.ofNat 64 r.2.1) ∧
         (∀ q, q ≠ b → t.g q = s.g q) ∧ t.core.vec = s.core.vec ∧ t.core.sb = s.core.sb ∧
         s.core.mat.keepsBut t.core.mat c.toNat true ∧
         (x = 0 → t.core.mat.el = s.core.mat.el ∧ t.core.mat.tag = s.core.mat.tag ∧ t.core.mat.kc = s.core.mat.kc) ∧
         (x = 1 → (∀ i j, i < 64 → j < 64 → t.core.mat.at c.toNat i j = 0) ∧ t.core.mat.tagOf c.toNat = 0 ∧
           t.core.mat.kcOf c.toNat = 0)))) ∧
  ((∀ (s : State) (l : BitVec 4) (c : BitVec 2), s.ready (.mzero l c) = true → s.promptly l.toNat = false →
     s.core.mat.queue.length < 4 → (∀ o ∈ s.core.mat.queue, o.blocks = false) →
     ∃ t o, exec (.mzero l c) s = .next t ∧ s.advances t ∧ s.keeps Frame.none t ∧
       t.core.mat.queue.length = s.core.mat.queue.length + 1 ∧ o ∈ t.core.mat.queue ∧ o.i = .mzero l c ∧ o.left = l.toNat ∧
       o.rm = s.rm ∧ t.core.mat.tagOf c.toNat = s.core.mat.tagOf c.toNat) ∧
   (∀ (s : State) (l : BitVec 4) (c : BitVec 2), s.ready (.mzero l c) = true → s.core.mat.queue.length = 4 →
     ∃ t, exec (.mzero l c) s = .next t ∧ t.cx.pc = s.cx.pc ∧ t.cx.retired = s.cx.retired ∧ t.cx.wait = some .matrix ∧
       s.keeps Frame.none t) ∧
   ∀ (s : State) (lcn : Nat) (o : MatOp) (rest : List MatOp), (s.coreAt lcn).mat.queue = o :: rest →
     (s.drainHeld lcn o = true → exec (.matrixQueuePerform lcn) s = .next s) ∧
     (∀ n u, s.drainHeld lcn o = false → s.govern lcn o = (n, false, u) → ∃ t, exec (.matrixQueuePerform lcn) s = .next t ∧
       (t.coreAt lcn).mat.queue = { o with steps := n } :: rest ∧ o.steps ≤ n ∧ (t.coreAt lcn).mat.el = (s.coreAt lcn).mat.el ∧
       (t.coreAt lcn).mat.kc = (s.coreAt lcn).mat.kc ∧ t.mem = s.mem ∧
       s.keepsAt { Frame.none with cr := [0x0C3, mgovNow, mgcapNow] } lcn 0 t ∧
       (((s.coreAt lcn).reg 0x0C3).toNat < 2 ^ 64 - 1 → ((s.coreAt lcn).reg 0x0C3).toNat < ((t.coreAt lcn).reg 0x0C3).toNat)) ∧
     (∀ n u v, s.drainHeld lcn o = false → s.govern lcn o = (n, true, u) → u.drainSplits lcn o = some v →
       exec (.matrixQueuePerform lcn) s = .next v) ∧
     ∀ n u, s.drainHeld lcn o = false → s.govern lcn o = (n, true, u) → u.drainSplits lcn o = none →
     ∃ t m, exec (.matrixQueuePerform lcn) s = .next t ∧ m = ((u.matPerform lcn o).1.coreAt lcn).mat ∧
       t.lcn = s.lcn ∧ t.k = s.k ∧ (t.coreAt lcn).mat.queue = rest ∧ (t.coreAt lcn).mat.el = m.el ∧
       (t.coreAt lcn).mat.tag = m.tag ∧ (t.coreAt lcn).mat.kc = m.kc ∧ (t.coreAt lcn).mat.code = m.code ∧
       ((t.coreAt lcn).ctx 0).reg 0x001 =
         ((s.coreAt lcn).ctx 0).reg 0x001 ||| BitVec.ofNat 64 ((u.matPerform lcn o).2.toNat * 4) ∧
       (∀ l c, o.i = .mzero l c → (∀ i j, i < 64 → j < 64 → (t.coreAt lcn).mat.at c.toNat i j = 0) ∧
         (t.coreAt lcn).mat.tagOf c.toNat = 0 ∧ (s.coreAt lcn).mat.keepsBut (t.coreAt lcn).mat c.toNat true ∧ t.mem = s.mem))

/-- Issue of CPY, FILL and CPYV. R280, R281, R283, R286, R287. R287 to R289. -/
def Obligations.EngineIssue : Prop :=
  (∀ (s u : State) (fill : Bool) (l : BitVec 4) (d a b : BitVec 5) (i : Instr) (n : Nat) (f : Fp)
     (r : Except Failure (List (Nat × Nat) × List (Nat × Nat))),
   i = (if fill then .fill l d a b else .cpy l d a b) → n = (s.g d).toNat →
   f = Fp.ofOp d (if fill then .fill (s.g a) (s.g b) n else .cpy (s.g a) (s.g b) n) → s.ready i = true →
     (∀ x, [s.g a, s.g b, s.g d].find? (fun x => x.toNat % 8 != 0) = some x → s.mayTrap →
       ∃ t, exec i s = .next t ∧ s.traps t 0x04 x s.replayPc) ∧
     ((∀ x ∈ [s.g a, s.g b, s.g d], x.toNat % 8 = 0) →
       (16 ≤ s.core.fps.length → ∃ t, exec i s = .next t ∧ s.waits t .engine) ∧
       (s.core.fps.length < 16 → n = 0 → ∃ t, exec i s = .next t ∧ s.keeps Frame.engine t ∧
         s.accepts t s.core.fps { f with stage := .ended 0 none }) ∧
       (s.core.fps.length < 16 → 2 ^ 24 < n → ∃ t, exec i s = .next t ∧ s.keeps Frame.engine t ∧
         s.accepts t s.core.fps { f with stage := .ended (0 - 3) (some ⟨3, 13, n⟩) }) ∧
       (s.core.fps.length < 16 → 0 < n → n ≤ 2 ^ 24 → s.begin.reachBoth fill (s.g a) (s.g b) n = (r, u) →
         ∃ t, exec i s = .next t ∧ s.keeps Frame.engine t ∧ t.towers = u.towers ∧
           match r with
           | .error e => s.accepts t s.core.fps { f with stage := .ended (0 - BitVec.ofNat 64 e.stat) (some e) }
           | .ok (w, x) => s.accepts t s.core.fps
               { f with wr := w, rd := if fill then [] else x, far := if fill then x else [] }))) ∧
  (∀ (s b u : State) (l : BitVec 4) (d a : BitVec 5) (i : Instr) (card nreg size : Nat) (w r : List (Nat × Nat))
     (ok : List (Word × Word × Nat)) (e : Option Failure),
   i = .cpyv l d a → b = s.begin → card = (s.g a).toNat → nreg = b.peek card 1 → size = 32 + 32 * min nreg 8 →
   s.ready i = true →
     (card % 64 ≠ 0 → s.mayTrap → ∃ t, exec i s = .next t ∧ s.traps t 0x04 (s.g a) s.replayPc) ∧
     (card % 64 = 0 → 0x80000 < card + 32 → s.mayTrap →
       ∃ t, exec i s = .next t ∧ s.traps t 0x09 (tileInfo 8 0 i) s.replayPc) ∧
     (card % 64 = 0 → card + size ≤ 0x80000 → b.peekable [card] = none → b.peekable ((List.range size).map (card + ·)) = none →
       (∀ why, b.cardWhy card nreg = some why → s.mayTrap →
         ∃ t, exec i s = .next t ∧ s.traps t 0x09 (tileInfo why 0 i) s.replayPc) ∧
       (b.cardWhy card nreg = none → s.core.fps.length < 16 → s.calm = true →
         b.reachCard (b.cardRegions card nreg) = (w, r, ok, e, u) →
         ∃ t, exec i s = .next t ∧ s.keeps Frame.engine t ∧ t.towers = u.towers ∧
           s.accepts t s.core.fps { Fp.ofOp d (.cpyv ok e) with wr := w, rd := r })))

/-- SBIND and SUNBIND, and what a stream fetch appends. R284, R286, R290, R291. R285, R291, R292. -/
def Obligations.Streams : Prop :=
  (∀ (s b : State) (l : BitVec 4) (k : BitVec 2) (a : BitVec 5) (rec at' : Nat) (x y : Stream) (rest : List Fp), b = s.begin →
   rec = (s.g a).toNat → at' = x.u 0x38 8 → rest = s.core.fps.filter (fun f => f.op != .sbind k.toNat) →
   x = ⟨(List.range 64).map fun i => b.loadByte s.lcn s.k [] (rec + i), [], s.rm, 0, 0, [], false, []⟩ →
   y = (if x.ops / 8 % 2 = 1 then { x with scale := (List.range 64).map fun j => BitVec.ofNat 32 (b.peek (at' + 4 * j) 4) } else x) →
     (s.ready (.sbind l k a) = true →
       (rec % 64 ≠ 0 → s.mayTrap → ∃ t, exec (.sbind l k a) s = .next t ∧ s.traps t 0x04 (s.g a) s.replayPc) ∧
       (rec % 64 = 0 → 0x80000 < rec + 64 → s.mayTrap →
         ∃ t, exec (.sbind l k a) s = .next t ∧ s.traps t 0x09 (tileInfo 8 0 (.sbind l k a)) s.replayPc) ∧
       (rec % 64 = 0 → rec + 64 ≤ 0x80000 → b.peekable ((List.range 64).map (rec + ·)) = none →
         (∀ why, b.bindWhy x = some why → s.mayTrap →
           ∃ t, exec (.sbind l k a) s = .next t ∧ s.traps t 0x09 (tileInfo why 0 (.sbind l k a)) s.replayPc) ∧
         (b.bindWhy x = none → (x.ops / 8 % 2 = 1 → b.peekable ((List.range 256).map (at' + ·)) = none) → rest.length < 16 →
           s.calm = true → ∃ t, exec (.sbind l k a) s = .next t ∧ s.keeps { Frame.engine with streams := true } t ∧
             s.accepts t rest { Fp.ofOp 0 (.sbind k.toNat) with rd := b.bindRanges y } ∧
             ∀ j, Tab.find? t.core.streams j = if j = k.toNat then some y else Tab.find? s.core.streams j))) ∧
     (s.ready (.sunbind k) = true → ∃ t, exec (.sunbind k) s = .next t ∧ s.advances t ∧
       s.keeps { Frame.none with engines := true, streams := true } t ∧ t.core.fps = rest ∧ t.core.comb = s.core.comb ∧
       ∀ j, Tab.find? t.core.streams j = if j = k.toNat then none else Tab.find? s.core.streams j)) ∧
  (∀ (s b u : State) (lcn k : Nat) (x : Stream) (d : TileDesc) (rows : List Nat) (frames : Tab Nat) (v : BitVec 2048 × Flags),
   Tab.find? (s.coreAt lcn).streams k = some x → x.ended = false → x.ready.length < 4 → (s.coreAt lcn).enginesRun = true →
   s.calm = true → s.streamBegin lcn k = (true, b) → d = x.tileAt x.tile →
   (d.fmt = 8 → (s.coreAt lcn).mat.oneFormat = true) → rows = x.rowsRead d →
   b.streamLocate lcn (granules (rows.flatMap (streamEAs d))) [] = (.ok frames, u) →
   v = x.form (s.coreAt lcn).mat d (rows.map fun r => ofLeBytes ((streamEAs d r).map fun ea =>
     match s.spotPA lcn frames ea with | some a => s.streamByte x a | none => 0)) →
   ∃ t y, exec (.streamFetch lcn k) s = .next t ∧ s.spares t [] ∧ t.mem = s.mem ∧
     Tab.find? (t.coreAt lcn).streams k = some y ∧
     y.ready = x.ready ++ [⟨⟨v.1, x.code⟩, v.2, ((streamEAs d x.row).find? outOfRange).map (BitVec.ofNat 64 ·)⟩] ∧
     y.record = x.record ∧ y.scale = x.scale ∧ y.rm = x.rm ∧ y.past = x.past ∧
     (x.row + 1 < x.td.rows → y.row = x.row + 1 ∧ y.tile = x.tile) ∧ (x.td.rows ≤ x.row + 1 → y.row = 0 ∧ y.tile = x.tile + 1) ∧
     ∀ j, j ≠ k → Tab.find? (t.coreAt lcn).streams j = Tab.find? (s.coreAt lcn).streams j)

/-- A copy writes its bytes, and the end of a transfer writes its token. R280 to R282, R285, R287. -/
def Obligations.Transfers : Prop :=
  ∀ (s : State) (lcn : Nat) (f : Fp), s.fp? lcn f.id = some f →
    (f.stage = .accepted → (s.coreAt lcn).enginesRun = true → s.engineHeld lcn f = false →
      (s.coreAt lcn).releaseHeld f = false → f.op.remote? = none →
      ∃ t, exec (.engineTransferBegin lcn f.id) s = .next t ∧ s.spares t [] ∧ t.mem = s.mem ∧
        t.fp? lcn f.id = some { f with stage := .begun }) ∧
    (f.stage = .accepted → s.engineHeld lcn f = true ∨ (s.coreAt lcn).enginesRun = false ∨ (s.coreAt lcn).releaseHeld f = true →
      exec (.engineTransferBegin lcn f.id) s = .next s) ∧
    (∀ gs e, f.stage = .begun → (s.coreAt lcn).enginesRun = true → s.settled → f.op = .cpyv gs e →
      ∃ t, exec (.engineTransferBegin lcn f.id) s = .next t ∧ s.spares t [0x185] ∧ (gs = [] → t.mem = s.mem) ∧
        (∀ dst src n, gs = [(src, dst, n)] →
          s.wrote t (((flat f.wr).take n).zip (((flat f.rd).take n).map s.byteAt))) ∧
        t.fp? lcn f.id = some { f with stage := match e with
          | none => .ended (BitVec.ofNat 64 (gs.map (·.2.2)).sum) none
          | some q => .ended (0 - BitVec.ofNat 64 q.stat) (some q) }) ∧
    (∀ n dst src from', f.stage = .begun → (s.coreAt lcn).enginesRun = true → s.settled →
      ((f.op = .cpy dst src n ∧ from' = flat f.rd) ∨
        (f.op = .fill dst src n ∧ from' = flat f.far ∧ s.refusedAt src.toNat (flat f.far) = none)) →
      ∃ t, exec (.engineTransferBegin lcn f.id) s = .next t ∧ s.spares t [0x185] ∧
        s.wrote t ((flat f.wr).zip (from'.map s.byteAt)) ∧
        t.fp? lcn f.id = some { f with stage := .ended (BitVec.ofNat 64 n) none }) ∧
    (∀ v fail, f.stage = .ended v fail → ∃ t, exec (.transferEnd lcn f.id) s = .next t ∧
      (t.coreAt lcn).fps = (s.coreAt lcn).fps.filter (fun x => x.id ≠ f.id) ∧
      (∀ k r, ((t.coreAt lcn).ctx k).gr r =
        if k = f.ctx ∧ r = f.tok ∧ r ≠ 0 then v else ((s.coreAt lcn).ctx k).gr r) ∧
      (f.tok ≠ 0 → ∀ x ∈ ((t.coreAt lcn).ctx f.ctx).tokens, x.2 ≠ f.id) ∧
      (fail = none → ∀ n, (t.coreAt lcn).reg n = (s.coreAt lcn).reg n) ∧
      (∀ y, fail = some y → bit ((s.coreAt lcn).reg 0x101) 63 = false → y.stat < 256 → y.reason < 256 → f.ctx ≤ 10 →
        bit ((t.coreAt lcn).reg 0x101) 63 = true ∧ bits ((t.coreAt lcn).reg 0x101) 40 8 = 1 ∧
        bits ((t.coreAt lcn).reg 0x101) 32 4 = f.ctx ∧ bits ((t.coreAt lcn).reg 0x101) 24 8 = y.reason ∧
        bits ((t.coreAt lcn).reg 0x101) 16 8 = y.stat ∧ (t.coreAt lcn).reg 0x102 = BitVec.ofNat 64 (y.addr % 2 ^ 56)) ∧
      (∀ l, l ≠ lcn → t.coreAt l = s.coreAt l) ∧ t.mem = s.mem ∧ (t.coreAt lcn).vec = (s.coreAt lcn).vec ∧
      (t.coreAt lcn).mat = (s.coreAt lcn).mat)

/-- Issue of XADD, XMIN, XMAX, XCAS, XFLAG, XPUT, XGET and XTASK. R268, R281 to R283, R295, R300 to R302, R323. R239, R244, R281
to R283, R287, R295, R297. R281, R283, R295, R304. -/
def Obligations.ExchangeIssue : Prop :=
  (∀ (s : State) (l : BitVec 4) (d a b : BitVec 5) (o y : BitVec 2) (r : Remote) (m : Nat) (v w : Word) (fr : Frame)
     (x : Option Failure),
   r = ⟨s.g a, s.g (pairHi a)⟩ → m = (if y = 0 ∨ y = 3 then 4 else 8) → v = BitVec.ofNat 64 ((s.g b).toNat % 2 ^ (8 * m)) →
   w = BitVec.ofNat 64 ((s.g d).toNat % 2 ^ (8 * m)) →
   fr = (if s.core.mem.gang = 0 ∨ (s.coreAt r.lcn).mem.gang = s.core.mem.gang then Frame.engine
     else { Frame.engine with cr := [0x185], arb := true }) →
   x = (if bits r.cap 22 16 ≠ s.fab.mapgen.toNat then some ⟨2, 15, r.lcn⟩
     else if s.isCore r.lcn = false then some ⟨3, 13, r.lcn⟩ else if bits r.addr 52 12 ≠ 0 then some ⟨3, 13, r.at⟩ else none) →
   ∀ e ∈ ([(.xadd l d a b o y, .xcomb r 0 y v, m, o), (.xmin l d a b o y, .xcomb r 1 y v, m, o),
       (.xmax l d a b o y, .xcomb r 2 y v, m, o), (.xcas l d a b o y, .xcas r y w v, m, o),
       (.xflag l d a b, .xflag r (s.g b), 8, 1)] : List (Instr × EngineOp × Nat × BitVec 2)),
   ∀ i op n ord f, e = (i, op, n, ord) → f = { Fp.ofOp d op with rel := ord == 1, acq := ord == 2 } → s.ready i = true →
     (r.at % n ≠ 0 → s.mayTrap → ∃ t, exec i s = .next t ∧ s.traps t 0x04 (BitVec.ofNat 64 r.at) s.replayPc) ∧
     (r.at % n = 0 → s.capBad r.cap false = true → s.mayTrap → ∃ t, exec i s = .next t ∧ s.traps t 0x0B r.cap s.replayPc) ∧
     (r.at % n = 0 → s.capBad r.cap false = false → 16 ≤ s.core.fps.length → ∃ t, exec i s = .next t ∧ s.waits t .engine) ∧
     (r.at % n = 0 → s.capBad r.cap false = false → s.core.fps.length < 16 → ∃ t, exec i s = .next t ∧ s.keeps fr t ∧
       t.towers = s.towers ∧ (fr ≠ Frame.engine →
         bit (t.core.reg 0x185) 63 = true ∧ bits (t.core.reg 0x185) 59 3 = 4) ∧
       (∀ q, x = some q → s.accepts t s.core.fps { f with stage := .ended (op.failToken q) (some q) }) ∧
       (∀ pa, x = none → r.at < 2 ^ 32 → s.remoteView r.lcn r.at n = some pa → s.accepts t s.core.fps { f with far := [(pa, n)] }) ∧
       (∀ q, x = none → (r.at < 2 ^ 32 → s.remoteView r.lcn r.at n = none) → q = ⟨3, 13, r.at⟩ →
         s.accepts t s.core.fps { f with stage := .ended (op.failToken q) (some q) }))) ∧
  (∀ (s u v : State) (put : Bool) (l : BitVec 4) (d a b : BitVec 5) (o : BitVec 2) (i : Instr) (r : Remote) (n : Nat) (far : Word)
     (f : Fp) (fr : Frame) (x : Option Failure) (c : List Word) (w : Except Failure (List (Nat × Nat))),
   i = (if put then .xput l d a b o else .xget l d a b o) → r = ⟨s.g a, s.g (pairHi a)⟩ → n = (s.g d).toNat →
   far = BitVec.ofNat 64 r.at → c = (if put then [far, s.g b, s.g d] else [s.g b, far, s.g d]) →
   f = { Fp.ofOp d (if put then .xput r (s.g b) n else .xget r (s.g b) n) with rel := o == 1, acq := o == 2 } →
   fr = (if s.core.mem.gang = 0 ∨ (s.coreAt r.lcn).mem.gang = s.core.mem.gang then Frame.engine
     else { Frame.engine with cr := [0x185], arb := true }) →
   x = (if bits r.cap 22 16 ≠ s.fab.mapgen.toNat then some ⟨2, 15, r.lcn⟩
     else if s.isCore r.lcn = false then some ⟨3, 13, r.lcn⟩ else if bits r.addr 52 12 ≠ 0 then some ⟨3, 13, r.at⟩ else none) →
   s.ready i = true →
     (∀ z, c.find? (fun z => z.toNat % 8 != 0) = some z → s.mayTrap →
       ∃ t, exec i s = .next t ∧ s.traps t 0x04 z s.replayPc) ∧
     ((∀ z ∈ c, z.toNat % 8 = 0) → s.capBad r.cap false = true → s.mayTrap →
       ∃ t, exec i s = .next t ∧ s.traps t 0x0B r.cap s.replayPc) ∧
     ((∀ z ∈ c, z.toNat % 8 = 0) → s.capBad r.cap false = false → 16 ≤ s.core.fps.length →
       ∃ t, exec i s = .next t ∧ s.waits t .engine) ∧
     ((∀ z ∈ c, z.toNat % 8 = 0) → s.capBad r.cap false = false → s.core.fps.length < 16 →
       ∃ t, exec i s = .next t ∧ s.keeps fr t ∧
         (n = 0 → s.accepts t s.core.fps { f with stage := .ended 0 none }) ∧
         (2 ^ 24 < n → s.accepts t s.core.fps { f with stage := .ended (0 - 3) (some ⟨3, 13, n⟩) }) ∧
         (0 < n → n ≤ 2 ^ 24 →
           (∀ q, x = some q → s.accepts t s.core.fps { f with stage := .ended (0 - BitVec.ofNat 64 q.stat) (some q) }) ∧
           (x = none → r.at < 2 ^ 32 → s.remoteView r.lcn r.at n = none →
             s.accepts t s.core.fps { f with stage := .ended (0 - 3) (some ⟨3, 13, r.at⟩) }) ∧
           (∀ q, x = none → 2 ^ 32 ≤ r.at →
             s.begin.reachRange (if put then .farWrites else .farReads) far n = (.error q, u) →
             s.accepts t s.core.fps { f with stage := .ended (0 - BitVec.ofNat 64 q.stat) (some ⟨q.stat, q.reason, r.at⟩) }) ∧
           (∀ rs, x = none → (if r.at < 2 ^ 32 then u = s.begin ∧ ∃ pa, s.remoteView r.lcn r.at n = some pa ∧ rs = [(pa, n)]
               else s.begin.reachRange (if put then .farWrites else .farReads) far n = (.ok rs, u)) →
             u.reachRange (if put then .reads else .writes) (s.g b) n = (w, v) → t.towers = v.towers ∧
             match w with
             | .error q => s.accepts t s.core.fps { f with stage := .ended (0 - BitVec.ofNat 64 q.stat) (some q) }
             | .ok ls => s.accepts t s.core.fps
                 { f with far := rs, rd := if put then ls else [], wr := if put then [] else ls })))) ∧
  (∀ (s : State) (l : BitVec 4) (d a b : BitVec 5) (r : Remote) (card : Nat) (f : Fp) (fr : Frame) (x : Option Failure),
   r = ⟨s.g a, s.g (pairHi a)⟩ → card = (s.g b).toNat → f = Fp.ofOp d (.xtask r (s.g b)) →
   fr = (if s.core.mem.gang = 0 ∨ (s.coreAt r.lcn).mem.gang = s.core.mem.gang then Frame.engine
     else { Frame.engine with cr := [0x185], arb := true }) →
   x = (if bits r.cap 22 16 ≠ s.fab.mapgen.toNat then some ⟨2, 15, r.lcn⟩
     else if s.isCore r.lcn = false then some ⟨3, 13, r.lcn⟩ else if bits r.addr 52 12 ≠ 0 then some ⟨3, 13, r.at⟩
     else if r.at ≠ 0 then some ⟨3, 13, r.at⟩ else if 0x80000 < card + 64 then some ⟨3, 13, card⟩ else none) →
   s.ready (.xtask l d a b) = true →
     (card % 64 ≠ 0 → s.mayTrap → ∃ t, exec (.xtask l d a b) s = .next t ∧ s.traps t 0x04 (s.g b) s.replayPc) ∧
     (card % 64 = 0 → s.capBad r.cap true = true → s.mayTrap →
       ∃ t, exec (.xtask l d a b) s = .next t ∧ s.traps t 0x0B r.cap s.replayPc) ∧
     (card % 64 = 0 → s.capBad r.cap true = false → 16 ≤ s.core.fps.length →
       ∃ t, exec (.xtask l d a b) s = .next t ∧ s.waits t .engine) ∧
     (card % 64 = 0 → s.capBad r.cap true = false → s.core.fps.length < 16 → ∃ t, exec (.xtask l d a b) s = .next t ∧
       s.keeps fr t ∧ t.towers = s.towers ∧
       (∀ q, x = some q → s.accepts t s.core.fps { f with stage := .ended (0 - BitVec.ofNat 64 q.stat) (some q) }) ∧
       (x = none → s.accepts t s.core.fps { f with rd := [(s.scratchPA s.lcn card, 64)] })))

/-- How a transfer enters the network. R271, R285, R296, R301, R375. That a route for the response is needed at injection: log
entry 91. -/
def Obligations.Injection : Prop :=
  ∀ (s : State) (lcn src dst : Nat) (f : Fp) (r : Remote) (way : Route), s.fp? lcn f.id = some f → f.op.remote? = some r →
    src = s.lcnShown lcn / 8 → dst = r.lcn / 8 →
    (f.stage = .accepted → (s.coreAt lcn).enginesRun = true → s.engineHeld lcn f = false → (s.coreAt lcn).releaseHeld f = false →
      way = s.route f.op.cls src dst →
      (way = .retired → ∃ t q, exec (.engineTransferBegin lcn f.id) s = .next t ∧ s.spares t [] ∧ t.mem = s.mem ∧
        q = ⟨1, 16, f.op.target⟩ ∧ t.fp? lcn f.id = some { f with stage := .ended (f.op.failToken q) (some q) }) ∧
      (way = .unreachable → ∃ t q, exec (.engineTransferBegin lcn f.id) s = .next t ∧ s.spares t [] ∧ t.mem = s.mem ∧
        q = ⟨7, 14, r.lcn⟩ ∧ t.fp? lcn f.id = some { f with stage := .ended (f.op.failToken q) (some q) }) ∧
      (way ≠ .retired → way ≠ .unreachable →
        (∀ op ty v pa, f.op = .xcomb r op ty v → flat f.far = pa :: (flat f.far).tail → (s.coreAt lcn).comb.length < 8 →
          (∀ x ∈ (s.coreAt lcn).comb, x.home ≠ pa / 128 * 128) → ∃ t, exec (.engineTransferBegin lcn f.id) s = .next t ∧
            s.spares t [] ∧ t.mem = s.mem ∧
            t.fp? lcn f.id = some { f with stage := .ended (if ty = 0 ∨ ty = 3 then 4 else 8) none } ∧
            (t.coreAt lcn).comb = (s.coreAt lcn).comb ++ [⟨pa / 128 * 128, BitVec.ofNat 12 r.lcn,
              BitVec.ofNat 16 (bits r.cap 22 16), op, ty, [(pa % 128, v)]⟩]) ∧
        (∀ op ty v pa x ls, f.op = .xcomb r op ty v → flat f.far = pa :: (flat f.far).tail → (s.coreAt lcn).comb = x :: ls →
          x.home = pa / 128 * 128 → x.op = op → x.ty = ty → (∀ y ∈ ls, y.home ≠ x.home) →
          ∃ t, exec (.engineTransferBegin lcn f.id) s = .next t ∧ s.spares t [] ∧ t.mem = s.mem ∧
            t.fp? lcn f.id = some { f with stage := .ended (if ty = 0 ∨ ty = 3 then 4 else 8) none } ∧
            (t.coreAt lcn).comb = { x with words := Tab.put x.words (pa % 128) (match Tab.find? x.words (pa % 128) with
              | some y => BitVec.ofNat 64 (comb op ty y.toNat v.toNat)
              | none => v) } :: ls) ∧
        ((∀ op ty v, f.op ≠ .xcomb r op ty v) → s.reaches 1 dst src = false →
          ∃ t q, exec (.engineTransferBegin lcn f.id) s = .next t ∧ s.spares t [] ∧ t.mem = s.mem ∧
            q = ⟨7, 14, r.lcn⟩ ∧ t.fp? lcn f.id = some { f with stage := .ended (f.op.failToken q) (some q) }) ∧
        ((∀ op ty v, f.op ≠ .xcomb r op ty v) → s.reaches 1 dst src = true → (s.coreAt lcn).comb = [] →
          ∃ t leg, exec (.engineTransferBegin lcn f.id) s = .next t ∧ s.spares t [] ∧ t.mem = s.mem ∧
            t.fp? lcn f.id = some { f with stage := .begun, leg := leg } ∧ (way = .here → leg = none) ∧
            (∀ yx, way = .direct yx → leg = some ⟨s.fab.injected, f.op.cls, yx, lcn / 8, dst, false⟩) ∧
            ∀ w yx, way = .relay w yx → leg = some ⟨s.fab.injected, f.op.cls, yx, lcn / 8, w, true⟩))) ∧
    (∀ l, f.stage = .begun → f.leg = some l → l.relay = true → s.exchangeRuns lcn = true → s.legAhead f.leg = false →
      (s.wayOpen l.dst dst = false → ∃ t q, exec (.relayReinject lcn f.id) s = .next t ∧ s.spares t [] ∧ t.mem = s.mem ∧
        q = ⟨7, 14, r.lcn⟩ ∧ t.fp? lcn f.id = some { f with stage := .ended (f.op.failToken q) (some q) }) ∧
      (s.wayOpen l.dst dst = true → ∃ t, exec (.relayReinject lcn f.id) s = .next t ∧ s.spares t [] ∧ t.mem = s.mem ∧
        t.fp? lcn f.id = 
          some { f with leg := some ⟨s.fab.injected, 3, nsCode (s.nsEntry l.dst 3 dst) == 1, l.dst, dst, false⟩ }))

/-- What exchange packets do at their target. R281, R296 to R298, R300, R302, R304. -/
def Obligations.Arrivals : Prop :=
  ∀ (s : State) (lcn : Nat) (f : Fp) (r : Remote), s.fp? lcn f.id = some f → f.op.remote? = some r → s.arrivable lcn f = true →
  s.twinned lcn = false →
    (s.towerServes (r.lcn / 8) = false → ∀ e ∈ [Instr.xputPacketArrival lcn f.id 0, .xgetRequestArrival lcn f.id,
      .xcasArrival lcn f.id, .xflagArrival lcn f.id, .taskArrival lcn f.id], ∃ t q, exec e s = .next t ∧ s.spares t [] ∧
        t.mem = s.mem ∧ q = ⟨1, 16, f.op.target⟩ ∧
        t.fp? lcn f.id = some { f with stage := .ended (f.op.failToken q) (some q) }) ∧
    (s.towerServes (r.lcn / 8) = true → s.openTo r.lcn = false → ∀ e ∈ [Instr.xputPacketArrival lcn f.id 0, .xgetRequestArrival lcn f.id, .xcasArrival lcn f.id,
      .xflagArrival lcn f.id, .taskArrival lcn f.id], ∃ t q, exec e s = .next t ∧ s.spares t [] ∧ t.mem = s.mem ∧
        q = ⟨6, 12, f.op.target⟩ ∧ t.fp? lcn f.id = some { f with stage := .ended (f.op.failToken q) (some q) }) ∧
    (s.towerServes (r.lcn / 8) = true → s.openTo r.lcn = true → s.shadowCore r.lcn = none → s.settled →
      (∀ src n p c (ds : List Nat) ctr x, f.op = .xput r src n → p < (n + 1023) / 1024 → f.packets.contains p = false →
        ds = ((flat f.far).drop (1024 * p)).take 1024 → c = ds.zip ((((flat f.rd).drop (1024 * p)).take 1024).map s.byteAt) →
        ctr = 0x110 + bits r.addr 48 4 → x = (c.filter fun e => (s.viewOf r.lcn e.1).isSome).length →
        (∀ q, s.remoteRefused f r (some p) = some q → ∃ t, exec (.xputPacketArrival lcn f.id p) s = .next t ∧ s.spares t [] ∧
          t.mem = s.mem ∧ t.fp? lcn f.id = some { f with stage := .ended (0 - BitVec.ofNat 64 q.stat) (some q) }) ∧
        (s.remoteRefused f r (some p) = none → ∃ t g, exec (.xputPacketArrival lcn f.id p) s = .next t ∧ s.spares t [0x185, 0x120, ctr] ∧ s.wrote t c ∧
          t.fp? lcn f.id = some g ∧ g.packets = p :: f.packets ∧
          g.stage = (if (n + 1023) / 1024 ≤ f.packets.length + 1 then .ended (BitVec.ofNat 64 n) none else .begun) ∧
          (x = 0 → (t.coreAt r.lcn).reg ctr = (s.coreAt r.lcn).reg ctr) ∧
          (∀ v, v = (s.coreAt r.lcn).reg ctr → x ≠ 0 →
            bits ((t.coreAt r.lcn).reg ctr) 0 48 = (bits v 0 48 + 2 ^ 48 - x) % 2 ^ 48 ∧
            bit ((t.coreAt r.lcn).reg ctr) 62 = bit v 62 ∧
            bit ((t.coreAt r.lcn).reg ctr) 63 = (bit v 63 || (bit v 62 && decide ((bits v 0 48 + 2 ^ 48 - x) % 2 ^ 48 = 0))) ∧
            bit ((t.coreAt r.lcn).reg 0x120) (bits r.addr 48 4) =
              (bit v 63 || bit ((s.coreAt r.lcn).reg 0x120) (bits r.addr 48 4))))) ∧
      (∀ dst n, f.op = .xget r dst n → s.remoteRefused f r none = none → ∃ t, exec (.xgetRequestArrival lcn f.id) s = .next t ∧ s.spares t [0x185] ∧
        s.wrote t ((flat f.wr).zip ((flat f.far).map s.byteAt)) ∧
        t.fp? lcn f.id = some { f with stage := .ended (BitVec.ofNat 64 n) none }) ∧
      (∀ ty e v pa n old, f.op = .xcas r ty e v → n = (if ty = 0 ∨ ty = 3 then 4 else 8) → ty ≠ 3 →
        flat f.far = (List.range n).map (pa + ·) → e.toNat < 2 ^ (8 * n) → v.toNat < 2 ^ (8 * n) →
        old = ofLeBytes ((List.range n).map fun j => s.byteAt (pa + j)) →
        ∃ t, exec (.xcasArrival lcn f.id) s = .next t ∧ s.spares t [0x185] ∧
          t.fp? lcn f.id = some ({ f with stage := .ended (if ty = 0 then BitVec.ofInt 64 (sintOf 32 old) else BitVec.ofNat 64 old) none }) ∧
          (∀ j, j < n → (t.byteAt (pa + j)).toNat = (if old = e.toNat then v.toNat else old) / 2 ^ (8 * j) % 256) ∧
          ∀ p, p < pa ∨ pa + n ≤ p → t.byteAt p = s.byteAt p) ∧
      (∀ v, f.op = .xflag r v → ∃ t, exec (.xflagArrival lcn f.id) s = .next t ∧ s.spares t [0x185] ∧
        s.wrote t ((flat f.far).zip (leBytes 8 v.toNat)) ∧ t.fp? lcn f.id = some { f with stage := .ended 8 none }) ∧
      (∀ card base m st pa, f.op = .xtask r card → st = (s.coreAt r.lcn).reg 0x109 →
        ((s.coreAt r.lcn).arrivalQueue = none ∨ (s.coreAt r.lcn).arrivalQueue = some (base, m) ∧ m ≤ bits st 8 9 →
          ∃ t, exec (.taskArrival lcn f.id) s = .next t ∧ s.spares t [] ∧ t.mem = s.mem ∧
            t.fp? lcn f.id = some { f with stage := .ended (0 - 3) (some ⟨3, 11, r.lcn⟩) }) ∧
        ((s.coreAt r.lcn).arrivalQueue = some (base, m) → bits st 8 9 < m →
          s.viewPA r.lcn (base + 64 * ((bits st 0 8 + bits st 8 9) % m)) = some pa →
          ∃ t, exec (.taskArrival lcn f.id) s = .next t ∧ s.spares t [0x185, 0x109] ∧
            s.wrote t (((List.range 64).map (pa + ·)).zip
              (leBytes 8 (s.lcnShown lcn + (s.domOf lcn).sstep % 2 ^ 48 * 2 ^ 16) ++ ((flat f.rd).map s.byteAt).drop 8)) ∧
            t.fp? lcn f.id = some { f with stage := .ended 64 none } ∧
            bits ((t.coreAt r.lcn).reg 0x109) 0 8 = bits st 0 8 ∧ bits ((t.coreAt r.lcn).reg 0x109) 8 9 = bits st 8 9 + 1 ∧
            bits ((t.coreAt r.lcn).reg 0x109) 17 9 = (bits st 17 9 + 1) % 512)))

/-- Combining lines arrive, and twin transfers are compared. R271, R275, R326 to R328. -/
def Obligations.TwinsAndLines : Prop :=
  (∀ (s : State) (n : Nat) (l : SentLine), (s.arb.sent.drop n).head? = some l →
    (s.legAhead l.leg = true → exec (.combiningLineArrival n) s = .next s) ∧
    (l.arrived = false → s.legAhead l.leg = false → s.twinned l.lcn = false →
      (s.towerServes (l.line.target.toNat / 8) = false → ∃ t, exec (.combiningLineArrival n) s = .next t ∧ t.mem = s.mem ∧
        s.spares t [0x101, 0x102] ∧ t.arb.sent = s.arb.sent.filter (· ≠ l)) ∧
      (s.towerServes (l.line.target.toNat / 8) = true → s.shadowCore l.line.target.toNat = none →
        (∀ g, l.leg = some g → g.relay = true → s.wayOpen g.dst (l.line.target.toNat / 8) = true) →
        ∃ t, exec (.combiningLineArrival n) s = .next t ∧ s.spares t [] ∧ t.mem = s.mem ∧
          t.cores = s.cores ∧ t.arb.sent = s.arb.sent.filter (· ≠ l) ++
            [{ l with arrived := true, line := { l.line with home := s.homeOf l.line.home } }]))) ∧
  ∀ (s : State) (lcn h : Nat) (f g : Fp) (r x : Remote) (v w : Word), s.shadowCore lcn = some h → s.fp? lcn f.id = some f →
    f.op = .xflag r v → s.twinFp h f = some g → s.fp? h g.id = some g → g.op = .xflag x w → lcn ≠ h →
    (s.arrivable lcn f = false ∨ s.arrivable h g = false → exec (.twinPairMatch lcn f.id) s = .next s) ∧
    (s.arrivable lcn f = true → s.arrivable h g = true → s.settled → s.towerServes (r.lcn / 8) = true → s.openTo r.lcn = true →
      s.shadowCore r.lcn = none →
      (crc64 (f.op.header 0) = crc64 (g.op.header 0) → ∃ t, exec (.twinPairMatch lcn f.id) s = .next t ∧
        s.spares t [0x185] ∧ s.wrote t ((flat f.far).zip (leBytes 8 v.toNat)) ∧
        t.fp? lcn f.id = some { f with stage := .ended 8 none } ∧ t.fp? h g.id = some { g with stage := .ended 8 none }) ∧
      (crc64 (f.op.header 0) ≠ crc64 (g.op.header 0) → ∃ t, exec (.twinPairMatch lcn f.id) s = .next t ∧ s.spares t [0x187] ∧
        t.mem = s.mem ∧ t.fp? lcn f.id = some { f with stage := .lost 0 } ∧ t.fp? h g.id = some { g with stage := .lost 0 } ∧
        bit ((t.coreAt lcn).reg 0x187) 63 = true ∧ bits ((t.coreAt lcn).reg 0x187) 60 3 = 3))

/-- GETS: checks, waiting, and the value read. R20, R21, R94. -/
def Obligations.ReadsOfRegisters : Prop :=
  ∀ (s b : State) (d : BitVec 5) (n : BitVec 12) (sup : Bool) (chk : Option SrFail), b = s.begin → sup = (s.cx.priv != 0) →
  chk = srCheck n.toNat (s.k != 0) sup none → s.ready (.gets d n) = true →
    (chk = some .illegal → s.mayTrap → ∃ t, exec (.gets d n) s = .next t ∧
      s.traps t 0x01 ((encode (.gets d n)).setWidth 64) s.replayPc) ∧
    (chk = some .privilege → s.mayTrap → ∃ t, exec (.gets d n) s = .next t ∧
      s.traps t 0x02 ((encode (.gets d n)).setWidth 64) s.replayPc) ∧
    (chk = none → s.olderPending = true → ∃ t, exec (.gets d n) s = .next t ∧ s.waits t .older) ∧
    (chk = none → s.olderPending = false → ∃ t, exec (.gets d n) s = .next t ∧
      s.gives t d (b.srRead s.lcn s.k n.toNat sup) ∧
      (n = 0x001 → t.g d = if d = 0 then 0 else s.fpm &&& 0xFFF) ∧
      (n = 0x003 → t.g d = if d = 0 then 0 else BitVec.ofNat 64 (s.cx.cycles s.clock)) ∧
      (n = 0x009 → t.g d = if d = 0 then 0 else s.core.reg 0x009 &&& 0xFF) ∧
      (n = 0x04D → t.g d = if d = 0 then 0 else BitVec.ofNat 64 (s.domOf s.lcn).sstep) ∧
      (n = 0x090 → s.core.sb.length < 64 → t.g d =
        if d = 0 then 0 else BitVec.ofNat 64 (s.core.sb.length + if s.core.hold = true then 256 else 0)))

/-- SETS: checks, waiting, and the value written. R9, R20, R21, R94. -/
def Obligations.WritesOfRegisters : Prop :=
  ∀ (s b u : State) (d : BitVec 5) (n : BitVec 12) (v : Word) (sup : Bool) (chk : Option SrFail) (r : SrRow), b = s.begin →
  sup = (s.cx.priv != 0) → v = s.g d → chk = srCheck n.toNat (s.k != 0) sup (some v) → s.ready (.sets d n) = true →
    (chk = some .illegal → s.mayTrap → ∃ t, exec (.sets d n) s = .next t ∧
      s.traps t 0x01 ((encode (.sets d n)).setWidth 64) s.replayPc) ∧
    (chk = some .privilege → s.mayTrap → ∃ t, exec (.sets d n) s = .next t ∧
      s.traps t 0x02 ((encode (.sets d n)).setWidth 64) s.replayPc) ∧
    (chk = none → s.olderPending = true ∨ (n = 0x080 ∧ b.coreQuiet s.lcn = false) →
      ∃ t, exec (.sets d n) s = .next t ∧ s.waits t .older) ∧
    (chk = none → s.olderPending = false → (n = 0x080 → b.coreQuiet s.lcn = true) →
      (n ≠ 0x040 → b.srWrite s.lcn s.k n.toNat v sup = some u → exec (.sets d n) s = .next u.retire) ∧
      (n ≠ 0x040 → b.srWrite s.lcn s.k n.toNat v sup = none → s.mayTrap → ∃ t, exec (.sets d n) s = .next t ∧
        s.traps t 0x01 ((encode (.sets d n)).setWidth 64) s.replayPc) ∧
      (srRow n.toNat = some r → n.toNat ∈ [0x001, 0x041, 0x082, 0x083, 0x084] → ∃ t, exec (.sets d n) s = .next t ∧
        s.advances t ∧ s.keeps { Frame.none with sr := [n.toNat] } t ∧
        t.cx.reg n.toNat = (s.cx.reg n.toNat &&& ~~~(BitVec.ofNat 64 r.rw)) ||| (v &&& BitVec.ofNat 64 r.rw)) ∧
      (srRow n.toNat = some r → n.toNat ∈ [0x008, 0x009, 0x00A, 0x00B, 0x010, 0x011, 0x012, 0x013, 0x043, 0x048, 0x081, 0x086,
          0x08F, 0x0C3, 0x0C8, 0x108, 0x168, 0x169, 0x16A, 0x16C, 0x183, 0x184, 0x192] → ∃ t, exec (.sets d n) s = .next t ∧
        s.advances t ∧ s.keeps { Frame.none with cr := [n.toNat] } t ∧
        t.core.reg n.toNat = (s.core.reg n.toNat &&& ~~~(BitVec.ofNat 64 r.rw)) ||| (v &&& BitVec.ofNat 64 r.rw)))

/-- Writes of lnd, sbst, xlat, pspace, dmem, drect and mgov as events, and the governor window. R142, R190, R200, R242, R243,
R253, R279, R392, R400, R420. -/
def Obligations.RegisterEvents : Prop :=
  ∀ (s : State) (lcn : Nat),
    (∀ n v, n < 16 → (bits v 48 14 ≠ 0 → exec (.lndWrite lcn n v) s = .next s) ∧
      (bits v 48 14 = 0 → ∃ t, exec (.lndWrite lcn n v) s = .next t ∧ s.spares t [0x110 + n] ∧ t.mem = s.mem ∧
        (t.coreAt lcn).reg (0x110 + n) = v)) ∧
    (∃ t, exec (.sfqPop lcn) s = .next t ∧ s.spares t [] ∧ t.mem = s.mem ∧ (t.coreAt lcn).sfq = (s.coreAt lcn).sfq.tail ∧
      (t.coreAt lcn).hold = (s.coreAt lcn).hold) ∧
    (∃ t, exec (.sbstHoldClear lcn) s = .next t ∧ s.spares t [] ∧ t.mem = s.mem ∧ (t.coreAt lcn).hold = false ∧
      (t.coreAt lcn).sfq = (s.coreAt lcn).sfq) ∧
    (∀ v, v &&& ~~~(0x80000000000003FF : Word) = 0 → s.coreQuiet lcn = true →
      (bit v 63 = true → s.asidBusy (s.partOf lcn) (v.setWidth 10) = true → exec (.xlatWrite lcn v) s = .next s) ∧
      ((bit v 63 = true → s.asidBusy (s.partOf lcn) (v.setWidth 10) = false) → (s.coreAt lcn).reg 0x080 &&& ~~~(0x80000000000003FF : Word) = 0 →
        ∃ t, exec (.xlatWrite lcn v) s = .next t ∧ s.spares t [0x080] ∧ t.mem = s.mem ∧ (t.coreAt lcn).reg 0x080 = v)) ∧
    (∀ v p, v &&& ~~~(0x80000000000003FF : Word) = 0 → s.partHeld lcn = some p →
      (bit v 63 = true → s.asidBusy p (v.setWidth 10) = false) → ∃ t, exec (.pspaceWrite lcn v) s = .next t ∧ s.spares t [] ∧
        t.mem = s.mem ∧ t.cores = s.cores ∧ t.partReg lcn 0x1A3 &&& 0x80000000000003FF = v) ∧
    (∀ v, bits v 34 30 ≠ 0 → exec (.dmemWrite lcn v) s = .next s) ∧
    (∀ v, bits v 34 30 = 0 → ∃ t, exec (.dmemWrite lcn v) s = .next t ∧ s.spares t [0x048] ∧ t.mem = s.mem ∧
      bits ((t.coreAt lcn).reg 0x048) 8 26 = bits v 8 26 ∧ (t.coreAt lcn).mem = (s.coreAt lcn).mem) ∧
    (∀ n v, bits v 32 32 ≠ 0 → exec (.drectWrite lcn n v) s = .next s) ∧
    (∀ n v, 1 ≤ n → n ≤ 3 → bits v 32 32 = 0 →
      (s.drectBad lcn n v = true → exec (.drectWrite lcn n v) s = .next s) ∧
      (s.drectBad lcn n v = false → ∃ t, exec (.drectWrite lcn n v) s = .next t ∧ s.spares t [0x048 + n] ∧ t.mem = s.mem ∧
        bits ((t.coreAt lcn).reg (0x048 + n)) 0 32 = bits v 0 32 ∧ (t.coreAt lcn).mem = (s.coreAt lcn).mem)) ∧
    (∀ v, bits v 48 16 ≠ 0 → exec (.mgovWrite lcn v) s = .next s) ∧
    (∀ v c, bits v 48 16 = 0 → c = (s.coreAt lcn).governNow s.clock → ∃ t, exec (.mgovWrite lcn v) s = .next t ∧ t.mem = s.mem ∧
      (∀ l, l ≠ lcn → t.coreAt l = s.coreAt l) ∧ (t.coreAt lcn).mat = c.mat ∧ c.mat.el = (s.coreAt lcn).mat.el ∧
      (t.coreAt lcn).vec = (s.coreAt lcn).vec ∧ (t.coreAt lcn).sb = (s.coreAt lcn).sb ∧ (t.coreAt lcn).ta = (s.coreAt lcn).ta ∧
      (∀ k, (t.coreAt lcn).ctx k = (s.coreAt lcn).ctx k) ∧
      (∀ n, n ≠ 0x0C2 → n ≠ mgovNow → n ≠ mgcapNow → (t.coreAt lcn).reg n = (s.coreAt lcn).reg n) ∧
      bits ((t.coreAt lcn).reg 0x0C2) 0 16 = bits v 0 16 ∧ bits ((t.coreAt lcn).reg 0x0C2) 16 32 =
        if bits v 0 16 = 0 then bits v 16 32
        else min (bits v 16 32) (max 256 (bits ((s.coreAt lcn).reg 0x198) 0 24 * bits v 0 16 / 256))) ∧
    (s.governorDue lcn = false → exec (.governorWindowStart lcn) s = .next s) ∧
    (s.governorDue lcn = true → ∃ t, exec (.governorWindowStart lcn) s = .next t ∧ t.mem = s.mem ∧
      (t.coreAt lcn).reg mgovNow = (s.coreAt lcn).reg 0x0C2 ∧ (t.coreAt lcn).reg mgcapNow = (s.coreAt lcn).reg 0x198 ∧
      (t.coreAt lcn).mat.winAt = (s.coreAt lcn).mat.winAt + (s.coreAt lcn).governor.1 ∧
      (∀ wlen budget rate, wlen = bits ((s.coreAt lcn).reg 0x0C2) 0 16 → budget = bits ((s.coreAt lcn).reg 0x0C2) 16 32 →
        rate = bits ((s.coreAt lcn).reg 0x198) 0 24 → wlen ≠ 0 → budget ≠ 0 → (t.coreAt lcn).mat.rem =
          (min (max budget 256) (max 256 (rate * wlen / 256)) : Nat) + min (s.coreAt lcn).mat.rem 0) ∧
      (t.coreAt lcn).mat.el = (s.coreAt lcn).mat.el ∧ (t.coreAt lcn).mat.queue = (s.coreAt lcn).mat.queue ∧
      (∀ k, (t.coreAt lcn).ctx k = (s.coreAt lcn).ctx k) ∧
      (∀ l, l ≠ lcn → t.coreAt l = s.coreAt l) ∧
      ∀ n, n ≠ mgovNow → n ≠ mgcapNow → (t.coreAt lcn).reg n = (s.coreAt lcn).reg n)

/-- Traps of issue: CALLSV, illegal, privileged and out of phase. R31, R33, R53, R64, R95, R144: precise traps. -/
def Obligations.TrapEntries : Prop :=
  ∀ (s : State),
    (∀ n, s.ready (.callsv n) = true → s.mayTrap → ∃ t, exec (.callsv n) s = .next t ∧
      s.traps t 0x11 (n.setWidth 64) (s.cx.pc + 4)) ∧
    (∀ n, s.ready (.callsv n) = true → s.k = 0 → s.core.ta = true → s.olderPending = false →
      ∃ t, exec (.callsv n) s = .next t ∧ t.cx.st = .stopped ∧ t.core.pend.double = some (0x11, s.cx.pc) ∧
        t.tower.belfry = s.tower.belfry ++ [.doubleTrap s.lcn 0x11 s.cx.pc] ∧
        (∀ n, n < 0x158 ∨ 0x15F < n → t.core.reg n = s.core.reg n) ∧ t.mem = s.mem) ∧
    (∀ (i : Instr) (cause : BitVec 8) f, s.dropStaleHint.refusal i = some cause → 1 ≤ s.k → s.olderPending = false →
      ∃ t, issue i s f = .next t ∧ t.cx.st = .suspended ∧ s.keeps { Frame.none with traps := true, mmu := true } t ∧
        t.core.ta = s.core.ta ∧ t.core.pend = { s.core.pend with helpers := s.core.pend.helpers ++
          [{ h := s.k, cause := cause, info := (encode i).setWidth 64, ep := s.replayPc, imp := false }] }) ∧
    (∀ (i : Instr) (cause : BitVec 8) f, s.dropStaleHint.refusal i = some cause → s.mayTrap → ∃ t, issue i s f = .next t ∧
      s.traps t cause ((encode i).setWidth 64) s.replayPc) ∧
    (∀ (i : Instr), (traits i).supervisor = true → s.cx.priv = 0 → i.wf = true → s.dropStaleHint.hintClash i = false →
      s.reduced = false → s.k = 0 → i ≠ .hexit → s.dropStaleHint.refusal i = some 0x02) ∧
    (∀ (i : Instr), i.wf = false → s.dropStaleHint.refusal i = some 0x01) ∧
    (∀ (i : Instr), helperIllegal i = true → s.k ≠ 0 → s.dropStaleHint.refusal i = some 0x01) ∧
    (∀ (i : Instr), ((traits i).phase = .compute ∧ s.inExchange s.lcn = true ∨
        (traits i).phase = .exchange ∧ s.inExchange s.lcn = false) → (traits i).supervisor = false → i.wf = true →
      s.dropStaleHint.hintClash i = false → s.reduced = false → s.k = 0 → i ≠ .hexit → s.dropStaleHint.refusal i = some 0x03)

/-- Trap entries as events: precise, double, imprecise, helper traps, and flagu. R31, R33, R127, R311, R312: trap entry as an
event. -/
def Obligations.TrapEvents : Prop :=
  ∀ (s : State) (lcn : Nat) (c : Core) (x : Ctx), c = s.coreAt lcn → x = c.ctx 0 →
    (∀ cause info imp, c.ta = false → (if imp = true then s.controlOpen lcn = true
        else x.live = true ∧ x.halted = false ∧ c.mem.held = false ∧ x.late = [] ∧ c.mat.queue = []) →
      ∃ t d, exec (.trapEntry lcn cause info imp) s = .next t ∧ d = t.coreAt lcn ∧
      bits (d.reg 0x00A) 2 46 = (if cause = 0x11 then x.pc + 4 else x.faultPc).toNat / 4 ∧ d.reg 0x009 = cause.setWidth 64 ∧
      d.reg 0x00B = info ∧ d.reg 0x00C = BitVec.ofNat 64 (x.priv.toNat * 256 + if imp = true then 1 else 0) ∧ d.ta = true ∧
      (d.ctx 0).priv = 1 ∧ (d.ctx 0).pc = BitVec.ofNat 48 (bits (c.reg 0x008) 2 46 * 4) ∧
      s.keepsAt { Frame.none with cr := [0x009, 0x00A, 0x00B, 0x00C], level := true, traps := true, mmu := true } lcn 0 t ∧
      ∀ n, (d.ctx 0).reg n = x.reg n) ∧
    (∀ cause info, c.ta = true → x.live = true → x.halted = false → c.mem.held = false → x.late = [] → c.mat.queue = [] →
      ∃ t, exec (.trapEntry lcn cause info false) s = .next t ∧ ((t.coreAt lcn).ctx 0).st = .stopped ∧
        (∀ n, n < 0x158 ∨ 0x15F < n → (t.coreAt lcn).reg n = c.reg n) ∧
        (t.coreAt lcn).pend.double = some (cause, x.pc) ∧
        (t.towerAt (lcn / 8)).belfry = (s.towerAt (lcn / 8)).belfry ++
          [.doubleTrap lcn cause x.pc] ∧
        (∀ h, 1 ≤ h → h ≤ 10 → ((t.coreAt lcn).ctx h).st = .free) ∧ t.mem = s.mem ∧ ∀ l, l ≠ lcn → t.coreAt l = s.coreAt l) ∧
    (∀ n info, s.controlOpen lcn = true → c.nextCause = some (n, info) → n < 256 → ∃ t d, exec (.impreciseTrapTaken lcn) s = .next t ∧
      d = t.coreAt lcn ∧ bits (d.reg 0x00A) 2 46 = x.faultPc.toNat / 4 ∧ d.reg 0x009 = BitVec.ofNat 64 n ∧ d.reg 0x00B = info ∧
      d.reg 0x00C = BitVec.ofNat 64 (x.priv.toNat * 256 + 1) ∧ d.ta = true ∧ (d.ctx 0).priv = 1 ∧
      (d.ctx 0).pc = BitVec.ofNat 48 (bits (c.reg 0x008) 2 46 * 4) ∧ Tab.find? d.pend.causes n = none ∧
      (∀ m, m ≠ n → Tab.find? d.pend.causes m = Tab.find? c.pend.causes m) ∧
      s.keepsAt { Frame.none with cr := [0x009, 0x00A, 0x00B, 0x00C], level := true, traps := true, mmu := true } lcn 0 t) ∧
    (∀ p rest, c.pend.helpers = p :: rest → s.controlOpen lcn = true → c.nextCause = none →
      (∀ e ∈ c.pend.stores, e.ctx ≠ 0) → 1 ≤ p.h → p.h ≤ 10 → ∃ t d, exec (.helperTrapEntry lcn) s = .next t ∧ d = t.coreAt lcn ∧
      bits (d.reg 0x046) 2 46 = x.faultPc.toNat / 4 ∧ bits (d.reg 0x046) 48 2 = x.priv.toNat ∧
      bits (d.reg 0x00A) 2 46 = p.ep.toNat / 4 ∧ d.reg 0x009 = p.cause.setWidth 64 ∧ d.reg 0x00B = p.info ∧
      d.reg 0x00C = BitVec.ofNat 64 (p.h * 4096 + (c.ctx p.h).priv.toNat * 256 + if p.imp = true then 1 else 0) ∧
      d.ta = true ∧ (d.ctx 0).priv = 1 ∧ (d.ctx 0).pc = BitVec.ofNat 48 (bits (c.reg 0x008) 2 46 * 4) ∧
      d.pend.helpers = rest ∧
      s.keepsAt { Frame.none with cr := [0x046, 0x009, 0x00A, 0x00B, 0x00C], level := true, traps := true, mmu := true } lcn 0 t) ∧
    (c.pend.flags ≠ 0 → ∃ t, exec (.flaguUpdate lcn) s = .next t ∧ (t.coreAt lcn).pend.flags = 0 ∧ t.mem = s.mem ∧
      s.spares t [] ∧ ∀ n, n < 40 → (t.towerAt (lcn / 8)).flagu.getLsbD n =
        ((s.towerAt (lcn / 8)).flagu.getLsbD n ||
          (decide (5 * (lcn % 8) ≤ n ∧ n < 5 * (lcn % 8) + 5) && c.pend.flags.getLsbD (n - 5 * (lcn % 8)))))

/-- RETT to the control context: pc, level, TA and frame. R32. -/
def Obligations.TrapReturn : Prop :=
  ∀ (s : State), s.ready .rett = true → s.k = 0 → s.olderPending = false → s.core.fatal = false →
    bits (s.core.reg 0x00C) 12 4 = 0 → ∃ t, exec .rett s = .next t ∧
      t.cx.pc = BitVec.ofNat 48 (bits (s.core.reg 0x00A) 2 46 * 4) ∧ t.cx.priv = BitVec.ofNat 2 (bits (s.core.reg 0x00C) 8 2) ∧
      t.core.ta = false ∧ t.core.pend = s.core.pend ∧ t.cx.retired = s.cx.retired + 1 ∧
      s.keeps { Frame.none with level := true, traps := true } t

/-- RETT of a helper trap, HALT, HSTART, HEXIT and the end of a helper. R96, R128, R313, R314: the other returns, and HALT. R35,
R43, R124 to R126. -/
def Obligations.HelpersAndHalt : Prop :=
  (∀ (s : State) (h : Nat), s.k = 0 →
     (s.ready .rett = true → s.olderPending = false → s.core.fatal = false → h = bits (s.core.reg 0x00C) 12 4 → h ≠ 0 →
       ∃ t, exec .rett s = .next t ∧ t.cx.pc = BitVec.ofNat 48 (bits (s.core.reg 0x046) 2 46 * 4) ∧
         t.cx.priv = BitVec.ofNat 2 (bits (s.core.reg 0x046) 48 2) ∧ t.core.ta = false ∧
         s.keeps { Frame.none with level := true, traps := true, ctxs := true } t ∧
         (h ≤ 10 → (s.core.ctx h).st = .suspended → (t.core.ctx h).st = .running ∧
           (t.core.ctx h).pc = BitVec.ofNat 48 (bits (s.core.reg 0x00A) 2 46 * 4) ∧
           (t.core.ctx h).priv = BitVec.ofNat 2 (bits (s.core.reg 0x00C) 8 2) ∧ (t.core.ctx h).g = (s.core.ctx h).g) ∧
         ∀ j, j ≠ 0 → (j ≠ h ∨ (s.core.ctx h).st ≠ .suspended) → t.core.ctx j = s.core.ctx j) ∧
     (∀ i, (i = .halt ∨ i = .rett ∧ s.core.fatal = true) → s.ready i = true → s.coreQuiet s.lcn = true → s.core.hold = false →
       s.core.sb = [] → ∃ u : State, exec i s = .next (u.settleCore s.lcn) ∧ u.cx.st = .stopped ∧
         (∀ j, 1 ≤ j → j ≤ 10 → (u.core.ctx j).st = .free) ∧ (∀ r, u.cx.gr r = s.cx.gr r) ∧ u.core.sb = [] ∧
         (u.towerAt (s.lcn / 8)).belfry = (s.towerAt (s.lcn / 8)).belfry ++ [.halt s.lcn (s.cx.pc + 4)] ∧
         s.keeps { Frame.none with ctxs := true, mmu := true, traps := true, towers := true, fab := true, engines := true } u) ∧
     (s.ready .halt = true → s.coreQuiet s.lcn = true → s.core.hold = false → s.core.sb ≠ [] → ∃ t m,
       exec .halt s = .next t ∧ s.waits t (.halt m) ∧ (s.cx.wait = none → m = false))) ∧
  (∀ (s : State),
     (∀ d a b, s.ready (.hstart d a b) = true →
       ((s.g a).toNat % 4 ≠ 0 → s.mayTrap → ∃ t, exec (.hstart d a b) s = .next t ∧ s.traps t 0x04 (s.g a) s.replayPc) ∧
       ((s.g a).toNat % 4 = 0 → (∀ h, 1 ≤ h → h ≤ 10 → (s.core.ctx h).st ≠ .free) → ∃ t, exec (.hstart d a b) s = .next t ∧
         s.gives t d 0) ∧
       (∀ h, (s.g a).toNat % 4 = 0 → s.k = 0 → 1 ≤ h → h ≤ 10 → (s.core.ctx h).st = .free →
         (∀ j, 1 ≤ j → j < h → (s.core.ctx j).st ≠ .free) → ∃ t y, exec (.hstart d a b) s = .next t ∧ s.advances t ∧
         t.g d = (if d = 0 then 0 else BitVec.ofNat 64 h) ∧ s.keeps { Frame.none with g := [d], ctxs := true } t ∧
         (∀ j, j ≠ 0 → j ≠ h → t.core.ctx j = s.core.ctx j) ∧ y = t.core.ctx h ∧ y.st = .running ∧ y.pc = (s.g a).setWidth 48 ∧
         y.priv = s.cx.priv ∧ y.gr 1 = s.g b ∧ y.gr 2 = BitVec.ofNat 64 (s.lcnShown s.lcn) ∧
         y.gr 3 = BitVec.ofNat 64 (s.lcn % 8) ∧ (∀ r, 3 < r.toNat → y.gr r = 0) ∧
         (∀ n, y.reg n = if 0x082 ≤ n ∧ n ≤ 0x084 then s.cx.reg n else 0) ∧ y.cycles s.clock = 0 ∧ y.hint = Hint.none)) ∧
     (s.ready .hexit = true → s.olderPending = false → s.drainsFirst = false → s.k ≤ 10 → s.cx.st ≠ .free → ∃ t, exec .hexit s = .next t ∧
       t.cx = { Ctx.empty .free with retired := s.cx.retired + 1, boost := s.cx.boost, boostEnd := s.cx.boostEnd } ∧ (∀ j, j ≠ s.k → t.core.ctx j = s.core.ctx j) ∧
       t.tower = s.tower.dropPhasers s.lcn s.k ∧ t.mem = s.mem ∧ t.core.vec = s.core.vec ∧ t.core.sb = s.core.sb ∧
       (∀ l, l ≠ s.lcn → t.coreAt l = s.coreAt l)) ∧
     (∀ lcn h y, y = (s.coreAt lcn).ctx h → 1 ≤ h → h ≤ 10 → y.st ≠ .free → ∃ t, exec (.helperKill lcn h) s = .next t ∧
       (t.coreAt lcn).ctx h = { Ctx.empty .free with retired := y.retired, boost := y.boost, boostEnd := y.boostEnd } ∧
       (∀ j, j ≠ h → (t.coreAt lcn).ctx j = (s.coreAt lcn).ctx j) ∧ (t.coreAt lcn).sb = (s.coreAt lcn).sb ∧
       t.towerAt (lcn / 8) = (s.towerAt (lcn / 8)).dropPhasers lcn h ∧ t.mem = s.mem ∧
       (∀ n, (t.coreAt lcn).reg n = (s.coreAt lcn).reg n) ∧ (t.coreAt lcn).vec = (s.coreAt lcn).vec ∧
       ∀ l, l ≠ lcn → t.coreAt l = s.coreAt l))

/-- GRID, GRAISE, GNEXT and GKILL. R135 to R139, R305. R64, R126, R140. -/
def Obligations.Groups : Prop :=
  (∀ (s : State) (d a : BitVec 5) (dm : Domain) (c : Core), dm = s.domOf s.lcn → c = s.core.closeGroup →
     (s.ready (.grid a) = true → ∃ t, exec (.grid a) s = .next t ∧ s.advances t ∧ s.keeps { Frame.none with member := true } t ∧
       t.core.mem = { s.core.mem with proposal := some (min (s.g a).toNat (2 ^ 48 - 1)) }) ∧
     (s.ready (.graise d a) = true → s.core.mem.ahead = [] → ∀ n, n = min (dm.count + (s.g a).toNat) (2 ^ 48 - 1) →
       ∃ t, exec (.graise d a) s = .next t ∧ s.advances t ∧ s.keeps { Frame.none with g := [d], arb := true, cores := true } t ∧
         t.g d = (if d = 0 then 0 else BitVec.ofNat 64 n) ∧ t.domOf s.lcn = { dm with count := n } ∧ s.tellsTwin t (BitVec.ofNat 64 n) ∧
         ∀ k, k ≠ s.core.domKey → t.dom k = s.dom k) ∧
     (∀ w rest, s.core.mem.ahead = w :: rest →
       (s.ready (.graise d a) = true → ∃ t, exec (.graise d a) s = .next t ∧ s.advances t ∧
         s.keeps { Frame.none with g := [d], member := true } t ∧ t.g d = (if d = 0 then 0 else w) ∧
         t.core.mem = { s.core.mem with ahead := rest }) ∧
       (s.ready (.gnext d) = true → c.tasksDue = 0 → w ≠ BitVec.allOnes 64 → ∃ t, exec (.gnext d) s = .next t ∧ s.advances t ∧
         s.keeps { Frame.none with g := [d], cr := [0x109], member := true } t ∧ t.g d = (if d = 0 then 0 else w) ∧
         t.core.reg 0x109 = c.reg 0x109 ∧ t.core.mem = { c.mem with ahead := rest, opened := true, task := false,
                                                                     ident := BitVec.ofNat 48 w.toNat, holdsTask := false })) ∧
     (s.ready (.gnext d) = true →
       (∀ id, 0 < c.tasksDue → id = bits (c.reg 0x108) 12 36 * 4096 + 64 * bits (c.reg 0x109) 0 8 →
         ∃ t, exec (.gnext d) s = .next t ∧ s.advances t ∧ s.keeps { Frame.none with g := [d], cr := [0x109], member := true } t ∧
           t.g d = (if d = 0 then 0 else BitVec.ofNat 64 (2 ^ 63 + id)) ∧ t.core.reg 0x109 = c.reg 0x109 ∧
           t.core.mem = { c.mem with opened := true, task := true, ident := BitVec.ofNat 48 id, holdsTask := true }) ∧
       (c.tasksDue = 0 → s.core.mem.ahead = [] → dm.next < dm.count → ∃ t, exec (.gnext d) s = .next t ∧ s.advances t ∧
         s.keeps { Frame.none with g := [d], cr := [0x109], member := true, arb := true, cores := true } t ∧
         s.tellsTwin t (BitVec.ofNat 64 dm.next) ∧
         t.g d = (if d = 0 then 0 else BitVec.ofNat 64 dm.next) ∧ t.core.reg 0x109 = c.reg 0x109 ∧
         t.core.mem = { c.mem with opened := true, task := false, ident := BitVec.ofNat 48 dm.next, holdsTask := false } ∧
         t.domOf s.lcn = { dm with next := dm.next + 1 } ∧ ∀ k, k ≠ s.core.domKey → t.dom k = s.dom k) ∧
       (c.tasksDue = 0 → s.core.mem.ahead = [] → dm.count ≤ dm.next → ∃ t, exec (.gnext d) s = .next t ∧ s.advances t ∧
         s.keeps { Frame.none with g := [d], cr := [0x109], member := true, cores := true } t ∧ s.tellsTwin t (BitVec.allOnes 64) ∧
         t.g d = (if d = 0 then 0 else BitVec.allOnes 64) ∧ t.core.reg 0x109 = c.reg 0x109 ∧ t.core.mem = c.mem)) ∧
     c.mem = { s.core.mem with opened := false, task := false, holdsTask := false } ∧
     (s.core.mem.opened = false ∨ s.core.mem.holdsTask = false → c = { s.core with mem := c.mem }) ∧
     (s.core.mem.opened = true → (s.core.mem.holdsTask = true →
       bits (c.reg 0x109) 0 8 = (bits (s.core.reg 0x109) 0 8 + 1) % (bits (s.core.reg 0x108) 0 8 + 1) ∧
       (0 < bits (s.core.reg 0x109) 8 9 → bits (c.reg 0x109) 8 9 = bits (s.core.reg 0x109) 8 9 - 1)))) ∧
  (∀ (s : State), s.ready .gkill = true → s.k = 0 →
     (s.core.mem.opened = false → s.mayTrap → ∃ t, exec .gkill s = .next t ∧
       s.traps t 0x01 ((encode .gkill).setWidth 64) s.replayPc) ∧
     (s.core.mem.opened = true → ∃ t, exec .gkill s = .next t ∧ t.cx.retired = s.cx.retired + 1 ∧ t.cx.pc = s.cx.pc + 4 ∧
       t.core.mem = { s.core.mem with opened := false, task := false, holdsTask := false,
                                      killed := BitVec.ofNat 8 (min (s.core.mem.killed.toNat + 1) 255) } ∧
       (∀ q, Tab.find? t.core.hq q = none) ∧ (∀ h, 1 ≤ h → h ≤ 10 → (t.core.ctx h).st = .free) ∧
       (∀ n, 0x07A ≤ n → n ≤ 0x07C → t.cx.reg n = 0) ∧ bits (t.core.reg 0x00A) 2 46 = bits (s.core.reg 0x043) 2 46 ∧
       bits (t.core.reg 0x00C) 12 4 = 0 ∧ bits (t.core.reg 0x00C) 8 2 = 0 ∧ t.core.hold = false ∧ t.core.sfq = s.core.sfq ∧
       t.core.sb = (if s.core.hold = true then [] else s.core.sb.filter (fun e => !(s.core.sfq.any fun r => r.seq < e.seq))) ∧
       (∀ f ∈ t.core.fps, f.local? = true → f.over = true) ∧ t.core.vec = s.core.vec ∧ (∀ r, t.cx.gr r = s.cx.gr r) ∧
       (s.settled ∨ (∀ f ∈ s.core.fps, f.local? = true → f.going = false) →
         (∀ pa, (∀ f ∈ s.core.fps, f.local? = true → f.going = true → pa ∉ flat f.wr) → t.byteAt pa = s.byteAt pa) ∧
         (∀ n, n ∉ [0x00A, 0x00C, 0x109] → n < 0x158 ∨ 0x15F < n → t.core.reg n = s.core.reg n) ∧
         (∀ l, l ≠ s.lcn → t.coreAt l = s.coreAt l)) ∧
       ∀ g, s.gang? s.core.mem.gang = some g → (t.gang? s.core.mem.gang).map (·.killed) =
         some (if g.covers s.lcn then min (g.killed + 1) (2 ^ 32 - 1) else g.killed)))

/-- QPUSH and QPOP: values, waiting, and cause 0x10. R131, R132. -/
def Obligations.Queues : Prop :=
  ∀ (s : State) (r : BitVec 5) (q : BitVec 3) (xs : List Word), xs = s.core.queue q.toNat →
    (s.ready (.qpush r q) = true →
      (xs.length < 16 → ∃ t, exec (.qpush r q) s = .next t ∧ s.advances t ∧ s.keeps { Frame.none with queues := true } t ∧
        t.core.queue q.toNat = xs ++ [s.g r] ∧ ∀ j, j ≠ q.toNat → t.core.queue j = s.core.queue j) ∧
      (16 ≤ xs.length → s.core.partner s.k q.toNat 8 = true → ∃ t, exec (.qpush r q) s = .next t ∧
        s.waits t (.queueFull q.toNat) ∧ t.cx.st = .blocked) ∧
      (16 ≤ xs.length → s.core.partner s.k q.toNat 8 = false → s.mayTrap → ∃ t, exec (.qpush r q) s = .next t ∧
        s.traps t 0x10 ((encode (.qpush r q)).setWidth 64) s.replayPc)) ∧
    (s.ready (.qpop r q) = true →
      (∀ x rest, xs = x :: rest → ∃ t, exec (.qpop r q) s = .next t ∧ s.advances t ∧
        s.keeps { Frame.none with g := [r], queues := true } t ∧ t.g r = (if r = 0 then 0 else x) ∧
        t.core.queue q.toNat = rest ∧ ∀ j, j ≠ q.toNat → t.core.queue j = s.core.queue j) ∧
      (xs = [] → s.core.partner s.k q.toNat 0 = true → ∃ t, exec (.qpop r q) s = .next t ∧
        s.waits t (.queueEmpty q.toNat) ∧ t.cx.st = .blocked) ∧
      (xs = [] → s.core.partner s.k q.toNat 0 = false → s.mayTrap → ∃ t, exec (.qpop r q) s = .next t ∧
        s.traps t 0x10 ((encode (.qpop r q)).setWidth 64) s.replayPc)) ∧
    (∀ lcn w, ((s.coreAt lcn).ctx 0).wait = some (.queueFull q.toNat) → 16 ≤ ((s.coreAt lcn).queue q.toNat).length →
      (s.coreAt lcn).partner 0 q.toNat 8 = false → (s.coreAt lcn).ta = false → ((s.coreAt lcn).ctx 0).late = [] →
      ((s.coreAt lcn).ctx 0).halted = false → (s.coreAt lcn).mem.held = false →
      (s.coreAt lcn).mat.queue = [] → ({ s with lcn := lcn, k := 0 } : State).wordHere = some w → ∃ t d,
        exec (.queueOverflowOrUnderflow lcn 0) s = .next t ∧ d = t.coreAt lcn ∧ d.reg 0x009 = 0x10 ∧ d.reg 0x00B = w.setWidth 64 ∧
        bits (d.reg 0x00A) 2 46 = ((s.coreAt lcn).ctx 0).faultPc.toNat / 4 ∧ d.ta = true ∧ (d.ctx 0).priv = 1 ∧
        (d.ctx 0).pc = BitVec.ofNat 48 (bits ((s.coreAt lcn).reg 0x008) 2 46 * 4) ∧
        s.keepsAt { Frame.none with cr := [0x009, 0x00A, 0x00B, 0x00C], level := true, traps := true, mmu := true } lcn 0 t)

/-- Phasers: the completion of a phase, and PHREG, PHDROP, PHSIG, PHWAIT, PHNEXT. R151: a phase completes when a signalling
member takes part and each has signalled it. R152, R153. -/
def Obligations.Phasers : Prop :=
  (∀ (p : Phaser) (due : Prop), due = ((p.dropped = true ∨ ∃ m ∈ p.members, m.mode ≠ 1) ∧ ∀ m ∈ p.members, m.mode ≠ 1 → p.p < m.sigma) →
     (due → p.settle = { p with p := p.p + 1, dropped := false }) ∧ (¬ due → p.settle = p)) ∧
  (∀ (s : State) (b : BitVec 5) (m : BitVec 2) (p : Phaser) (mine : PhMember → Bool) (fr : Frame), p = s.phaser b →
   mine = (fun x => x.lcn == s.lcn && x.k == s.k) → fr = { Frame.none with towers := true } →
     (s.ready (.phreg b m) = true → s.member? b = none → (p.owner = 0 ∨ p.owner = s.core.mem.gang) →
       ∃ t, exec (.phreg b m) s = .next t ∧ s.advances t ∧ s.keeps fr t ∧ (∀ n, n ≠ b → t.phaser n = s.phaser n) ∧
         t.phaser b = Phaser.settle { p with owner := s.core.mem.gang, members := p.members ++
           [⟨s.lcn, s.k, m.toNat, p.p + 1, if m = 1 then p.p else p.p + 1⟩] }) ∧
     (s.ready (.phreg b m) = true → p.owner ≠ 0 → p.owner ≠ s.core.mem.gang → s.mayTrap → ∃ t, exec (.phreg b m) s = .next t ∧
       s.traps t 0x01 ((encode (.phreg b m)).setWidth 64) s.replayPc) ∧
     (∀ i ∈ [Instr.phdrop b, .phsig b, .phwait b, .phnext b], s.ready i = true → s.member? b = none → s.mayTrap →
       ∃ t, exec i s = .next t ∧ s.traps t 0x01 ((encode i).setWidth 64) s.replayPc) ∧
     (∀ x, s.member? b = some x →
       (s.ready (.phreg b m) = true → s.mayTrap → ∃ t, exec (.phreg b m) s = .next t ∧
         s.traps t 0x01 ((encode (.phreg b m)).setWidth 64) s.replayPc) ∧
       (s.ready (.phdrop b) = true → ∃ t, exec (.phdrop b) s = .next t ∧ s.advances t ∧ s.keeps fr t ∧
         (∀ n, n ≠ b → t.phaser n = s.phaser n) ∧ t.phaser b = Phaser.settle
           { p with members := p.members.filter fun y => !mine y, dropped := p.dropped || decide (x.mode ≠ 1) }) ∧
       (s.ready (.phsig b) = true → x.mode = 1 → s.mayTrap → ∃ t, exec (.phsig b) s = .next t ∧
         s.traps t 0x01 ((encode (.phsig b)).setWidth 64) s.replayPc) ∧
       (s.ready (.phsig b) = true → x.mode ≠ 1 → s.drainsFirst = false →
         (x.sigma ≠ p.p → ∃ t, exec (.phsig b) s = .next t ∧ s.waits t (.phaser b.toNat)) ∧
         (x.sigma = p.p → ∃ t, exec (.phsig b) s = .next t ∧ s.advances t ∧ s.keeps fr t ∧
           (∀ n, n ≠ b → t.phaser n = s.phaser n) ∧ t.phaser b = Phaser.settle
             { p with members := mapIf mine (fun y => { y with sigma := y.sigma + 1 }) p.members })) ∧
       (s.ready (.phwait b) = true → x.mode = 0 → s.mayTrap → ∃ t, exec (.phwait b) s = .next t ∧
         s.traps t 0x01 ((encode (.phwait b)).setWidth 64) s.replayPc) ∧
       (s.ready (.phwait b) = true → x.mode ≠ 0 →
         (p.p ≤ x.w → ∃ t, exec (.phwait b) s = .next t ∧ s.waits t (.phaser b.toNat)) ∧
         (x.w < p.p → ∃ t, exec (.phwait b) s = .next t ∧ s.advances t ∧ s.keeps fr t ∧
           (∀ n, n ≠ b → t.phaser n = s.phaser n) ∧ t.phaser b = Phaser.settle
             { p with members := mapIf mine (fun y => { y with w := y.w + 1 }) p.members })) ∧
       (s.ready (.phnext b) = true → x.mode ≠ 2 → s.mayTrap → ∃ t, exec (.phnext b) s = .next t ∧
         s.traps t 0x01 ((encode (.phnext b)).setWidth 64) s.replayPc) ∧
       (s.ready (.phnext b) = true → x.mode = 2 → s.cx.signalled = some b.toNat →
         (p.p ≤ x.w → ∃ t, exec (.phnext b) s = .next t ∧ s.waits t (.phaser b.toNat)) ∧
         (x.w < p.p → ∃ t, exec (.phnext b) s = .next t ∧ s.advances t ∧ s.keeps fr t ∧ t.cx.signalled = none ∧
           (∀ n, n ≠ b → t.phaser n = s.phaser n) ∧ t.phaser b = Phaser.settle
             { p with members := mapIf mine (fun y => { y with w := y.w + 1 }) p.members })) ∧
       (s.ready (.phnext b) = true → x.mode = 2 → s.cx.signalled = none → s.drainsFirst = false → x.sigma = p.p → p.p ≤ x.w →
         ∀ q, q = Phaser.settle { p with members := mapIf mine (fun y => { y with sigma := y.sigma + 1 }) p.members } →
         (q.p = p.p → ∃ t, exec (.phnext b) s = .next t ∧ t.cx.pc = s.cx.pc ∧ t.cx.wait = some (.phaser b.toNat) ∧
           t.cx.signalled = some b.toNat ∧ s.keeps fr t ∧ t.phaser b = q) ∧
         (q.p ≠ p.p → x.w = p.p → ∃ t, exec (.phnext b) s = .next t ∧ s.advances t ∧ s.keeps fr t ∧ t.cx.signalled = none ∧
           t.phaser b = Phaser.settle { q with members := mapIf mine (fun y => { y with w := y.w + 1 }) q.members }))))

/-- STEP.X and STEP.C, XEXPECT and XWAIT. R139, R144, R145. R298, R299. -/
def Obligations.SuperstepsAndLandings : Prop :=
  (∀ (s : State) (x : Bool) (i : Instr) (c : Core) (p : Fp → Bool) (fr : Frame), i = (if x then .stepX else .stepC) →
   p = (if x then Fp.local? else fun f => f.op.remote?.isSome) → s.ready i = true → s.k = 0 →
   c = (if x then s.core.closeGroup else s.core) → fr = { Frame.none with cr := if x then [0x109] else [], member := true } →
     (s.begin.stepReady p = true →
       ∃ u : State, exec i s = .next ((u.domCheck s.core.domKey).windowCheck) ∧ u.cx.retired = s.cx.retired + 1 ∧
         u.cx.st = .blocked ∧ u.core.mem.held = true ∧ u.core.mem.opened = c.mem.opened ∧
         u.core.mem.arrived = some (min (s.clock - (s.domOf s.lcn).phaseStart) (2 ^ 32 - 1)) ∧
         u.core.mem.proposal = s.core.mem.proposal ∧ s.keeps fr u) ∧
     (s.begin.stepReady p = false →
       ∃ t, exec i s = .next t ∧ t.cx.pc = s.cx.pc ∧ t.cx.retired = s.cx.retired ∧ t.cx.wait = some .drain ∧
         t.core.mem.opened = c.mem.opened ∧ t.core.mem.arrived = s.core.mem.arrived ∧ s.keeps fr t)) ∧
  (∀ (s : State) (a : BitVec 5) (k : BitVec 4) (n cnt : Nat) (r : Word), n = 0x110 + k.toNat → r = s.core.reg n →
   cnt = (bits r 0 48 + min (s.g a).toNat (2 ^ 47 - 1)) % 2 ^ 48 →
     (s.ready (.xexpect a k) = true → ∃ t, exec (.xexpect a k) s = .next t ∧ s.advances t ∧
       s.keeps { Frame.none with cr := [n] } t ∧ bits (t.core.reg n) 0 48 = cnt ∧ bit (t.core.reg n) 62 = true ∧
       bit (t.core.reg n) 63 = decide (cnt = 0)) ∧
     (s.ready (.xwait k) = true → (bit r 63 = true ∨ (bit r 62 = false ∧ bits r 0 48 = 0)) →
       ∃ t, exec (.xwait k) s = .next t ∧ s.advances t ∧ s.keeps Frame.none t) ∧
     (s.ready (.xwait k) = true → bit r 63 = false → (bit r 62 = true ∨ bits r 0 48 ≠ 0) →
       ∃ t, exec (.xwait k) s = .next t ∧ s.waits t .landing ∧ t.cx.st = .blocked))

/-- TLBINV and TLBRETIRE. R249, R250. R243, R250. -/
def Obligations.TlbInvalidations : Prop :=
  (∀ (s b : State) (a c : BitVec 5) (p : Nat) (asid : BitVec 10), b = s.begin → p = s.partOf s.lcn → asid = (s.g c).setWidth 10 →
     ((s.g a).toNat < 2 ^ 32 → s.ready (.tlbinvVa a c) = true → s.flush? = none → s.olderPending = false → s.drainsFirst = false →
       ∃ t, exec (.tlbinvVa a c) s = .next t ∧ s.advances t ∧ s.keeps Frame.none t) ∧
     ∀ e ∈ ([(.tlbinvVa a c, ⟨p, some asid, some (s.g a).toNat⟩), (.tlbinvAsid c, ⟨p, some asid, none⟩),
         (.tlbinvPart, ⟨p, none, none⟩)] : List (Instr × Drop)),
       (e.1 = .tlbinvVa a c → 2 ^ 32 ≤ (s.g a).toNat) → s.ready e.1 = true →
       (s.flush? = none → s.drainsFirst = true ∨ s.olderPending = true →
         ∃ t, exec e.1 s = .next t ∧ s.waits t .drain) ∧
       (s.flush? = none → s.olderPending = false → s.drainsFirst = false → ∃ t, exec e.1 s = .next t ∧
         s.keeps { Frame.none with mmu := true, cores := true, towers := true, fab := true } t ∧ t.core.mail = s.core.mail ∧
         (∀ l, (t.coreAt l).tlb = (s.coreAt l).tlb.filter (fun x => !e.2.tlb x)) ∧
         (∀ n, (t.towerAt n).walk = (s.towerAt n).walk.filter (fun x => !e.2.walk x)) ∧
         (∀ l, l ≠ s.lcn → t.coreAt l = { s.coreAt l with tlb := (s.coreAt l).tlb.filter (fun x => !e.2.tlb x) }) ∧
         (b.transfersOf p = [] → b.drainsOf p = [] → (∀ o ∈ s.fab.proxies, s.partOf o.lcn ≠ p) → s.advances t ∧ t.flush? = none) ∧
         (b.transfersOf p ≠ [] → (∀ x ∈ b.transfersOf p, (s.coreAt x.1).fps.any (fun f => f.id == x.2) = true) →
           t.cx.pc = s.cx.pc ∧ t.cx.wait = some .drain ∧ t.flush?.isSome = true)) ∧
       (∀ f, s.flush? = some f → s.flushDone f = true → (s.fab.flushing.filter fun x => x.lcn == s.lcn && x.k == s.k) = [f] →
         ∃ t, exec e.1 s = .next t ∧ s.advances t ∧ s.keeps { Frame.none with fab := true } t ∧ t.flush? = none) ∧
       (∀ f, s.flush? = some f → s.flushDone f = false → ∃ t, exec e.1 s = .next t ∧ s.waits t .drain)) ∧
  (∀ (s b : State) (a : BitVec 5) (p : Nat) (n : BitVec 10) (d : Drop), b = s.begin → p = s.partOf s.lcn →
   n = (s.g a).setWidth 10 → d = ⟨p, some n, none⟩ → s.ready (.tlbretire a) = true → s.flush? = none →
     (s.olderPending = true ∨ s.asidBusy p n = true → ∃ t, exec (.tlbretire a) s = .next t ∧ s.waits t .drain) ∧
     (s.olderPending = false → s.asidBusy p n = false → ∃ t, exec (.tlbretire a) s = .next t ∧ (b.transfersOf p = [] → b.drainsOf p = [] →
         (∀ o ∈ s.fab.proxies, s.partOf o.lcn ≠ p) → s.advances t ∧ t.asidBusy p n = false) ∧
       s.keeps { Frame.none with cr := [0x080], mmu := true, stores := true, cores := true, towers := true, fab := true } t ∧
       (∀ m, (t.towerAt m).walk = (s.towerAt m).walk.filter (fun x => !d.walk x)) ∧
       (∀ l, (t.coreAt l).tlb = (s.coreAt l).tlb.filter (fun x => !d.tlb x)) ∧
       ∀ e ∈ s.cores, s.partOf e.1 = p → (s.coreAt e.1).bound = some n → (t.coreAt e.1).bound = none))

/-- CAPMINT, page walks, answers of the belfry, and the faults of loads, atomics and fetches. R381, R382. R244 to R248, R251,
R252. R29, R242, R244, R251, R311: permission traps and blocking of loads, atomics and fetches. -/
def Obligations.WalksAndCapabilities : Prop :=
  (∀ (s : State) (d a : BitVec 5) (c p : Nat), p = s.partOf s.lcn → s.ready (.capmint d a) = true →
   c = (s.g a).toNat + p % 64 * 2 ^ 16 + s.fab.mapgen.toNat * 2 ^ 22 →
     (bits (s.g a) 16 48 ≠ 0 → s.mayTrap → ∃ t, exec (.capmint d a) s = .next t ∧ s.traps t 0x0B (s.g a) s.replayPc) ∧
     (bits (s.g a) 16 48 = 0 → ∃ t, exec (.capmint d a) s = .next t ∧
       s.gives t d (BitVec.ofNat 64 (sealOf (s.partAt p).key c * 2 ^ 38 + c)))) ∧
  ((∀ (s : State) (lcn part root : Nat) (va : BitVec 48) (n : BitVec 10) (v : Word) (e : TlbEnt) (hit : TlbEnt → Bool),
     (s.coreAt lcn).bound = some n → isVirtual va.toNat = true → part = s.partOf lcn → root = (s.coreAt lcn).root →
     hit = (fun x => x.isFor part n (va.toNat / 2 ^ 18)) → (s.coreAt lcn).tlb.find? hit = none →
     (∀ o, o / 8 = lcn / 8 → o ≠ lcn → (s.coreAt o).tlb.find? hit = none) → (s.walk (some (lcn / 8)) part n root va.toNat).1 = .leaf v →
     e = ⟨part, n, BitVec.ofNat 30 (va.toNat / 2 ^ 18), BitVec.ofNat 38 (bits v 18 38), BitVec.ofNat 7 (bits v 0 7)⟩ →
     ∃ t, exec (.pageWalk lcn va) s = .next t ∧ s.spares t [] ∧ t.mem = s.mem ∧
       (t.coreAt lcn).tlb = (e :: (s.coreAt lcn).tlb.filter fun x => !hit x).take 32 ∧
       ∀ l, l ≠ lcn → t.coreAt l = s.coreAt l) ∧
   (∀ (s : State) (part : Nat) (asid : BitVec 10) (root va : Nat) (e0 e1 v : Word) (a0 a1 a2 : Nat),
     a0 = root * 2 ^ 15 + 8 * (va / 2 ^ 36) → e0 = s.wordAt a0 →
     (s.tableBacked part a0 = false → (s.walk none part asid root va).1 = .bad) ∧
     (s.tableBacked part a0 = true → (bit e0 0 = false → (s.walk none part asid root va).1 = .absent) ∧
     (bit e0 0 = true → bits e0 2 10 ≠ 0 → (s.walk none part asid root va).1 = .bad) ∧
     (bit e0 0 = true → bits e0 1 11 = 0 → a1 = bits e0 12 44 * 2 ^ 12 + 8 * (va / 2 ^ 27 % 2 ^ 9) → e1 = s.wordAt a1 →
       s.tableBacked part a1 = true → bit e1 0 = true → bits e1 1 11 = 0 →
       a2 = bits e1 12 44 * 2 ^ 12 + 8 * (va / 2 ^ 18 % 2 ^ 9) → v = s.wordAt a2 → s.tableBacked part a2 = true →
       (s.walk none part asid root va).1 = if bit v 0 = false then .absent else if bits v 7 11 ≠ 0 then .bad else .leaf v) ∧
     (bit e0 0 = true → bit e0 1 = true → bits e0 2 19 = 0 → a2 = bits e0 12 44 * 2 ^ 12 + 8 * (va / 2 ^ 18 % 2 ^ 18) →
       v = s.wordAt a2 → s.tableBacked part a2 = true →
       (s.walk none part asid root va).1 = if bit v 0 = false then .absent else if bits v 7 11 ≠ 0 then .bad else .leaf v))) ∧
   (∀ (s : State) (lcn slot : Nat) (kill : Bool) (m : Mail), Tab.find? (s.coreAt lcn).mail slot = some m → m.answer = none →
     (∀ seq, seq ≠ m.seq → exec (.belfryReply lcn slot seq kill) s = .next s) ∧
     ∃ t, exec (.belfryReply lcn slot m.seq kill) s = .next t ∧ s.spares t [] ∧ t.mem = s.mem ∧
       Tab.find? (t.coreAt lcn).mail slot = some { m with answer := some kill } ∧
       ∀ j, j ≠ slot → Tab.find? (t.coreAt lcn).mail j = Tab.find? (s.coreAt lcn).mail j)) ∧
  ((∀ (s b u : State) (d a : BitVec 5) (l : BitVec 4) (imm : BitVec 12) (ea : Word) (va reason : Nat), b = s.begin →
     ea = s.g a + (match s.widening with | none => imm.signExtend 64 | some p => (p ++ imm).signExtend 64) →
     ∀ e ∈ ([(.ldB8 d a l imm, 1), (.ldS8 d a l imm, 1), (.ldB16 d a l imm, 2), (.ldS16 d a l imm, 2),
         (.ldB32 d a l imm, 4), (.ldS32 d a l imm, 4), (.ldD d a l imm, 8)] : List (Instr × Nat)),
       s.ready e.1 = true → ea.toNat % e.2 = 0 → Tab.find? s.core.mail s.k = none →
       (b.locate s.lcn s.k (b.query s.lcn s.k true false false true) (byteEAs ea e.2) = (.fault va reason, u) → s.mayTrap →
         ∃ t, exec e.1 s = .next t ∧ s.refusesAccess t kindLoad reason va) ∧
       (b.locate s.lcn s.k (b.query s.lcn s.k true false false true) (byteEAs ea e.2) = (.absent va, u) →
         ∃ t, exec e.1 s = .next t ∧ s.awaitsPage t kindLoad va)) ∧
   (∀ (s b u : State) (d a bb : BitVec 5) (z : BitVec 1) (va reason : Nat), b = s.begin →
     (s.g a).toNat % (if z = 1 then 8 else 4) = 0 → outOfRange (s.g a).toNat = false → Tab.find? s.core.mail s.k = none →
     ∀ i ∈ ([.amoadd d a z bb, .amoswap d a z bb, .amocas d a z bb, .amominS d a z bb, .amominB d a z bb, .amomaxS d a z bb,
         .amomaxB d a z bb] : List Instr), s.ready i = true →
       ((∀ o ∈ s.fab.proxies, ¬ (o.lcn = s.lcn ∧ o.k = s.k)) →
         (b.locate s.lcn s.k { b.query s.lcn s.k true true false false with peer := true } [(s.g a).toNat] =
             (.fault va reason, u) → s.mayTrap → ∃ t, exec i s = .next t ∧ s.refusesAccess t kindAtomic reason va) ∧
         (b.locate s.lcn s.k { b.query s.lcn s.k true true false false with peer := true } [(s.g a).toNat] = (.absent va, u) →
           ∃ t, exec i s = .next t ∧ s.awaitsPage t kindAtomic va)) ∧
       (∀ o, s.fab.proxies.find? (fun o => o.lcn == s.lcn && o.k == s.k) = some o → o.st = .answered none → s.mayTrap →
         ∃ t, exec i s = .next t ∧
           s.enters t { Frame.none with sr := [0x085], fab := true } 0x05 (s.g a) s.replayPc ∧
           t.cx.reg 0x085 = BitVec.ofNat 64 (2 ^ 63 + 2 * 2 ^ 56 + 8 * 2 ^ 48 + (s.g a).toNat % 2 ^ 48) ∧
           ∀ q ∈ t.fab.proxies, ¬ (q.lcn = s.lcn ∧ q.k = s.k))) ∧
   (∀ (s b c u : State) (l k : Nat) (ks : List Nat) (rest : List Turn) (va reason : Nat),
     s.agenda = .core l :: rest → l < 2304 → s.lcn < 2304 → s.k ≤ 10 → b = { s with agenda := rest, lcn := l } →
     b.impreciseDue l = false → b.helperDue l = false → b.order l = k :: ks → c = { b with k := k } →
     isVirtual c.cx.pc.toNat = true → Tab.find? c.core.mail k = none →
     (c.locate l k (c.query l k false false true false) [c.cx.pc.toNat] = (.fault va reason, u) → c.mayTrap →
       ∃ t, c.refusesAccess t kindFetch reason va ∧
         step s = .next ((t.issued l k).countWaits l (ks.filter (b.readyCx l))).endStep) ∧
     (c.locate l k (c.query l k false false true false) [c.cx.pc.toNat] = (.absent va, u) →
       ∃ t, c.awaitsPage t kindFetch va ∧ ∀ v, t.tryAll l ks = .next v → step s = .next v.endStep)) ∧
   (∀ (s : State) (i : Instr) (m : Mail), (∃ d a l imm, i = .ldB8 d a l imm) ∨ (∃ a b z d, i = .amoadd d a z b ∧
       (s.g a).toNat % (if z = 1 then 8 else 4) = 0 ∧ outOfRange (s.g a).toNat = false) → s.ready i = true →
     (∀ o ∈ s.fab.proxies, ¬ (o.lcn = s.lcn ∧ o.k = s.k)) → Tab.find? s.core.mail s.k = some m →
     (m.answer = none → ∃ t, exec i s = .next t ∧ s.waits t .mailbox) ∧
     (m.answer = some true → s.mayTrap → ∃ t, exec i s = .next t ∧ s.traps t 0x07 (m.va.setWidth 64) s.replayPc)))

/-- Page migration: start, copy of a line, removal. R256, R275. -/
def Obligations.Migrations : Prop :=
  ∀ (s : State),
    (∀ id part asid (leaf : BitVec 56) (frame : BitVec 38) v old en, v = s.wordAt leaf.toNat → old = bits v 18 38 →
      s.backed part leaf.toNat = true → bit v 0 = true → bit v 6 = false → s.migEngine old = some en →
      (s.migEngine frame.toNat).isSome = true → (s.fab.migs.filter fun m => s.migEngine m.old.toNat == some en).length < 8 →
      (∀ m ∈ s.fab.migs, m.id ≠ id ∧ m.old.toNat ≠ old) → ∃ t, exec (.migrationStart id part asid leaf frame) s = .next t ∧
        t.mem = s.mem ∧ t.cores = s.cores ∧ t.towers = s.towers ∧
        t.fab = { s.fab with migs := s.fab.migs ++ [⟨id, part, asid, leaf, BitVec.ofNat 38 old, frame, 0⟩] }) ∧
    (∀ id part asid (leaf : BitVec 56) (frame : BitVec 38), bit (s.wordAt leaf.toNat) 6 = true ∨ bit (s.wordAt leaf.toNat) 0 = false →
      exec (.migrationStart id part asid leaf frame) s = .next s) ∧
    (∀ m src dst, s.fab.migs = [m] → m.copied < 2048 → m.old ≠ m.new → src = m.old.toNat * 2 ^ 18 + 128 * m.copied →
      dst = m.new.toNat * 2 ^ 18 + 128 * m.copied → ∃ t, exec (.migrationLineCopy m.id) s = .next t ∧ t.cores = s.cores ∧
        t.towers = s.towers ∧ t.fab = { s.fab with migs := [{ m with copied := m.copied + 1 }] } ∧
        (∀ j, j < 128 → t.byteAt (src + j) = s.byteAt (src + j) ∧ t.byteAt (dst + j) = s.byteAt (src + j)) ∧
        (∀ pa, pa / 2 ^ 18 ≠ m.old.toNat → pa / 2 ^ 18 ≠ m.new.toNat → t.byteAt pa = s.byteAt pa) ∧
        ∀ l ∈ t.arb.sent, l.arrived = true → l.line.home ≠ src) ∧
    (∀ m, s.fab.migs = [m] → m.copied = 2048 → s.frameInUse m.old.toNat = false →
      m.leaf.toNat / 2 ^ 18 ≠ m.old.toNat → (m.leaf.toNat + 7) / 2 ^ 18 ≠ m.old.toNat → ∃ t, exec (.migrationRemove m.id) s = .next t ∧
        t.towers = s.towers ∧ t.fab = { s.fab with migs := [] } ∧ bits (t.wordAt m.leaf.toNat) 18 38 = m.new.toNat ∧
        (∀ j, j < 18 → bit (t.wordAt m.leaf.toNat) j = bit (s.wordAt m.leaf.toNat) j) ∧
        (∀ pa, pa / 2 ^ 18 ≠ m.old.toNat → pa < m.leaf.toNat ∨ m.leaf.toNat + 8 ≤ pa → t.byteAt pa = s.byteAt pa) ∧
        ∀ l gone, gone = (fun e : TlbEnt => e.part == m.part && (e.asid == m.asid && e.ppn == m.old)) →
          t.coreAt l = { s.coreAt l with tlb := (s.coreAt l).tlb.filter (fun e => !gone e) })

/-- When windows turn, and what the opening of a window does. R147 to R150, R157. R123, R136, R145 to R147, R150, R154, R298:
what the opening of a window does. -/
def Obligations.Windows : Prop :=
  ((∀ (s : State), s.arb.stopped = true → s.windowCheck = s) ∧
   (∀ (s : State) (act : List Domain), act = s.activeDoms.filter (fun d => !d.done) → s.arb.stopped = false → s.arb.win = .compute →
     (((∀ d ∈ s.activeDoms, d.done = true ∧ d.carried = false) ∨ (∃ d ∈ act, d.dph = 0 ∧ d.spent = false ∧ s.domIdle d = false)) →
       s.windowCheck = s) ∧
     ((∃ d ∈ act, s.domIdle d = false) ∨ (∃ d ∈ s.activeDoms, d.done = true ∧ d.carried = true) →
       (∀ d ∈ act, d.dph ≠ 0 ∨ d.spent = true ∨ s.domIdle d = true) →
       s.windowCheck.arb.win = .turnX ∧ s.windowCheck.arb.winAt = s.arb.winAt ∧ s.windowCheck.mem = s.mem)) ∧
   (∀ (s : State) (d : Domain), s.activeDoms = [d] → s.dom d.key = d → d.done = false → s.arb.stopped = false → s.arb.win = .compute →
     s.domIdle d = false →
     (d.dph ≠ 0 → (s.windowCheck.dom d.key).entered = true ∧ (s.windowCheck.dom d.key).scnt = 0) ∧
     (d.dph = 0 → d.spent = true → (s.windowCheck.dom d.key).entered = d.entered ∧
       (s.windowCheck.dom d.key).scnt = min (d.scnt + 1) 255 ∧ (s.windowCheck.dom d.key).dph = 0 ∧
       ∀ g, s.gang? d.key.gang = some g →
         (g.slim ≠ 0 → d.scnt + 1 = g.slim → g.slim ≤ 255 → d.key.level = 0 → ∀ l ∈ s.domMembers d.key,
           Tab.find? (s.coreAt l).pend.causes 0x0C = none →
           Tab.find? (s.windowCheck.coreAt l).pend.causes 0x0C = some (BitVec.ofNat 64 (g.d0 * 256 + g.slim))) ∧
         (g.slim = 0 ∨ min (d.scnt + 1) 255 ≠ g.slim ∨ d.scnt = g.slim → s.windowCheck.cores = s.cores))) ∧
   (∀ (s : State), s.arb.stopped = false → s.arb.win = .exchange →
     ((∃ d ∈ s.activeDoms, d.entered = true ∧ d.dph = 2 ∧ d.spent = false ∧ s.domIdle d = false) → s.windowCheck = s) ∧
     ((∀ d ∈ s.activeDoms, d.entered = true → d.dph ≠ 2 ∨ d.spent = true ∨ s.domIdle d = true) →
       s.windowCheck.arb.win = .turnC ∧ s.windowCheck.arb.winAt = s.arb.winAt)) ∧
   (∀ (s : State) (d : Domain), s.activeDoms = [d] → s.dom d.key = d → d.entered = true → d.dph = 2 → d.spent = true →
     s.domIdle d = false → s.arb.stopped = false → s.arb.win = .exchange → s.arb.sent = [] → (∀ e ∈ s.cores, e.2.comb = []) →
     (∀ l ∈ s.domMembers d.key, s.unpaired l = false) →
     (s.windowCheck.dom d.key).dph = 0 ∧ (s.windowCheck.dom d.key).ovr = true ∧ (s.windowCheck.dom d.key).overrun = true ∧
     ∀ l ∈ s.domCores d.key, (s.windowCheck.coreAt l).mem.held = true ∧
       ∀ f ∈ (s.windowCheck.coreAt l).fps, f.op.remote?.isSome = true → f.over = true) ∧
   (∀ (s : State) (key : DomKey) (d : Domain), d = s.dom key → s.isActive d = true → d.spent = false →
     (s.arb.win = .compute → d.done = false → d.dph = 0 → d.since + (s.budgets d).1 ≤ s.clock →
       ∃ u : State, exec (.computeBudgetSpent key) s = .next u.windowCheck ∧ u.dom key = { d with spent := true } ∧
         (∀ k, k ≠ key → u.dom k = s.dom k) ∧ u.mem = s.mem ∧ u.cores = s.cores ∧ u.towers = s.towers ∧ u.arb.win = s.arb.win) ∧
     (s.arb.win = .exchange → d.entered = true → d.dph = 2 → d.since + (s.budgets d).2 ≤ s.clock →
       ∃ u : State, exec (.exchangeBudgetSpent key) s = .next u.windowCheck ∧ u.dom key = { d with spent := true } ∧
         (∀ k, k ≠ key → u.dom k = s.dom k) ∧ u.mem = s.mem ∧ u.cores = s.cores ∧ u.towers = s.towers ∧ u.arb.win = s.arb.win))) ∧
  (∀ (s : State) (d : Domain), s.arb.stopped = false → s.activeDoms = [d] → s.dom d.key = d → d.entered = true →
     (s.arb.win = .turnX → d.dph = 1 → ∃ u : State, exec .exchangeWindowOpen s = .next u.windowCheck ∧ u.arb.win = .exchange ∧
       u.arb.phase = (s.arb.phase + 1) % 2 ^ 64 ∧ u.arb.winAt = s.clock ∧ u.mem = s.mem ∧
       (u.dom d.key).dph = 2 ∧ (u.dom d.key).sstep = d.sstep ∧ (u.dom d.key).count = d.count ∧ (u.dom d.key).spent = false ∧
       (u.dom d.key).phaseStart = s.clock ∧ (u.dom d.key).record = d.formed.getD d.record ∧
       (∀ l ∈ s.domCores d.key, (u.coreAt l).mem.arrived = none ∧ (u.coreAt l).mem.held = false ∧
         (((s.coreAt l).ctx 0).st = .blocked → ((s.coreAt l).ctx 0).wait = none → ((u.coreAt l).ctx 0).st = .running)) ∧
       (∀ l n, (u.coreAt l).reg n = (s.coreAt l).reg n) ∧ ∀ l k r, ((u.coreAt l).ctx k).gr r = ((s.coreAt l).ctx k).gr r) ∧
     (s.arb.win = .turnC → s.fab.gsz ≤ 1 → s.fab.pendingMap = [] → (∀ g, s.gang? d.key.gang = some g → g.gr.req = false) →
       s.preciseDue d.key = [] → (∀ l ∈ s.domCores d.key, (s.coreAt l).reg 0x048 = (s.coreAt l).mem.dmem) →
       ∃ u : State, exec .computeWindowOpen s = .next u.windowCheck ∧ u.arb.win = .compute ∧ u.arb.phase = s.arb.phase ∧
         u.arb.winAt = s.clock ∧ (u.dom d.key).dph = 0 ∧ (u.dom d.key).sstep = (d.sstep + 1) % 2 ^ 64 ∧
         (u.dom d.key).count = (s.nextGrid d).1 ∧ (u.dom d.key).next = 0 ∧ (u.dom d.key).entered = false ∧
         (u.dom d.key).done = false ∧ (u.dom d.key).phaseStart = s.clock ∧ (u.dom d.key).record = d.formed.getD d.record ∧
         (∀ l ∈ s.domCores d.key, (u.coreAt l).mem.arrived = none ∧ (u.coreAt l).mem.held = false ∧
           (u.coreAt l).mem.killed = 0 ∧ (u.coreAt l).mem.proposal = none ∧
           (∀ k, k < 16 → (u.coreAt l).reg (0x110 + k) = 0) ∧ bits ((u.coreAt l).reg 0x109) 17 9 = 0) ∧
         ((∀ l ∈ s.domCores d.key, bits ((s.coreAt l).reg 0x184) 0 16 < 3) → u.mem = s.mem) ∧
         ∀ l k r, ((u.coreAt l).ctx k).gr r = ((s.coreAt l).ctx k).gr r))

/-- Debug stops, their triggers, halts and resumption; the module stop. R341 to R345: stops and resumption. TLCN of a module stop
and a core in no gang: log entry 24. R341, R344: the module stop. -/
def Obligations.Stops : Prop :=
  (∀ (s : State) (lcn : Nat) (c : Core), c = s.coreAt lcn →
     (c.reg 0x140 &&& ~~~(0x27FF00000000FFFF : Word) = 0 →
       (∀ gang e, (gang, e) ∈ [(false, Instr.stopDomainRequest lcn), (true, Instr.stopGangRequest lcn)] → ∃ t, exec e s = .next t ∧
         s.spares t [] ∧ t.mem = s.mem ∧ (t.coreAt lcn).dbg =
           if (c.dbg.halt && (c.dbg.step.isNone && !gang)) || c.dbg.trigger.isSome then c.dbg
           else { c.dbg with trigger := some ⟨3, 0, none, false, 0, gang⟩ }) ∧
       (∀ on, ∃ t, exec (.preciseStopRequest lcn on) s = .next t ∧ s.spares t [0x140] ∧ t.mem = s.mem ∧
         (t.coreAt lcn).reg 0x140 = withBits (c.reg 0x140) 61 1 (b2n on) ∧
         (bit (c.reg 0x140) 61 = false → on = true → (t.coreAt lcn).dbg = { c.dbg with preqAt := s.clock }))) ∧
     (∀ tr, c.dbg.trigger = some tr → (c.dbg.halt = false → c.dbg.stop = none → s.triggerDue lcn = true) ∧
       (c.dbg.halt = true → c.dbg.step = none → s.triggerDue lcn = true)) ∧
     (s.triggerDue lcn = false → exec (.stopTrigger lcn) s = .next s) ∧
     (∀ tr st, c.dbg.trigger = some tr → s.triggerDue lcn = true → ∃ t, exec (.stopTrigger lcn) s = .next t ∧
       s.spares t [] ∧ t.mem = s.mem ∧ t.arb = s.arb ∧
       (∀ l ∈ s.stopTargets lcn tr.gang, (s.coreAt l).unstopped = true →
         st = (⟨b2n tr.gang, s.lcnShown lcn, BitVec.ofNat 64 (s.domOf lcn).sstep, (s.coreAt l).retiredAll⟩ : Stop) →
         (t.coreAt l).dbg = { (s.coreAt l).dbg with stop := some st }) ∧
       (∀ l, l ∉ s.stopTargets lcn tr.gang ∨ (s.coreAt l).unstopped = false → l ≠ lcn ∨ c.dbg.halt = false →
         t.coreAt l = s.coreAt l) ∧
       (c.dbg.halt = true → t.coreAt lcn = { c with dbg := { c.dbg with trigger := none } })) ∧
     (∀ st, c.dbg.stop = some st → c.dbg.halt = false → c.haltReady = true → ∃ u d, d = u.coreAt lcn ∧
       (exec (.debugHalt lcn) s = .next u ∧ (c.mem.gang = 0 ∨ (s.dom c.domKey).parked = true) ∨
         exec (.debugHalt lcn) s = .next u.windowCheck ∧ (u.dom c.domKey).parked = true ∧ (u.dom c.domKey).entered = false) ∧
       u.mem = s.mem ∧ d.dbg = { c.dbg with halt := true, step := none, trigger := none, stop := some st } ∧
       (∀ k, (Tab.find? c.ctxs k).isSome = true → (c.ctx k).halted = false → (d.ctx k).halted = true ∧ (d.ctx k).st = (c.ctx k).st ∧
         (d.ctx k).pc = (c.ctx k).beforePair.pc ∧ (d.ctx k).g = (c.ctx k).g ∧ (d.ctx k).sr = (c.ctx k).sr ∧
         ∀ n, (d.ctx k).cycles n = (c.ctx k).cycles s.clock) ∧
       bits (d.reg 0x141) 62 2 = 2 ∧ bits (d.reg 0x141) 32 12 = st.tlcn % 4096 ∧
       (c.dbg.trigger = none → bits (d.reg 0x141) 59 3 = if st.scope = 2 then 6 else 5) ∧
       (∀ tr, c.dbg.trigger = some tr → bits (d.reg 0x141) 59 3 = tr.tk % 8 ∧ bits (d.reg 0x141) 57 2 = tr.num % 4 ∧
         bit (d.reg 0x141) 56 = tr.ah ∧ bits (d.reg 0x141) 44 12 = tr.alcn % 4096) ∧
       d.reg 0x142 = (((c.dbg.trigger.bind (·.addr)).map (BitVec.ofNat 64 ·)).getD (c.reg 0x142)) ∧ d.reg 0x145 = st.ss ∧
       (∀ k, k < 11 → bits (d.reg (0x143 + k / 6)) (10 * (k % 6)) 10 =
         if (c.ctx k).st = .free then 0 else min ((c.ctx k).retired - nth 0 st.rets k) 1023) ∧
       (∀ n, n < 0x141 ∨ 0x145 < n → d.reg n = c.reg n) ∧ d.vec = c.vec ∧ d.mat = c.mat ∧ d.sb = c.sb ∧ d.fps = c.fps ∧
       d.pend = c.pend ∧ ∀ l, l ≠ lcn → u.coreAt l = s.coreAt l) ∧
     (c.dbg.halt = false ∨ (∃ st, c.dbg.stop = some st ∧ st.scope = 2) → exec (.resume lcn) s = .next s) ∧
     (∀ st ls, c.dbg.stop = some st → c.dbg.halt = true → st.scope ≠ 2 → s.arb.stopped = false → lcn ∈ ls →
       ls = s.stopTargets lcn (st.scope == 1) →
       ∃ u : State, exec (.resume lcn) s = .next u.windowCheck ∧ u.mem = s.mem ∧
         (∀ l ∈ ls, (s.coreAt l).dbg.halt = true → (u.coreAt l).dbg.halt = false ∧ (u.coreAt l).dbg.stop = none ∧
           bits ((u.coreAt l).reg 0x141) 62 2 = 0 ∧ bits ((u.coreAt l).reg 0x141) 0 62 = bits ((s.coreAt l).reg 0x141) 0 62 ∧
           (∀ n, n ≠ 0x141 → (u.coreAt l).reg n = (s.coreAt l).reg n) ∧
           ∀ k, (Tab.find? (s.coreAt l).ctxs k).isSome = true → (u.coreAt l).ctx k = ((s.coreAt l).ctx k).goOn s.clock ∧
             ((u.coreAt l).ctx k).halted = false) ∧
         (st.scope ≠ 1 → c.mem.gang ≠ 0 → (s.gangOf lcn).isSome = true → (u.dom c.domKey).parked = false ∧ (u.dom c.domKey).dph = (s.dom c.domKey).dph) ∧
         ∀ l, l ∉ ls → u.coreAt l = s.coreAt l)) ∧
  (∀ (s : State),
     (s.arb.stopped = false → ∃ t, exec .moduleStop s = .next t ∧ s.spares t [] ∧ t.mem = s.mem ∧
       t.arb = { s.arb with stopped := true } ∧
       (∀ l st, l < 128 * s.rowsUp → (Tab.find? s.cores l).isSome = true ∨ s.towerServes (l / 8) = true →
         st = (⟨2, 0xFFF, BitVec.ofNat 64 (s.domOf l).sstep, (s.coreAt l).retiredAll⟩ : Stop) →
         (t.coreAt l).dbg = if (s.coreAt l).dbg.halt = true ∨ (s.coreAt l).dbg.stop ≠ none then (s.coreAt l).dbg
           else { (s.coreAt l).dbg with stop := some st }) ∧
       ∀ l, 128 * s.rowsUp ≤ l ∨ ((Tab.find? s.cores l).isSome = false ∧ s.towerServes (l / 8) = false) → t.coreAt l = s.coreAt l) ∧
     (s.arb.stopped = true → exec .moduleStop s = .next s) ∧
     (s.arb.stopped = false → exec .moduleStopEnd s = .next s) ∧
     (s.arb.stopped = true →
       ∃ u : State, exec .moduleStopEnd s = .next u.windowCheck ∧ u.arb.stopped = false ∧ u.arb.win = s.arb.win ∧ u.mem = s.mem ∧
         (∀ l, (s.coreAt l).moduleHeld = true → (u.coreAt l).dbg.halt = false ∧ (u.coreAt l).dbg.stop = none ∧
           (∀ k, (Tab.find? (s.coreAt l).ctxs k).isSome = true → ((u.coreAt l).ctx k).halted = false ∧
             ((u.coreAt l).ctx k).st = ((s.coreAt l).ctx k).st ∧ ((u.coreAt l).ctx k).pc = ((s.coreAt l).ctx k).pc) ∧
           ((s.coreAt l).mem.gang ≠ 0 → (∀ m ∈ s.domCores (s.coreAt l).domKey, (s.coreAt m).dbg.halt = true → (s.coreAt m).moduleHeld = true) →
             (u.domOf l).parked = false)) ∧
         ∀ l k r, ((u.coreAt l).ctx k).gr r = ((s.coreAt l).ctx k).gr r))

/-- Register writes, single steps, dumps and trace records of the debug port. R20, R349, R420: writes through the debug port, and
single steps. The operator's rights: log entry 25. R319, R334, R353, R354, R357: dumps and trace records. -/
def Obligations.DebugPort : Prop :=
  (∀ (s : State) (lcn : Nat) (c : Core), c = s.coreAt lcn →
     (∀ k (n : BitVec 12) v who (u : State),
       ((srCheck n.toNat false true (some v)).isSome = true ∨
           s.portReaches who lcn (some n.toNat) = false ∨ s.copyGone lcn k n.toNat = true ∨ s.srWrite lcn k n.toNat v true = none →
         exec (.registerWrite lcn k n v who) s = .next { s with host := { s.host with reply := ⟨1, []⟩ } }) ∧
       (srCheck n.toNat false true (some v) = none → s.portReaches who lcn (some n.toNat) = true → s.copyGone lcn k n.toNat = false →
         s.srWrite lcn k n.toNat v true = some u →
         (n ≠ 0x140 ∨ bit v 60 = false ∧ bit v 59 = false →
           exec (.registerWrite lcn k n v who) s = .next { u with host := { u.host with reply := ⟨0, []⟩ } }) ∧
         (∀ w : State, n = 0x140 → bit v 60 = true → exec (.resume lcn) u = .next w →
           exec (.registerWrite lcn k n v who) s =
             .next ((if bit v 59 = true then w.stepCore lcn else w).answer 0 [])) ∧
         (n = 0x140 → bit v 60 = false → bit v 59 = true →
           exec (.registerWrite lcn k n v who) s = .next ((u.stepCore lcn).answer 0 [])))) ∧
     (∀ who n, s.portReaches who lcn n = true → s.isCore lcn = true ∧
       ∀ p, who = .tenant p ∨ who = .operator p → s.partHeld lcn = some p) ∧
     (∀ k (n : BitVec 12) v who r, srRow n.toNat = some r → v &&& ~~~r.known = 0 → s.portReaches who lcn (some n.toNat) = true →
       n.toNat ∈ [0x008, 0x009, 0x00A, 0x00B, 0x010, 0x043, 0x081, 0x08F, 0x0C8, 0x168, 0x169, 0x16A, 0x183, 0x184, 0x192] →
       ∃ t, exec (.registerWrite lcn k n v who) s = .next t ∧ s.spares t [n.toNat] ∧ t.mem = s.mem ∧ t.host.reply = ⟨0, []⟩ ∧
         (t.coreAt lcn).reg n.toNat = (c.reg n.toNat &&& ~~~(BitVec.ofNat 64 r.rw)) ||| (v &&& BitVec.ofNat 64 r.rw)) ∧
     (∀ m q st, c.reg 0x140 &&& ~~~(0x27FF00000000FFFF : Word) = 0 → c.dbg.stop = some st → c.dbg.step = none →
       (c.dbg.halt = false ∨ 2 ≤ st.scope ∨ s.arb.stopped = true → ∃ t, exec (.singleStep lcn m q) s = .next t ∧ s.spares t [0x140] ∧
         t.mem = s.mem ∧ (t.coreAt lcn).dbg = c.dbg) ∧
       (c.dbg.halt = true → st.scope < 2 → s.arb.stopped = false → ∃ t d, exec (.singleStep lcn m q) s = .next t ∧ d = t.coreAt lcn ∧
         t.mem = s.mem ∧ 
         d.dbg = { c.dbg with step := some (m, max 1 q.toNat), issued := 0, rets := [], trigger := none } ∧
         (∀ k, (Tab.find? c.ctxs k).isSome = true → d.ctx k =
           if m.getLsbD k = true then (c.ctx k).goOn s.clock else c.ctx k) ∧
         bits (d.reg 0x140) 48 11 = m.toNat ∧ bits (d.reg 0x140) 0 16 = q.toNat ∧ (∀ n, n ≠ 0x140 → d.reg n = c.reg n) ∧
         ∀ l, l ≠ lcn → t.coreAt l = s.coreAt l)) ∧
     (∀ st, c.dbg.stop = some st → s.stepOver lcn = true → c.haltReady = true → ∃ t d, exec (.stepEnd lcn) s = .next t ∧
       d = t.coreAt lcn ∧ t.mem = s.mem ∧ d.dbg = { c.dbg with halt := true, step := none, trigger := none } ∧
       bit (d.reg 0x141) 63 = true ∧ bits (d.reg 0x141) 0 16 = min c.dbg.issued 65535 ∧
       (∀ k, k < 11 → bits (d.reg (0x143 + k / 6)) (10 * (k % 6)) 10 =
         if c.dbg.rets = [] ∨ (c.ctx k).st = .free then 0 else min ((c.ctx k).retired - nth 0 c.dbg.rets k) 1023) ∧
       (c.dbg.trigger = none → bits (d.reg 0x141) 59 3 = 4 ∧ bit (d.reg 0x141) 62 = bit (c.reg 0x141) 62 ∧
         bits (d.reg 0x141) 16 43 = bits (c.reg 0x141) 16 43 ∧ d.reg 0x142 = c.reg 0x142) ∧
       (∀ tr, c.dbg.trigger = some tr → bits (d.reg 0x141) 59 3 = tr.tk % 8 ∧ bits (d.reg 0x141) 57 2 = tr.num % 4 ∧
         bit (d.reg 0x141) 56 = tr.ah ∧ bits (d.reg 0x141) 44 12 = tr.alcn % 4096 ∧ bits (d.reg 0x141) 32 12 = st.tlcn % 4096 ∧
         (∀ a, tr.addr = some a → d.reg 0x142 = BitVec.ofNat 64 a) ∧
         (tr.gang = true → ∀ l ∈ s.stopTargets lcn true, l ≠ lcn → (s.coreAt l).unstopped = true →
           (t.coreAt l).dbg.stop.isSome = true)) ∧
       (∀ k, (Tab.find? c.ctxs k).isSome = true → (d.ctx k).halted = true ∧
         ((c.ctx k).halted = false → (d.ctx k).pc = (c.ctx k).beforePair.pc)) ∧
       (∀ n, n < 0x141 ∨ 0x145 < n → d.reg n = c.reg n) ∧
       ((∀ tr, c.dbg.trigger = some tr → tr.gang = false) → ∀ l, l ≠ lcn → t.coreAt l = s.coreAt l))) ∧
  (∀ (s : State) (lcn : Nat) (c : Core), c = s.coreAt lcn →
     (∀ who, s.portReaches who lcn none = false → exec (.dump lcn ⟨who, .record⟩) s = .next (s.answer 1 [])) ∧
     (∀ p, s.portReaches (.operator p) lcn none = true → (s.policy lcn).getLsbD 6 = false →
       exec (.dump lcn ⟨.operator p, .record⟩) s = .next (s.answer 2 [])) ∧
     (∀ who k (n : BitVec 12), (srCheck n.toNat false true none).isSome = true ∨ s.portReaches who lcn (some n.toNat) = false ∨
       s.copyGone lcn k n.toNat = true → exec (.dump lcn ⟨who, .register k n⟩) s = .next (s.answer 1 [])) ∧
     (∀ who k (n : BitVec 12) v, srCheck n.toNat false true none = none → s.portReaches who lcn (some n.toNat) = true →
       s.copyGone lcn k n.toNat = false → v = s.srRead lcn k n.toNat true → ∃ t b, exec (.dump lcn ⟨who, .register k n⟩) s = .next t ∧
         t = { s with tick := t.tick, host := { s.host with reply := ⟨0, b⟩ } } ∧
         ∀ w : Word, (∀ j, j < 8 → (Tab.get 0 b j).toNat = w.toNat / 2 ^ (8 * j) % 256) →
           ((∀ p, who ≠ .operator p) → w = v) ∧
           (∀ p, who = .operator p → countedReg n.toNat = true → (s.policy lcn).toNat % 4 = 3 → w = 0) ∧
           (∀ p, who = .operator p → countedReg n.toNat = false → (s.policy lcn).toNat / 16 % 4 = 0 → w = v) ∧
           (∀ p, who = .operator p → n.toNat ∈ [0x00A, 0x00B, 0x00C, 0x089, 0x08A, 0x08B, 0x08C, 0x08D, 0x08E, 0x142, 0x143, 0x144] →
             (s.policy lcn).toNat / 16 % 4 ≠ 0 → w = 0)) ∧
     (∀ who n (num : BitVec 12), who ≠ .config ∨ Config.sites ≤ n ∨ num.toNat < 0x190 ∨ 0x198 < num.toNat →
       exec (.dump lcn ⟨who, .site n num⟩) s = .next (s.answer 1 [])) ∧
     (∀ n, n < Config.sites → (s.site n).st ≠ 0 →
       exec (.dump lcn ⟨.config, .site n 0x190⟩) s = .next (s.answerWord (BitVec.ofNat 64 (s.site n).bstate))) ∧
     (∀ p, s.portReaches (.tenant p) lcn none = true → ∃ t b, exec (.dump lcn ⟨.tenant p, .record⟩) s = .next t ∧ t = { s with host := { s.host with reply := ⟨0, b⟩ } } ∧
       (∀ i, i < 0x80000 → Tab.get 0 b i = s.byteAt (s.scratchPA lcn i)) ∧
       (∀ i, i < 0x4000000 → Tab.get 0 b (0x8000000 + i) = s.byteAt (s.domePA (lcn / 8) i)) ∧
       (∀ r : BitVec 5, (c.ctx 0).live = true → ∀ j, j < 8 → (Tab.get 0 b (2 ^ 48 + 0x1000 + 8 * r.toNat + j)).toNat =
         ((c.ctx 0).gr r).toNat / 2 ^ (8 * j) % 256) ∧
       (∀ j, (c.ctx 0).live = true → j < 8 → (Tab.get 0 b (2 ^ 48 + 0x1100 + j)).toNat = (c.ctx 0).pc.toNat / 2 ^ (8 * j) % 256) ∧
       ∀ i j, i < 32 → j < 256 → (Tab.get 0 b (2 ^ 48 + 0x4000 + 256 * i + j)).toNat =
         (Tab.get VReg.zero c.vec.v i).data.toNat / 2 ^ (8 * j) % 256) ∧
     (∀ (u : State) (r : List Byte) i len wrap, s.sampleDue lcn = true → c.trace.queue = [] → c.trace.dropped = false →
       r = s.traceRecord lcn 0 4 [c.reg 0x158, c.reg 0x159, c.reg 0x15A, c.reg 0x15B] → len = bits (c.reg 0x169) 0 32 →
       wrap = bit (c.reg 0x16A) 62 →
       i = (if wrap = true ∧ len ≠ 0 then bits (c.reg 0x16B) 0 32 % len else bits (c.reg 0x16B) 0 32) →
       u = s.updCoreAt lcn (fun c => { c with trace := { c.trace with
         sampleAt := (c.ctx 0).cycles s.clock, operator := c.trace.operator ++ (s.operatorForm lcn r).toList } }) →
       (bit (c.reg 0x16A) 4 = false → ∃ t, exec (.counterSample lcn) s = .next t ∧ s.spares t [] ∧ t.mem = s.mem ∧
         (t.coreAt lcn).trace = { c.trace with sampleAt := (c.ctx 0).cycles s.clock }) ∧
       (bit (c.reg 0x16A) 4 = true →
         (len ≤ i → ∃ t, exec (.counterSample lcn) s = .next t ∧ s.spares t [0x16C] ∧ t.mem = s.mem ∧
           ((t.coreAt lcn).reg 0x16C).toNat = min ((c.reg 0x16C).toNat + 1) (2 ^ 64 - 1) ∧
           (t.coreAt lcn).trace = { (u.coreAt lcn).trace with dropped := true }) ∧
         (∀ pa (w : State), i < len → u.tracePlace lcn i = (some pa, w) → s.fab.migs = [] → w.fab.migs = [] → ∃ t, exec (.counterSample lcn) s = .next t ∧
           (t.coreAt lcn).reg 0x16B = BitVec.ofNat 64 (if wrap = true then (i + 1) % len else i + 1) ∧
           (∀ j, j < 64 → t.byteAt (pa + j) = nth 0 r j) ∧ ∀ p, p < pa ∨ pa + 64 ≤ p → t.byteAt p = w.byteAt p))))

/-- Bring-up of a site from its seed to service, and full service. R385 to R388, R393: a site from its seed to its service. Dead
bonds are the configuration's: log entry 26. R385, R389: seeds, and full service. When a seed starts: log entry 26. -/
def Obligations.BringUp : Prop :=
  (∀ (s : State) (n b t : Nat) (x : Site), x = s.site n → s.dueStep n = some t → x.bs = b →
     (∀ w, b = 0 → w ∈ x.waves → w.1 = t → w.2.1 < 4 → (∀ w' ∈ x.waves, w'.1 = t → w' ≠ w → w.2.1 < w'.2.1) →
       ∃ v : State, exec (.wavefrontArrival n) s = .next v ∧ s.built v t ∧
         v.site n = { x with bs := 1, step := t, side := w.2.1, turret := w.2.2, waves := [] } ∧ ∀ m, m ≠ n → v.site m = s.site m) ∧
     (b = 1 → n < 324 → ∃ v : State, exec (.clockLock n true) s = .next v ∧ s.built v t ∧ v.site n = { x with bs := 2 } ∧
       (∀ d m ws, d < 4 → across n d = some m →
         ws = (if d = x.side ∨ x.absent.getLsbD d = true ∨ bondIsDead n d = true ∨ (s.site m).bs ≠ 0 ∨ (s.site m).st = 4 then []
           else [(t + 1, otherSide d, x.turret)]) → v.site m = { s.site m with waves := (s.site m).waves ++ ws }) ∧
       ∀ m, m ≠ n → (∀ d, d < 4 → across n d ≠ some m) → v.site m = s.site m) ∧
     (b = 2 → ∃ v : State, exec (.configurationArrival n) s = .next v ∧ s.built v t ∧ v.site n = { x with bs := 3 } ∧
       ∀ m, m ≠ n → v.site m = s.site m) ∧
     (b = 3 → x.st ≠ 0 → ∃ v : State, exec (.selfTestEnd n true) s = .next v ∧ s.built v t ∧
       v.site n = { x with bs := 4, testedAt := t } ∧ ∀ m, m ≠ n → v.site m = s.site m) ∧
     (b = 3 → x.st = 0 → s.fab.migs = [] → ∃ v : State, exec (.selfTestEnd n true) s = .next v ∧
       v.site n = { x with bs := 4, testedAt := t } ∧ (∀ m, m ≠ n → v.site m = s.site m) ∧ v.towers = s.towers ∧ v.arb = s.arb ∧
       (∀ i, i < 0x4000000 → v.byteAt (s.domePA x.lt i) = 0) ∧
       (∀ c i, c < 8 → i < 0x80000 → v.byteAt (s.scratchPA (8 * x.lt + c) i) = 0) ∧
       (∀ c, c < 8 → v.coreAt (8 * x.lt + c) = Core.reset) ∧ (∀ l, l / 8 ≠ x.lt → v.coreAt l = s.coreAt l) ∧
       ∀ pa, pa < s.domePA x.lt 0 ∨ s.domePA x.lt 0x4000000 ≤ pa → pa < s.scratchPA (8 * x.lt) 0 ∨
         s.scratchPA (8 * x.lt) 0x400000 ≤ pa → v.byteAt pa = s.byteAt pa) ∧
     (∀ e, n < 324 → (b, e) ∈ [(1, Instr.clockLock n false), (3, Instr.selfTestEnd n false)] → ∃ v : State, exec e s = .next v ∧
       s.built v t ∧ (v.site n).bs = 9 ∧ (v.site n).decided = 15 ∧
       ∀ d, d < 4 → (v.site n).absent.getLsbD d = (x.absent.getLsbD d || !x.decided.getLsbD d) ∧
         ∀ m, across n d = some m → x.decided.getLsbD d = false →
           (v.site m).decided.getLsbD (otherSide d) = true ∧ (v.site m).absent.getLsbD (otherSide d) = true) ∧
     (∀ d, b = 4 → n < 324 → d < 4 → x.decided.getLsbD d = false → t = s.bondStep n d →
       (across n d = none → ∃ v : State, exec (.bondDecision n d true) s = .next v ∧ s.built v t ∧ v.site n = x.decide d true t ∧
         ∀ m, m ≠ n → v.site m = s.site m) ∧
       ∀ m, across n d = some m →
         (4 ≤ (s.site m).bs → (s.site m).bs ≤ 7 → ∀ ok, ∃ v : State, exec (.bondDecision n d ok) s = .next v ∧ s.built v t ∧
           v.site n = x.decide d (ok && !bondIsDead n d) t ∧
           v.site m = (s.site m).decide (otherSide d) (ok && !bondIsDead n d) t ∧ ∀ j, j ≠ n → j ≠ m → v.site j = s.site j) ∧
         ((s.site m).bs < 4 ∨ 7 < (s.site m).bs → ∃ v : State, exec (.bondTimeout n d) s = .next v ∧ s.built v t ∧
           v.site n = x.decide d false t ∧ v.site m = (s.site m).decide (otherSide d) false t ∧
           ∀ j, j ≠ n → j ≠ m → v.site j = s.site j)) ∧
     (b = 4 → x.decided = 15 → ∃ v : State, exec (.enterLinked n) s = .next v ∧ s.built v t ∧
       v.site n = { x with bs := if x.absent = 15 then 9 else 5 } ∧ ∀ m, m ≠ n → v.site m = s.site m) ∧
     (b = 5 → ∃ v : State, exec (.enterServingReduced n) s = .next v ∧
       v = { s with fab := { s.fab with sites := v.fab.sites, bstep := max s.fab.bstep (t + 1),
                                        laid := if s.fab.turned = true then s.fab.laid else some v.fab.sites } } ∧
       v.site n = { x with bs := if s.fab.full = true then 7 else 6 } ∧ ∀ m, m ≠ n → v.site m = s.site m)) ∧
  (∀ (s : State),
     (∀ u side ns k, (u, side, ns) ∈ [(13, 0, [0, 1, 2, 3, 4].map (18 * ·)), (1, 3, [0, 1, 2, 3, 4].map (18 * 17 + ·)),
         (8, 2, [0, 1, 2, 3, 4].map (18 * · + 17)), (12, 1, [0, 1, 2, 3, 4])] →
       k = max s.fab.bstep (match s.leastStep with | some j => min (s.clock / 1024) j | none => s.clock / 1024) → ∃ v : State,
       exec (.turretSeedStart u) s = .next v ∧ v = { s with fab := { s.fab with sites := v.fab.sites } } ∧
         ∀ n ws, ws = (if n ∈ ns ∧ (s.site n).bs = 0 ∧ (s.site n).st ≠ 4 then [(k, side, u)]
           else []) → v.site n = { s.site n with waves := (s.site n).waves ++ ws }) ∧
     exec .fullServiceDecision s =
       .next { s with fab := { s.fab with raisePending := s.fab.raisePending || !s.fab.full } } ∧
     (s.raiseReady = false → exec .fullServiceRaise s = .next s) ∧
     (s.raiseReady = true → ∃ v : State, exec .fullServiceRaise s = .next v ∧
       v = { s with fab := { s.fab with sites := v.fab.sites, raisePending := false, full := true } } ∧
       ∀ n, (Tab.find? s.fab.sites n).isSome = true → v.site n = if (s.site n).bs = 6 then { s.site n with bs := 7 } else s.site n) ∧
     (s.raiseReady = true → s.fab.raisePending = true ∧
       (∀ e ∈ s.fab.sites, ¬ (1 ≤ e.2.bs ∧ e.2.bs ≤ 4) ∧ (e.2.bs = 5 → e.2.st ≠ 0)) ∧
       ∀ g ∈ s.arb.gangs, g.ended = false → ∀ l ∈ g.occupied, ∀ n, s.siteOf (l / 8) = some n → (s.site n).bs ≠ 6))

/-- Map generations, retirement of a tower, test packages. R333, R336, R337, R377 to R380: generations of the wafer map,
retirement, test packages. Model's own: log entries 34, 35 and 40. -/
def Obligations.MapAndRetirement : Prop :=
  ∀ (s : State),
    (∀ cs, exec (.mapGenerationIssue cs) s = .next s ∨
      exec (.mapGenerationIssue cs) s = .next { s with fab := { s.fab with pendingMap := s.fab.pendingMap ++ cs } }) ∧
    (∀ n lt, n < 324 → s.fab.pendingMap = [] → (s.site n).st = 1 → (s.site n).bs = 5 ∨ (s.site n).bs = 0 → lt < 288 →
      s.siteOf lt = none → s.placedOnce = true → exec (.mapGenerationIssue [⟨n, 0, lt⟩]) s =
        .next { s with fab := { s.fab with pendingMap := [⟨n, 0, lt⟩] } }) ∧
    (∀ n lt, s.fab.pendingMap = [] → (s.site n).st ≠ 1 ∨ ((s.site n).bs ≠ 5 ∧ (s.site n).bs ≠ 0) ∨
      ((s.site n).bs = 0 ∧ ∃ m, s.siteOf lt = some m ∧ (s.site m).lostTower = true) →
      exec (.mapGenerationIssue [⟨n, 0, lt⟩]) s = .next s) ∧
    (∀ n lt m, s.fab.pendingMap = [] → s.placedOnce = true → n < 324 → (s.site n).st = 0 → m < 324 → (s.site m).st = 1 →
      (s.site m).bs = 5 → exec (.mapGenerationIssue [⟨n, 3, lt⟩]) s = .next s) ∧
    (∀ n, n < 324 → ∀ c ∈ s.fab.pendingMap, c.site = n → c.st = 2 → (s.site n).st = 0 →
      exec (.mapGenerationIssue [⟨n, 1, 0⟩]) s = .next s) ∧
    (∀ w n, s.siteOf w = some n → s.serves n = true → (∀ g ∈ s.arb.gangs, g.gr.st ≠ 1) → ∃ u : State,
      exec (.towerRetire w) s = .next (((List.range 8).map (8 * w + ·)).foldl State.settleCore u) ∧
      (u.site n).bs = 8 ∧ u.fab.pendingMap = s.fab.pendingMap ++ [⟨n, 2, 0⟩] ∧ u.mem = s.mem ∧
      (∀ c, c < 8 → ((u.coreAt (8 * w + c)).ctx 0).st = .stopped ∧ (∀ h, 1 ≤ h → h ≤ 10 → ((u.coreAt (8 * w + c)).ctx h).st = .free) ∧
        (u.coreAt (8 * w + c)).sb = [] ∧ (u.coreAt (8 * w + c)).fps = [] ∧ (u.coreAt (8 * w + c)).streams = [] ∧ (u.coreAt (8 * w + c)).comb = [] ∧
        (u.coreAt (8 * w + c)).mat.queue = []) ∧
      (∀ g, s.arb.gangs = [g] → g.ended = false → (∃ l ∈ g.occupied, l / 8 = w) →
        u.arb.gangs = [{ g with status := 8, gr := { g.gr with st := if g.gr.st = 3 then 5 else g.gr.st } }] ∧
        ∀ l ∈ g.occupied, l / 8 ≠ w →
          (Tab.find? (s.coreAt l).pend.causes 0x0E = none →
            Tab.find? (u.coreAt l).pend.causes 0x0E = some (BitVec.ofNat 64 (2 ^ 63 + 4 * 2 ^ 60))) ∧
          (∀ i, Tab.find? (s.coreAt l).pend.causes 0x0E = some i → Tab.find? (u.coreAt l).pend.causes 0x0E = some i) ∧
          ∀ k, (u.coreAt l).ctx k = (s.coreAt l).ctx k) ∧
      ((∀ g ∈ s.arb.gangs, g.ended = true ∨ ∀ l ∈ g.occupied, l / 8 ≠ w) → u.arb.gangs = s.arb.gangs ∧
        ∀ l, l / 8 ≠ w → u.coreAt l = s.coreAt l)) ∧
    (∀ w, (∀ n, s.siteOf w = some n → s.serves n = false) → exec (.towerRetire w) s = .next s) ∧
    (∀ p l, l = 64 + recNat p.record 0x18 4 →
      (signedOk p.record l 0 0 = false →
        exec (.testPackage p) s = .next { s with host := { s.host with reply := ⟨2, []⟩ } }) ∧
      (signedOk p.record l 0 0 = true → recNat p.record 0 2 = 0x103 → zeroAt p.record 2 2 = true → zeroAt p.record 6 2 = true →
        zeroAt p.record 0x20 32 = true →
        (recNat p.record 8 16 ≠ Config.serialNumber.toNat →
          exec (.testPackage p) s = .next { s with host := { s.host with reply := ⟨3, []⟩ } }) ∧
        (recNat p.record 8 16 = Config.serialNumber.toNat →
          (recNat p.record 4 1 + 18 * recNat p.record 5 1 ≠ p.site ∨ (s.site p.site).bs ≠ 8 →
            exec (.testPackage p) s = .next { s with host := { s.host with reply := ⟨4, []⟩ } }) ∧
          (recNat p.record 4 1 + 18 * recNat p.record 5 1 = p.site → recNat p.record 4 1 < 18 → p.site < 324 →
            (s.site p.site).bs = 8 → ∃ v : State, exec (.testPackage p) s = .next v ∧
            v = { s with fab := { s.fab with sites := v.fab.sites }, host := { s.host with reply := v.host.reply } } ∧
            v.site p.site = { s.site p.site with passed := (Config.patternFailure p.record p.site).isNone } ∧
            (∀ n, n ≠ p.site → v.site n = s.site n) ∧
            (Config.patternFailure p.record p.site = none → v.host.reply = ⟨0, []⟩) ∧
            ∀ i, Config.patternFailure p.record p.site = some i → v.host.reply.status = 1 ∧
              ∀ j, j < 4 → (Tab.get 0 v.host.reply.bytes j).toNat = i.toNat / 2 ^ (8 * j) % 256))))

/-- Ring, network-select entries, power, and the other modules. R372, R376, R391, R392: ring test packets, network-select
entries, power. Model's own: log entries 17 and 37. R411, R418, R419: the other modules. Model's own: log entry 27. R368 to R372:
what a link of the ring carries in a cycle, the slots of an input, and delivery. Which contender goes where the first has no
room: log entry 88. -/
def Obligations.FabricSettings : Prop :=
  (∀ (s : State) (lcn : Nat) (c : Core), c = s.coreAt lcn →
     (∀ v r j, v &&& ~~~(0xC7078000FFFF0000 : Word) = 0 → r = (s.towerAt (lcn / 8)).ring →
       j = (⟨r.next, .test, lcn % 8, bit v 62, bits v 48 3, bits v 56 3 + 1, 0, false, 0⟩ : RingInj) → ∃ t, exec (.ringTestInject lcn v) s = .next t ∧ s.spares t [0x195] ∧ t.mem = s.mem ∧
         (t.towerAt (lcn / 8)).ring = (if bit v 63 = true ∧ bits v 48 3 ≠ lcn % 8 ∧ r.busy (lcn % 8) = false then
           { r with next := r.next + 1, inj := r.inj ++ [j] } else r) ∧ (∀ w, w ≠ lcn / 8 → t.towerAt w = s.towerAt w) ∧
         bits ((t.coreAt lcn).reg 0x195) 48 3 = bits v 48 3 ∧ bits ((t.coreAt lcn).reg 0x195) 56 3 = bits v 56 3 ∧
         bit ((t.coreAt lcn).reg 0x195) 62 = bit v 62 ∧ bits ((t.coreAt lcn).reg 0x195) 16 16 = bits (c.reg 0x195) 16 16) ∧
     (∀ r, r = (s.towerAt (lcn / 8)).ring → (lcn % 8 ∉ r.landed → exec (.ringTestFlitDelivery lcn) s = .next s) ∧
       (lcn % 8 ∈ r.landed → ∃ t, exec (.ringTestFlitDelivery lcn) s = .next t ∧ s.spares t [0x195] ∧ t.mem = s.mem ∧
         (t.towerAt (lcn / 8)).ring = { r with landed := r.landed.erase (lcn % 8) } ∧ (∀ w, w ≠ lcn / 8 → t.towerAt w = s.towerAt w) ∧
         bits ((t.coreAt lcn).reg 0x195) 16 16 = (bits (c.reg 0x195) 16 16 + 1) % 2 ^ 16)) ∧
     (∀ group v cls dest, v &&& ~~~(0x8000000003FF0003 : Word) = 0 → cls = bits (c.reg 0x192) 9 2 → dest = bits (c.reg 0x192) 0 9 →
       (2 ≤ bits v 0 2 ∨ cls = 3 ∨ (cls ≤ 1 ∧ group = true) ∨ s.siteOf dest = none ∨
           s.meshOpen (bits v 0 2 == 1) (lcn / 8) dest = false →
         ∃ t, exec (.nsvalWrite lcn group v) s = .next t ∧ s.spares t [] ∧ t.mem = s.mem ∧ t.towers = s.towers ∧
           (t.coreAt lcn).nsRef = true) ∧
       (bits v 0 2 < 2 → cls < 3 → (cls ≤ 1 → group = false) → (s.siteOf dest).isSome = true →
           s.meshOpen (bits v 0 2 == 1) (lcn / 8) dest = true →
         ∃ t, exec (.nsvalWrite lcn group v) s = .next t ∧ s.spares t [] ∧ t.mem = s.mem ∧
           (t.coreAt lcn).nsRef = (c.nsRef && !bit v 63) ∧ t.nsEntry (lcn / 8) cls dest = BitVec.ofNat 26 (bits v 0 2) ∧
           ∀ w k, w ≠ lcn / 8 ∨ k ≠ 512 * cls + dest → Tab.find? (t.towerAt w).ns k = Tab.find? (s.towerAt w).ns k)) ∧
     (∀ w, exec (.powerCapSet w) s = .next { s with fab := { s.fab with pwcap := BitVec.ofNat 16 (max 18000 (min 30000 w)) } }) ∧
     (∀ r : BitVec 24, s.isCore lcn = false → exec (.rateLowering lcn r) s = .next s) ∧
     (∀ (r : BitVec 24) d, s.isCore lcn = true → d = c.governNow s.clock →
       exec (.rateLowering lcn r) s = .next (s.setCoreAt lcn (d.setReg 0x198 (BitVec.ofNat 64
         (if s.power ≤ s.fab.pwcap.toNat ∧ (s.towerAt (lcn / 8)).thr = false then r.toNat
           else min r.toNat (bits (c.reg 0x198) 0 24))))) ∧
       d = { c with sr := d.sr, mat := { c.mat with rem := d.mat.rem, winAt := d.mat.winAt } } ∧
       ∀ n, n ≠ mgovNow → n ≠ mgcapNow → d.reg n = c.reg n) ∧
     ∀ w hot (r : BitVec 24), ∃ t, exec (.thermalThrottle w hot r) s = .next t ∧ t.mem = s.mem ∧
       (∀ l, l / 8 ≠ w → t.coreAt l = s.coreAt l) ∧ (∀ l n, n ≠ 0x198 → n ≠ mgovNow → n ≠ mgcapNow → (t.coreAt l).reg n = (s.coreAt l).reg n) ∧
       (∀ l, t.coreAt l = { s.coreAt l with sr := (t.coreAt l).sr,
                                            mat := { (s.coreAt l).mat with rem := (t.coreAt l).mat.rem, winAt := (t.coreAt l).mat.winAt } }) ∧
       (t.towerAt w).thr = hot ∧ ∀ l, (t.coreAt l).reg 0x198 =
         if l / 8 = w then BitVec.ofNat 64 (if hot = true then min r.toNat (bits ((s.coreAt l).reg 0x198) 0 24) else r.toNat)
         else (s.coreAt l).reg 0x198) ∧
  (∀ (s : State) (f : Fabric), f = s.fab →
     (∀ m, m < 16 → m ≠ f.modnum → m ∉ f.downLinks → ∃ t, exec (.moduleLinkDown m) s = .next t ∧
       t = { s with fab := { f with downLinks := f.downLinks ++ [m], sentRounds := t.fab.sentRounds,
                                    lost := if f.partner m = true then f.lost ++ [m] else f.lost } } ∧
       t.fab.sentRounds = if s.arb.win = .turnC then min (rounds f.gsz) (t.fab.roundsOver + 1) else f.sentRounds) ∧
     (∀ r, rounds f.gsz ≤ r → exec (.windowGroupToken r) s = .next s) ∧
     (∀ r, r < rounds f.gsz → ∃ t, exec (.windowGroupToken r) s = .next t ∧
       t = { s with fab := { f with tokens := f.tokens ++ [r], sentRounds := t.fab.sentRounds } } ∧
       t.fab.sentRounds = if s.arb.win = .turnC then min (rounds f.gsz) (t.fab.roundsOver + 1) else f.sentRounds) ∧
     (∀ n p, 1 ≤ n → p < n → n < f.groupSize → exec (.groupMemberRemove n p) s =
       .next { s with fab := { f with newGroup := some (n, p) } }) ∧
     (s.groupReady = false → exec .computeWindowOpen s = .next s) ∧
     (1 < f.gsz → (∃ m ∈ f.lost, f.newGroup = none ∨ ∃ n p, f.newGroup = some (n, p) ∧ (Config.windowPosition n m).isSome = true) →
       s.groupReady = false) ∧
     (1 < f.gsz → f.lost = [] → (s.groupReady = true ↔ f.sentRounds = rounds f.gsz ∧ ∀ r, r < rounds f.gsz → r ∈ f.tokens)) ∧
     ∀ p m (base : BitVec 52) len, m < 16 → m ≠ f.modnum → (Tab.find? s.host.parts p).isSome = true → base.toNat + len ≤ 2 ^ 52 →
       exec (.linkWindowSetup p m base len) s = .next { s with fab := { f with links := f.links ++ [⟨p, m, base, len⟩] } }) ∧
  ((∀ (r : Ring) (c : Nat) (ccw : Bool) (m : RingMove) (l here : List RingFlit) (key : Option Nat), r.move c ccw = some m →
     l = r.input (ringNext c ccw) ccw → here = (r.input c ccw).filter (fun f => f.dest ≠ c) → key = Tab.find? r.held (ringKey c ccw) →
     m.now = { m.was with vc1 := m.was.vc1 || dateline c ccw, esc := m.now.esc } ∧
     (m.now.esc = false → 0 < freeShared l) ∧ (m.now.esc = true → freeShared l = 0 ∧ escapeFree l m.now.vc1 = true) ∧
     (∀ p, key = some p → m.was.pkt = p) ∧ (m.own = false → m.was ∈ here ∧ (key = none → m.was.head = true)) ∧
     (m.own = true → ∃ j ∈ r.inj, m.was = j.flit ∧ j.stop = c ∧ j.ccw = ccw ∧ j.entered = true ∧
       (key = none → j.waited < 16 → ∀ f ∈ here, f.head = true → slotFor l (f.vc1 || dateline c ccw) = none)) ∧
     (key = none → m.own = false → m.was.vc1 = false → ∀ f ∈ here, f.head = true → f.vc1 = true → slotFor l true = none) ∧
     (∀ n, n = Tab.find? (r.apply m).held (ringKey c ccw) →
       n = if m.was.last = true then none else some m.was.pkt)) ∧
   (∀ (r : Ring) (room : Ring → Prop), room = (fun r => ∀ c ccw, c < 8 → ((r.input c ccw).filter fun f => !f.esc).length ≤ 8 ∧
       ∀ vc, ((r.input c ccw).filter fun f => f.esc && f.vc1 == vc).length ≤ 1) → room r → room r.cycle) ∧
   (∀ (r : Ring), r.cycle.landed = r.landed ++ ((ringLinks.flatMap r.due).filter fun f => f.kind == .test).map fun f => f.dest) ∧
   (∀ c, c < 8 → Ring.idle.shown c = 0xF000008888) ∧
   ∀ (r : Ring) (c d n : Nat) (ccw : Bool), (r.inject .test c ccw d n).busy c = true)

/-- Doorbells, the acceptance of queue entries, and host copies. R402, R403, R413: doorbells, and the acceptance of entries.
Block numbers of event queues: log entry 30. R281, R404, R407, R409: copies for the host. Model's own: log entry 29. -/
def Obligations.HostQueues : Prop :=
  (∀ (s : State) (q : Nat) (x : HQueue), x = s.queueAt q → q < 4096 → x.vf.isSome = true →
     (∀ tail full, full = decide (x.err = 0 ∧ 2 ^ x.size.toNat < (tail - x.accept).toNat) → ∃ t, exec (.doorbellTailWrite q tail) s = .next t ∧
       t = { s with host := { s.host with queues := t.host.queues } } ∧ (∀ j, j ≠ q → t.queueAt j = s.queueAt j) ∧
       t.queueAt q = { x with tail := tail, err := if full = true then 1 else x.err }) ∧
     (∀ size base, ∃ t, exec (.doorbellSizeWrite q size base) s = .next t ∧
       t = { s with host := { s.host with queues := t.host.queues } } ∧ (∀ j, j ≠ q → t.queueAt j = s.queueAt j) ∧
       t.queueAt q = { x with size := size, base := base, err := 0 }) ∧
     (∀ v tail size base, v < 64 →
       (∃ t, exec (.doorbellTailWrite (4096 + v) tail) s = .next t ∧ t = { s with host := { s.host with events := t.host.events } } ∧
         (∀ j, j ≠ v → t.eventAt j = s.eventAt j) ∧ t.eventAt v = { s.eventAt v with head := tail }) ∧
       ∃ t, exec (.doorbellSizeWrite (4096 + v) size base) s = .next t ∧ t = { s with host := { s.host with events := t.host.events } } ∧
         (∀ j, j ≠ v → t.eventAt j = s.eventAt j) ∧ t.eventAt v = { s.eventAt v with size := size, base := base, err := 0 }) ∧
     (x.err ≠ 0 ∨ x.tail = x.accept ∨ 8 ≤ x.held.length ∨ s.queuePart q = none → exec (.queueEntryAccept q) s = .next s) ∧
     (∀ slot, (s.queuePart q).isSome = true → x.err = 0 → x.tail ≠ x.accept → x.held.length < 8 → 1 ≤ x.size.toNat → x.size.toNat ≤ 16 →
       slot = x.base.toNat + 128 * (x.accept.toNat % 2 ^ x.size.toNat) → s.calm = true → ∃ t, exec (.queueEntryAccept q) s = .next t ∧
       t.mem = s.mem ∧ t.cores = s.cores ∧ t.arb = s.arb ∧ t.towers = s.towers ∧ (∀ j, j ≠ q → t.queueAt j = s.queueAt j) ∧
       (2 ^ x.size.toNat < (x.tail - x.accept).toNat → t.queueAt q = { x with err := 1 }) ∧
       ((x.tail - x.accept).toNat ≤ 2 ^ x.size.toNat → Config.hostRefuses s.tick (BitVec.ofNat 43 slot) = true →
         t.queueAt q = { x with err := 2 }) ∧
       ((x.tail - x.accept).toNat ≤ 2 ^ x.size.toNat → Config.hostRefuses s.tick (BitVec.ofNat 43 slot) = false →
         t.queueAt q = { x with accept := x.accept + 1, held := x.held ++ [⟨s.bytesAt (s.hostPA slot) 128, false⟩] }))) ∧
  (∀ (s : State) (q part : Nat) (r : List Byte) (e : HEntry) (rest : List HEntry) (asid : BitVec 10) (n f : Nat),
   (s.queueAt q).held = e :: rest → e.bytes = r → s.queuePart q = some part → s.settled → recNat r 0 1 = 6 →
   asid = BitVec.ofNat 10 (recNat r 2 2) → n = recNat r 0x18 8 → f = recNat r 1 1 →
     (bits (entryCpl r) 0 6 ≠ 0 ∨ copyForm r = false → ∃ t, exec (.hostCopy q) s = .next t ∧
       t.queueAt q = { s.queueAt q with held := rest } ∧ s.wrote t (s.finalRecord s.tick q r 5 0) ∧ t.arb = s.arb ∧ s.spares t []) ∧
     (∀ (src dst : List Nat), bits (entryCpl r) 0 6 = 0 → copyForm r = true →
       s.copySide part asid (f % 2 == 1) false (recNat r 8 8) n = .ok src →
       s.copySide part asid (f / 2 == 1) true (recNat r 0x10 8) n = .ok dst →
       (s.copyFails (src.zip dst) = none → ∃ t, exec (.hostCopy q) s = .next t ∧
         t.queueAt q = { s.queueAt q with held := rest } ∧ s.spares t [0x185] ∧
         s.wrote t (List.zipWith (fun a b => (a, s.byteAt b)) dst src ++ s.finalRecord (s.tick + 1) q r 0 (BitVec.ofNat 64 n))) ∧
       (∀ m cells, s.copyFails (src.zip dst) = some m → cells = s.copied true (src.zip dst) → (m = 4 ∨ m = 5) ∧
         (∀ c ∈ cells, c ∈ src.zip dst ∧ s.wordFails (c.1 / 8 * 8) (c.2 / 8 * 8) = none) ∧ ∃ t, exec (.hostCopy q) s = .next t ∧
         t.queueAt q = { s.queueAt q with held := rest } ∧ s.spares t [0x185] ∧
         s.wrote t (cells.map (fun c => (c.2, s.byteAt c.1)) ++ s.finalRecord (s.tick + 1) q r 0 (-(BitVec.ofNat 64 m))))) ∧
     (∀ m, bits (entryCpl r) 0 6 = 0 → copyForm r = true →
       (s.copySide part asid (f % 2 == 1) false (recNat r 8 8) n = .error m ∨
         (∃ src, s.copySide part asid (f % 2 == 1) false (recNat r 8 8) n = .ok src) ∧
           s.copySide part asid (f / 2 == 1) true (recNat r 0x10 8) n = .error m) → ∃ t, exec (.hostCopy q) s = .next t ∧
         t.queueAt q = { s.queueAt q with held := rest } ∧ t.arb = s.arb ∧ s.spares t [] ∧
         s.wrote t (s.finalRecord (s.tick + 1) q r 0 (-(BitVec.ofNat 64 m)))))

/-- A launch record starts a gang, and the end of a gang reports it. R34, R69, R123, R401, R404 to R407: launch records. Model's
own: log entries 2, 4, 28, 39 and 67. R143, R153, R407. -/
def Obligations.GangsStartAndEnd : Prop :=
  (∀ (s : State) (q part : Nat) (r : List Byte) (e : HEntry) (rest : List HEntry), (s.queueAt q).held = e :: rest → e.bytes = r →
   s.queuePart q = some part → s.settled →
     (∀ n, (recNat r 0 1 ∉ [1, 6, 9] ∨ recNat r 0 1 = 1 ∧ bits (entryCpl r) 0 6 ≠ 0) ∧ n = 5 ∨
         recNat r 0 1 = 1 ∧ bits (entryCpl r) 0 6 = 0 ∧ (e.passed = false ∧ s.launchStatus part r false = some n ∨
           e.passed = true ∧ (recNat r 2 2 ≠ s.fab.mapgen.toNat ∧ n = 2 ∨ recNat r 2 2 = s.fab.mapgen.toNat ∧ n = 6 ∧
             (s.partAt part).images.any (fun i => i.base == recNat r 0x20 8) = false)) →
       ∃ t, exec (.launchStart q) s = .next t ∧ t.queueAt q = { s.queueAt q with held := rest } ∧ t.arb = s.arb ∧
         (∀ l, (t.coreAt l).mem = (s.coreAt l).mem) ∧ s.wrote t (s.finalRecord s.tick q r n 0)) ∧
     (∀ i, recNat r 0 1 = 1 → bits (entryCpl r) 0 6 = 0 →
       (e.passed = false ∧ s.launchStatus part r false = none ∨ e.passed = true ∧ recNat r 2 2 = s.fab.mapgen.toNat) →
       (s.partAt part).images.find? (fun i => i.base == recNat r 0x20 8) = some i →
       (s.dispatchHeld = true ∨ s.recordFree part r = false → ∃ t, exec (.launchStart q) s = .next t ∧
         t = { s with host := { s.host with queues := t.host.queues } } ∧ (∀ j, j ≠ q → t.queueAt j = s.queueAt j) ∧
         t.queueAt q = { s.queueAt q with held := { e with passed := true } :: rest }) ∧
       ((∃ l ∈ recordCores r, (s.coreAt l).mem.gang ≠ 0) → s.recordFree part r = false) ∧
       (∀ (ps as : List Nat) (p : Part), p = s.partAt part → s.dispatchHeld = false → s.recordFree part r = true → recNat r 1 1 = 0 → (∀ l ∈ recordCores r, l < 2304) → s.arb.win ≠ .compute → s.profileRange part i.base i.len = .ok ps →
         s.profileRange part (recNat r 0x38 8) (recNat r 6 2) = .ok as → ∃ t g, exec (.launchStart q) s = .next t ∧
           t.queueAt q = { s.queueAt q with held := rest } ∧ t.arb.gangs.getLast? = some g ∧ g.id = s.arb.nextGang ∧
           t.arb.nextGang = s.arb.nextGang + 1 ∧ g.part = part ∧ g.d0 ∈ s.freeIdents part ∧
           [g.x0, g.y0, g.x1, g.y1] = [recNat r 0x10 1, recNat r 0x11 1, recNat r 0x12 1, recNat r 0x13 1] ∧
           g.mask = BitVec.ofNat 8 (recNat r 4 1) ∧ g.shadow = none ∧
           g.record = r ∧ g.queue = q ∧ g.seq = entrySeq r ∧ g.cpl = entryCpl r ∧ g.active = true ∧ g.ended = false ∧ g.status = 0 ∧
           g.killed = 0 ∧ g.cbud = capped (recNat r 0x30 4) (bits (p.reg 0x1A1) 0 32) ∧
           g.xbud = capped (recNat r 0x34 4) (bits (p.reg 0x1A1) 32 32) ∧
           (t.dom ⟨g.id, 0, 0⟩).count = recNat r 0x28 8 % 2 ^ 48 ∧ (t.dom ⟨g.id, 0, 0⟩).done = true ∧
           (∀ l ∈ g.members, ∀ c y, c = t.coreAt l → y = c.ctx 0 → c.mem.gang = g.id ∧ c.mem.held = true ∧ y.st = .running ∧
             y.pc = BitVec.ofNat 48 (recNat r 0x20 8) ∧ y.priv = 0 ∧ y.gr 1 = 0xBFFFF00 ∧ y.gr 2 = BitVec.ofNat 64 l ∧
             y.gr 3 = BitVec.ofNat 64 (l % 8) ∧ (∀ j : BitVec 5, 3 < j.toNat → y.gr j = 0) ∧ (∀ n, y.reg n = 0) ∧
             (∀ h, 1 ≤ h → h ≤ 10 → (c.ctx h).st = .free) ∧ c.reg 0x008 = p.reg 0x1A2 ∧ c.reg 0x080 = p.reg 0x1A3 ∧
             c.reg 0x081 = p.reg 0x1A4 ∧ c.ta = false ∧ c.sb = [] ∧ c.fps = [] ∧ c.streams = [] ∧ c.hq = [] ∧ c.sfq = [] ∧
             (∀ j, (c.vec.reg j).data = 0) ∧ (∀ j, c.mat.tagOf j = 0)) ∧
           ((∀ c ∈ Config.domeSection (ps.map s.byteAt), c.1 < 0x3FFFF00) → ∀ l ∈ g.members, ∀ j, j < 256 →
             t.byteAt (s.domePA (l / 8) (0x3FFFF00 + j)) = ((as.map s.byteAt)[j]?).getD 0) ∧
           (∀ l, l ∉ g.members → ∀ k, (t.coreAt l).ctx k = (s.coreAt l).ctx k) ∧
           ∀ pa, (∀ l ∈ g.members, (pa < s.domePA (l / 8) 0 ∨ s.domePA (l / 8) 0x4000000 ≤ pa) ∧
               (pa < s.scratchPA l 0 ∨ s.scratchPA l 0x80000 ≤ pa)) → (∀ j, j < 64 → pa ≠ s.hostPA ((entryCpl r).toNat) + j) →
             t.byteAt pa = s.byteAt pa))) ∧
  (∀ (s : State) (g : Gang) (sfs sstep : Nat), s.gang? g.id = some g → s.gangOver g = true → s.settled →
   sfs = g.members.foldl (fun n l => n + (s.coreAt l).sfq.length) 0 →
   sstep = (match g.members with | l :: _ => (s.domOf l).sstep | [] => 0) →
   ∃ u : State, exec (.gangEnd g.id) s = .next u.windowCheck ∧ u.gang? g.id = some { g with active := false, ended := true } ∧
     (∀ l ∈ g.occupied, (u.coreAt l).mem.gang = 0 ∧ (u.coreAt l).mem.shown = (s.coreAt l).mem.shown) ∧
     s.wrote u (s.completion s.tick g.queue g.seq g.cpl 3 g.status g.killed sfs (BitVec.ofNat 64 sstep)) ∧
     (∀ l ∈ g.occupied, ∀ n, (Tab.get Phaser.fresh (u.towerAt (l / 8)).phasers n).owner = g.id → g.id = 0) ∧
     (∀ l k, (u.coreAt l).ctx k = (s.coreAt l).ctx k) ∧ (∀ l n, (u.coreAt l).reg n = (s.coreAt l).reg n) ∧
     ∀ l, (u.coreAt l).vec = (s.coreAt l).vec ∧ (u.coreAt l).mat = (s.coreAt l).mat)

/-- Gang control blocks: pre-empt, kill and restore. R314, R329, R331, R332, R404, R410: gang control blocks. Model's own: log
entries 21 and 39. -/
def Obligations.GangControl : Prop :=
  ∀ (s : State) (q part : Nat) (r : List Byte) (e : HEntry) (rest : List HEntry), (s.queueAt q).held = e :: rest → e.bytes = r →
  s.queuePart q = some part → s.settled → recNat r 0 1 = 9 →
    (∀ ev ∈ [Instr.gcbPreempt q, .gcbKill q, .gcbRestore q], bits (entryCpl r) 0 6 ≠ 0 ∨ gcbForm r = false → ∃ t, exec ev s = .next t ∧
      t.queueAt q = { s.queueAt q with held := rest } ∧ t.arb = s.arb ∧ s.spares t [] ∧ s.wrote t (s.finalRecord s.tick q r 5 0)) ∧
    (bits (entryCpl r) 0 6 = 0 → gcbForm r = true →
      (∀ ev op, (ev, op) ∈ [(Instr.gcbPreempt q, 1), (.gcbKill q, 3)] → recNat r 1 1 = op →
        (∀ g ∈ s.arb.gangs, g.ended = true ∨ g.queue ≠ q ∨ g.seq ≠ recWord r 8) → ∃ t, exec ev s = .next t ∧
        t.queueAt q = { s.queueAt q with held := rest } ∧ t.arb = s.arb ∧ s.spares t [] ∧ s.wrote t (s.finalRecord s.tick q r 5 0)) ∧
      (∀ g, s.targetGang q r = some g → s.gang? g.id = some g →
        (recNat r 1 1 = 1 → ∃ t, exec (.gcbPreempt q) s = .next t ∧ t.queueAt q = { s.queueAt q with held := rest } ∧ s.spares t [] ∧
          t.gang? g.id = some { g with gr := { g.gr with req := true, area := BitVec.ofNat 32 (bits (recWord r 0x10) 16 32), reqAt := s.clock } } ∧
          s.wrote t (s.finalRecord s.tick q r 0 0)) ∧
        (recNat r 1 1 = 3 → ∃ u : State, exec (.gcbKill q) s = .next ((g.occupied.foldl State.settleCore u).finishHead q r 0 0) ∧
          (∀ h, u.gang? g.id = some h → h.status = 10) ∧
          (∀ l ∈ g.occupied, ((u.coreAt l).ctx 0).st = .stopped ∧ (u.coreAt l).streams = [] ∧
            ∀ h, 1 ≤ h → h ≤ 10 → ((u.coreAt l).ctx h).st = .free))) ∧
      (∀ (h h' : List Byte) (id : Nat), recNat r 1 1 = 2 → s.areaHead part (bits (recWord r 0x10) 16 32 * 65536) = some h →
        h' = (h.drop 8).take 128 → recNat h 0 2 = 0x102 → e.passed = true ∨ s.launchStatus part h' true = none →
        (s.dispatchHeld = true ∨ s.recordFree part h' = false ∨
            s.phasersFree part h' (bits (recWord r 0x10) 16 32 * 65536) = false → ∃ t, exec (.gcbRestore q) s = .next t ∧
          t = { s with host := { s.host with queues := t.host.queues } } ∧ (∀ j, j ≠ q → t.queueAt j = s.queueAt j) ∧
          t.queueAt q = { s.queueAt q with held := { e with passed := true } :: rest }) ∧
        (recNat h' 1 1 = 0 → s.dispatchHeld = false → s.recordFree part h' = true →
        s.phasersFree part h' (bits (recWord r 0x10) 16 32 * 65536) = true → id = recNat h 0x88 1 →
        ∃ t g, exec (.gcbRestore q) s = .next t ∧ t.queueAt q = { s.queueAt q with held := rest } ∧ t.mem = s.mem ∧
          t.arb.gangs.getLast? = some g ∧ g.id = s.arb.nextGang ∧ g.part = part ∧ g.active = false ∧
          [g.x0, g.y0, g.x1, g.y1] = [recNat h' 0x10 1, recNat h' 0x11 1, recNat h' 0x12 1, recNat h' 0x13 1] ∧
          g.mask = BitVec.ofNat 8 (recNat h' 4 1) ∧
          g.gr.st = 3 ∧ g.gr.area = BitVec.ofNat 32 (bits (recWord r 0x10) 16 32) ∧ g.d0 ∈ s.freeIdents part ∧
          (id ∈ s.freeIdents part → g.d0 = id) ∧
          (∀ l ∈ g.members, (t.coreAt l).mem.gang = g.id ∧ ((t.coreAt l).ctx 0).st = .stopped) ∧
          ∀ l, l ∉ g.members → t.coreAt l = s.coreAt l)))

/-- The fault agent: page faults, double traps, halts, answers and the timeout. R251, R314, R413: the fault agent. Model's own:
log entries 41 and 42. -/
def Obligations.FaultAgent : Prop :=
  ∀ (s : State) (w : Nat) (rest : List BelfryMsg),
    (∀ lcn slot kind va asid part ss seq m, (s.towerAt w).belfry = .notPresent lcn slot kind va asid part ss seq :: rest →
      Tab.find? (s.coreAt lcn).mail slot = some m → m.seq = seq → m.answer = none →
      (s.eventVf (s.towerAt w).part = none → ∃ t, exec (.faultAgentMessage w) s = .next t ∧ s.spares t [] ∧ t.mem = s.mem ∧
        (t.towerAt w).belfry = rest ∧ Tab.find? (t.coreAt lcn).mail slot = some { m with answer := some true }) ∧
      (∀ v x rec', s.eventVf (s.towerAt w).part = some v → x = s.eventAt v → x.err = 0 → (x.tail - x.head).toNat < 2 ^ x.size.toNat →
        Config.hostRefuses s.tick (BitVec.ofNat 43 (x.base.toNat + 64 * (x.tail.toNat % 2 ^ x.size.toNat))) = false → s.settled →
        rec' = eventRecord 1 lcn va.toNat (lcn % 65536 + slot % 256 * 2 ^ 16 + kind % 256 * 2 ^ 24 + asid.toNat * 2 ^ 32 +
          part % 256 * 2 ^ 48) ss.toNat seq → ∃ t, exec (.faultAgentMessage w) s = .next t ∧ s.spares t [] ∧
        (t.towerAt w).belfry = rest ∧ t.eventAt v = { x with tail := x.tail + 1 } ∧
        Tab.find? (t.coreAt lcn).mail slot = some { m with asked := some s.clock } ∧
        s.wrote t (rec'.zipIdx.map fun b => (s.hostPA (x.base.toNat + 64 * (x.tail.toNat % 2 ^ x.size.toNat)) + b.2, b.1)))) ∧
    (∀ lcn cause ep g, (s.towerAt w).belfry = .doubleTrap lcn cause ep :: rest → s.eventVf (s.towerAt w).part = none →
      s.gang? (s.coreAt lcn).mem.gang = some g → g.ended = false → ∃ u : State,
        exec (.faultAgentMessage w) s = .next (g.occupied.foldl State.settleCore u) ∧
        (∀ h, u.gang? g.id = some h → h.status = 7) ∧
        ∀ l ∈ g.occupied, ((u.coreAt l).ctx 0).st = .stopped ∧ ∀ h, 1 ≤ h → h ≤ 10 → ((u.coreAt l).ctx h).st = .free) ∧
    (∀ lcn pc, (s.towerAt w).belfry = .halt lcn pc :: rest → s.eventVf (s.towerAt w).part = none →
      ∃ t, exec (.faultAgentMessage w) s = .next t ∧ s.spares t [] ∧ t.mem = s.mem ∧ (t.towerAt w).belfry = rest ∧ t.host = s.host) ∧
    (∀ vf ans seq lcn slot m, lcn = bits ans 0 12 → slot = bits ans 12 4 → Tab.find? (s.coreAt lcn).mail slot = some m →
      m.answer = none →
      ((s.vfPart vf).isSome = true → s.vfPart vf = s.partHeld lcn → bits ans 17 47 = 0 → m.seq = seq.toNat →
        ∃ t, exec (.eventAnswer vf ans seq) s = .next t ∧ s.spares t [] ∧ t.mem = s.mem ∧
          Tab.find? (t.coreAt lcn).mail slot = some { m with answer := some (bit ans 16) }) ∧
      (s.vfPart vf = none ∨ s.vfPart vf ≠ s.partHeld lcn ∨ bits ans 17 47 ≠ 0 ∨ m.seq ≠ seq.toNat →
        ∃ t, exec (.eventAnswer vf ans seq) s = .next t ∧ t.cores = s.cores ∧ t.mem = s.mem ∧ t.arb = s.arb ∧ t.fab = s.fab)) ∧
    ∀ lcn slot m limit, Tab.find? (s.coreAt lcn).mail slot = some m → limit = (s.partAt (s.partOf lcn)).timeout →
      (limit = 0 ∨ m.asked = none → exec (.faultTimeout lcn slot) s = .next s) ∧
      (∀ at', limit ≠ 0 → m.asked = some at' → m.answer = none →
        at' + limit * (if s.fab.sites.any (fun e => e.2.bs == 6) = true then 1000 else 4000) ≤ s.clock →
        ∃ t, exec (.faultTimeout lcn slot) s = .next t ∧ s.spares t [] ∧ t.mem = s.mem ∧
          Tab.find? (t.coreAt lcn).mail slot = some { m with answer := some true })

/-- Partitions, towers, images and attestation. R381, R400, R402, R412, R415 to R417, R421: what root firmware does for
partitions. Model's own: log entries 11, 31 and 36. -/
def Obligations.Partitions : Prop :=
  ∀ (s : State) (no yes : Reply), no = ⟨1, []⟩ → yes = ⟨0, []⟩ →
    (∀ r, s.createOk r = false → exec (.partitionCreate r) s = .next { s with host := { s.host with reply := no } }) ∧
    (∀ r, s.createOk r = true → ∃ t p, exec (.partitionCreate r) s = .next t ∧ t.host.reply = yes ∧ t.mem = s.mem ∧ t.cores = s.cores ∧
      t.arb = s.arb ∧ t.fab = s.fab ∧ Tab.find? t.host.parts r.part = some p ∧ p.key = Config.partitionKey s.tick ∧
      p.tenant = r.tenant ∧ p.timeout = r.timeout ∧ p.vfs = r.vfs ∧ p.images = [] ∧
      p.reg 0x1A1 = BitVec.ofNat 64 (r.xcap.toNat * 2 ^ 32 + r.ccap.toNat) ∧
      (∀ n v x, (n, v) ∈ [(0x1A2, r.pvec), (0x1A3, r.pspace), (0x1A4, r.proot), (0x1A5, r.psave), (0x1A6, r.pjour), (0x1A7, r.pdome)] →
        srRow n = some x → p.reg n = v &&& BitVec.ofNat 64 x.rw) ∧
      (∀ w, (t.towerAt w).part = if w ∈ r.towers then some r.part else (s.towerAt w).part) ∧
      (∀ e ∈ r.queues, ∃ v, (e.1, v) ∈ r.queues ∧ t.queueAt e.1 = { HQueue.reset with vf := some v }) ∧
      (∀ v ∈ r.vfs, t.eventAt v = EventQ.reset) ∧ ∀ n, n ≠ r.part → Tab.find? t.host.parts n = Tab.find? s.host.parts n) ∧
    (∀ p, (Tab.find? s.host.parts p = none ∨ ∃ g ∈ s.arb.gangs, g.part = p ∧ g.ended = false) →
      exec (.partitionDestroy p) s = .next { s with host := { s.host with reply := no } }) ∧
    (∀ p, (Tab.find? s.host.parts p).isSome = true → (∀ g ∈ s.arb.gangs, g.part = p → g.ended = true) → ∃ t,
      exec (.partitionDestroy p) s = .next t ∧ t.host.reply = yes ∧ Tab.find? t.host.parts p = none ∧ t.mem = s.mem ∧
      t.cores = s.cores ∧ t.arb = s.arb ∧ (∀ n, n ≠ p → Tab.find? t.host.parts n = Tab.find? s.host.parts n) ∧
      (∀ l ∈ t.fab.links, l.part ≠ p) ∧ (∀ w, (s.towerAt w).part = some p → (t.towerAt w).part = none) ∧ ∀ v ∈ (s.partAt p).vfs, ∀ q, (s.queueAt q).vf = some v → t.queueAt q = HQueue.reset) ∧
    (∀ p w, (Tab.find? s.host.parts p).isSome = true → w < 288 →
      ((s.towerAt w).part = none → ∃ t, exec (.towerAssign p w true) s = .next t ∧
        t = { s with towers := t.towers, host := { s.host with reply := yes } } ∧
        t.towerAt w = { s.towerAt w with part := some p } ∧ ∀ j, j ≠ w → t.towerAt j = s.towerAt j) ∧
      ((s.towerAt w).part ≠ none → exec (.towerAssign p w true) s = .next { s with host := { s.host with reply := no } }) ∧
      ((s.towerAt w).part = some p → (∀ g ∈ s.arb.gangs, g.part = p → g.ended = false → ∀ l ∈ g.occupied, l / 8 ≠ w) → ∃ t,
        exec (.towerAssign p w false) s = .next t ∧ t = { s with towers := t.towers, host := { s.host with reply := yes } } ∧
        t.towerAt w = { s.towerAt w with part := none } ∧ ∀ j, j ≠ w → t.towerAt j = s.towerAt j)) ∧
    (∀ p (addr : BitVec 43) len part r base n ps, Tab.find? s.host.parts p = some part → s.calm = true →
      Config.hostRefuses s.tick addr = false → r = s.bytesAt (s.hostPA addr.toNat) len → imageOk r part.tenant = true →
      base = recNat r 0x10 8 → n = recNat r 0x18 8 → s.profileRange p base n = .ok ps →
      (ps.map s.byteAt = (r.drop 64).take n → ∃ t, exec (.imageRegister p addr len) s = .next t ∧ t.host.reply = yes ∧ t.mem = s.mem ∧
        t.cores = s.cores ∧ Tab.find? t.host.parts p =
          some { part with images := part.images.filter (fun i => i.base != base) ++ 
            [{ base := base, len := n, hash := Config.sha384 ((r.drop 64).take n) }] }) ∧
      (ps.map s.byteAt ≠ (r.drop 64).take n → ∃ t, exec (.imageRegister p addr len) s = .next t ∧ t.host.reply = no ∧
        t.host.parts = s.host.parts ∧ t.mem = s.mem)) ∧
    (∀ nonce p, Tab.find? s.host.parts p = none → exec (.attest nonce (some p)) s = .next { s with host := { s.host with reply := no } }) ∧
    ∀ (nonce : BitVec 256) part, (∀ p, part = some p → (Tab.find? s.host.parts p).isSome = true) → ∃ t b,
      exec (.attest nonce part) s = .next t ∧ t = { s with host := { s.host with reply := ⟨0, b⟩ } } ∧ Tab.get 0 b 0 = 0xA ∧
      (∀ j, j < 32 → (Tab.get 0 b (1 + j)).toNat = nonce.toNat / 2 ^ (8 * j) % 256) ∧
      (∀ j, j < 16 → (Tab.get 0 b (33 + j)).toNat = Config.serialNumber.toNat / 2 ^ (8 * j) % 256) ∧
      (∀ j, j < 48 → (Tab.get 0 b (49 + j)).toNat = (Config.sha384 Config.rootFirmware).toNat / 2 ^ (8 * j) % 256) ∧
      Tab.get 0 b 153 = BitVec.ofNat 8 s.fab.rows ∧ Tab.get 0 b 154 = BitVec.ofNat 8 s.fab.tokenWhy ∧
      ∀ j, j < 2 → (Tab.get 0 b (145 + j)).toNat = s.fab.mapgen.toNat / 2 ^ (8 * j) % 256

/-- Uncorrectable errors, rollback, and the fatal trap. R318, R321, R323, R324: uncorrectable errors. Which consumer is which
SRC: log entry 32. R313, R319, R325: rollback, and the fatal trap. -/
def Obligations.ErrorsAndRollback : Prop :=
  (∀ (s : State) (lcn k : Nat) (pa : BitVec 56) (c : Core), c = s.coreAt lcn →
     (∀ src : BitVec 3, src = 0 ∧ (c.ctx k).live = true ∨
         src = 2 ∧ k = 0 ∧ (c.mat.queue ≠ [] ∨ s.matrixNext lcn = true) →
       ∃ t, exec (.uncorrectableErrorConsumed lcn k src pa) s = .next t ∧ s.spares t [0x187] ∧ t.mem = s.mem ∧
         (t.coreAt lcn).reg 0x187 = BitVec.ofNat 64 (2 ^ 63 + src.toNat * 2 ^ 60 + pa.toNat) ∧
         ∀ g, s.gang? c.mem.gang = some g → t.gang? g.id =
           some (if g.gr.report.isSome = true then g else { g with gr := { g.gr with report := some (lcn, k, src, pa) } })) ∧
     (∀ f, s.fp? lcn f.id = some f →
       (c.fps.find? fun f => f.ctx == k && (f.going && (f.rd ++ f.far).any (inRange pa.toNat))) = some f →
       s.settled → f.local? = true ∨ (∃ r src n, f.op = .xput r src n) →
       ∃ t, exec (.uncorrectableErrorConsumed lcn k 1 pa) s = .next t ∧ s.spares t [0x187] ∧
         (∀ p, f.local? = true → p ∉ flat f.wr → t.byteAt p = s.byteAt p) ∧ (f.local? = false → t.mem = s.mem) ∧ t.fp? lcn f.id = some { f with stage := .lost pa.toNat } ∧
         (t.coreAt lcn).reg 0x187 = BitVec.ofNat 64 (2 ^ 63 + 2 ^ 60 + pa.toNat)) ∧
     (∀ o a, s.journalHolder pa.toNat = some (o, a) → s.fab.migs = [] →
       ∃ t, exec (.uncorrectableErrorConsumed lcn k 5 pa) s = .next t ∧ t.byteAt (a + 16) = 1 ∧
         (∀ p, p ≠ a + 16 → t.byteAt p = s.byteAt p) ∧ bit ((t.coreAt o).reg 0x185) 63 = true ∧ bits ((t.coreAt o).reg 0x185) 59 3 = 5 ∧
         bits ((t.coreAt o).reg 0x187) 60 4 = 13 ∧ ∀ g, t.gang? (s.coreAt o).mem.gang = some g → g.gr.nrg = true) ∧
     (∀ src : BitVec 3, src = 0 ∧ (c.ctx k).live = false ∨ src = 2 ∧ c.mat.queue = [] ∧ s.matrixNext lcn = false ∨
         src = 3 ∧ s.twinned lcn = false ∨ src = 4 ∨ src = 6 ∨ src = 7 →
       exec (.uncorrectableErrorConsumed lcn k src pa) s = .next s)) ∧
  (∀ (s : State) (g : Gang) (lcn k : Nat) (src : BitVec 3) (pa : BitVec 56), s.gang? g.id = some g →
   g.gr.report = some (lcn, k, src, pa) → s.arb.win ≠ .compute →
     (∀ n info, g.gr.st ≠ 1 → k = 0 → src = 0 → lcn ∈ g.occupied → (s.coreAt lcn).ta = false → ((s.coreAt lcn).ctx 0).live = true →
       ((g.gr.nrg = true ∨ s.beyondHelp g = true) ∧ n = 0 ∨
         g.gr.nrg = false ∧ s.beyondHelp g = false ∧ 4 ≤ g.gr.rbHere ∧ n = 6) →
       info = BitVec.ofNat 64 (2 ^ 63 + n * 2 ^ 60 + pa.toNat) → ∃ t, exec (.rollback g.id) s = .next t ∧ t.mem = s.mem ∧
         (t.coreAt lcn).reg 0x009 = 0x0E ∧ (t.coreAt lcn).reg 0x00B = info ∧ (t.coreAt lcn).ta = true ∧
         bits ((t.coreAt lcn).reg 0x00A) 2 46 = ((s.coreAt lcn).ctx 0).faultPc.toNat / 4 ∧
         bit ((t.coreAt lcn).reg 0x00C) 0 = false ∧ ((t.coreAt lcn).ctx 0).priv = 1 ∧
         ((t.coreAt lcn).ctx 0).pc = BitVec.ofNat 48 (bits ((s.coreAt lcn).reg 0x008) 2 46 * 4) ∧
         (∀ h, t.gang? g.id = some h → h.status = 8 ∧ h.gr.report = none) ∧
         ∀ l ∈ g.occupied, l ≠ lcn →
           (Tab.find? (s.coreAt l).pend.causes 0x0E = none → Tab.find? (t.coreAt l).pend.causes 0x0E = some info) ∧
           (∀ i, Tab.find? (s.coreAt l).pend.causes 0x0E = some i → Tab.find? (t.coreAt l).pend.causes 0x0E = some i) ∧
           ∀ j, (t.coreAt l).ctx j = (s.coreAt l).ctx j) ∧
     (g.gr.st = 1 → ∃ t : State, exec (.rollback g.id) s = .next t.windowCheck ∧ t.mem = s.mem ∧
       (∀ h, t.gang? g.id = some h → h.status = 8 ∧ h.active = true ∧ h.gr = { g.gr with report := none, st := 5, err := 3, req := false }) ∧
       ∀ l ∈ g.occupied, (Tab.find? (s.coreAt l).pend.causes 0x0E = none → Tab.find? (t.coreAt l).pend.causes 0x0E =
           some (BitVec.ofNat 64 (2 ^ 63 + src.toNat * 2 ^ 60 + pa.toNat))) ∧
         ∀ i, Tab.find? (s.coreAt l).pend.causes 0x0E = some i → Tab.find? (t.coreAt l).pend.causes 0x0E = some i) ∧
     (g.gr.st ≠ 1 → g.gr.nrg = false → s.beyondHelp g = false → g.gr.rbHere < 4 → s.fab.migs = [] →
       (g.occupied.Nodup → (∀ l ∈ g.occupied, bits ((s.coreAt l).reg 0x185) 0 32 = 0) → ∃ u : State, exec (.rollback g.id) s = .next u.windowCheck ∧
         u.mem = s.mem ∧
         (∀ h, u.gang? g.id = some h → h.gr.report = none ∧ h.gr.rbHere = g.gr.rbHere + 1 ∧ h.gr.rb = min (g.gr.rb + 1) (2 ^ 32 - 1)) ∧
         ∀ l ∈ g.occupied, (u.coreAt l).sb = [] ∧ (u.coreAt l).comb = [] ∧ (u.coreAt l).mat.queue = [] ∧
           ((u.coreAt l).ctx 0).tokens = [] ∧ (u.coreAt l).pend.helpers = [] ∧
           ∀ a r, s.viewPA l (s.coreAt l).journalBase = some a → r = s.bytesAt a 0x20000 →
             ((u.coreAt l).ctx 0).pc = BitVec.ofNat 48 (bits (recWord r 0x1100) 2 46 * 4) ∧
             ((u.coreAt l).ctx 0).priv = BitVec.ofNat 2 (bits (recWord r 0x1800) 0 1) ∧
             (∀ j : BitVec 5, j ≠ 0 → ((u.coreAt l).ctx 0).gr j = recWord r (0x1000 + 8 * j.toNat)) ∧
             (∀ n, n ∈ [0x008, 0x009, 0x00A, 0x00B, 0x080, 0x081] → (u.coreAt l).reg n = recRaw n (recWord r (0x1800 + 8 * n))) ∧
             (∀ i, i < 32 → (Tab.get VReg.zero (u.coreAt l).vec.v i).data = BitVec.ofNat 2048 (recNat r (0x4000 + 256 * i) 256)) ∧
             (u.coreAt l).mem.held = true ∧ ((u.coreAt l).fps.all fun f => match f.op with | .sbind _ => true | _ => false) = true) ∧
       (∀ l a b, g.occupied = [l] → bits ((s.coreAt l).reg 0x185) 0 32 = 1 →
         s.viewPA l ((s.coreAt l).journalBase + 131072) = some a → bit (s.wordAt (a + 16)) 0 = false →
         s.viewPA l (s.wordAt a).toNat = some b → ∃ u : State, exec (.rollback g.id) s = .next u.windowCheck ∧
           (∀ i, i < 256 → u.byteAt (b + i) = s.byteAt (a + 64 + i)) ∧
           ∀ p, p < b ∨ b + 256 ≤ p → u.byteAt p = s.byteAt p)) ∧
     (∀ h, h.gr.report = none → s.gang? h.id = some h → exec (.rollback h.id) s = .next s))

/-- Pre-emption: request, save, restore. R317, R318, R329 to R332: pre-emption. Model's own: log entries 21 and 33. -/
def Obligations.Preemption : Prop :=
  ∀ (s : State) (g : Gang), s.gang? g.id = some g →
    (∀ lcn v, v &&& ~~~(0x8000FFFFFFFF0000 : Word) = 0 → (s.coreAt lcn).mem.gang = g.id → ∃ t, exec (.preemptRequest lcn v) s = .next t ∧
      t.mem = s.mem ∧ t.cores = s.cores ∧ t.gang? g.id = some { g with gr := { g.gr with req := bit v 63, area := BitVec.ofNat 32 (bits v 16 32), reqAt := s.clock } }) ∧
    (g.gr.st ≠ 1 ∨ g.ended = true ∨ s.saveWindow = false → exec (.preemptSave g.id) s = .next s) ∧
    (g.gr.st ≠ 3 ∨ g.ended = true ∨ s.saveWindow = false ∨
      s.phasersFree g.part g.record (g.gr.area.toNat * 65536) = false → exec (.preemptRestore g.id) s = .next s) ∧
    (∀ (c : Core) err, c = s.coreAt ((leastOf g.members).getD 0) → g.gr.st = 1 → g.ended = false → s.saveWindow = true →
      (s.saveRange g = none ∧ err = 5 ∨ (∃ r, s.saveRange g = some r) ∧ c.bound = none ∧ err = 1 ∨
        ∃ su nu n, s.saveRange g = some (su, nu) ∧ c.bound = some n ∧
          s.saveAll g.part n c.root (s.areaSegments g (g.gr.area.toNat * 65536) su nu) = .error err) →
      ∃ t : State, exec (.preemptSave g.id) s = .next t.windowCheck ∧ t.mem = s.mem ∧ t.cores = s.cores ∧
        (t.dom ⟨g.id, 0, 0⟩).done = true ∧ (t.dom ⟨g.id, 0, 0⟩).carried = true ∧
        t.gang? g.id = some { g with active := true, gr := { g.gr with st := 5, err := err, req := false } }) ∧
    (∀ (c : Core) (w : State) su nu n, c = s.coreAt ((leastOf g.members).getD 0) → g.gr.st = 1 → g.ended = false →
      s.saveWindow = true → s.saveRange g = some (su, nu) → c.bound = some n →
      s.saveAll g.part n c.root (s.areaSegments g (g.gr.area.toNat * 65536) su nu) = .ok w →
      ∃ u : State, exec (.preemptSave g.id) s = .next u.windowCheck ∧ u.mem = w.mem ∧
        u.gang? g.id = some { g with status := 9, gr := { g.gr with st := 2, req := false } } ∧
        ∀ l ∈ g.occupied, ((u.coreAt l).ctx 0).st = .stopped ∧ (∀ h, 1 ≤ h → h ≤ 10 → ((u.coreAt l).ctx h).st = .free) ∧
          (u.coreAt l).sb = [] ∧ (u.coreAt l).fps = [] ∧ (u.coreAt l).comb = [] ∧ (u.coreAt l).streams = [] ∧ (u.coreAt l).hq = []) ∧
    (∀ f va len cells, s.fab.migs = [] → Tab.wf (0 : Byte) cells = true → (∀ e ∈ cells, e.1 < len) → va % 2 ^ 18 + len ≤ 2 ^ 18 →
      (∀ i, i < len → (s.putSegment [f] va len cells).byteAt (f + va % 2 ^ 18 + i) = Tab.get 0 cells i) ∧
      ∀ p, p < f + va % 2 ^ 18 ∨ f + va % 2 ^ 18 + len ≤ p → (s.putSegment [f] va len cells).byteAt p = s.byteAt p) ∧
    (s.restoreReady g = true →
      (s.areaBytes g.part ((leastOf g.members).getD 0 / 8) (g.gr.area.toNat * 65536) 0x98 = none → ∃ t, exec (.preemptRestore g.id) s = .next t ∧ t.mem = s.mem ∧
        t.cores = s.cores ∧ t.gang? g.id = some { g with status := 8, gr := { g.gr with st := 5, err := 1 } }) ∧
      ∀ h r m l a, g.members = [l] → g.shadow = none → bits ((s.partAt g.part).reg 0x1A7) 0 8 = 0 →
        s.areaBytes g.part (l / 8) (g.gr.area.toNat * 65536) 0x98 = some h → s.fab.migs = [] →
        a = slotAt (g.gr.area.toNat * 65536) 0 (g.slot l) + 0xA0000 * (l % 8) → s.areaBytes g.part (l / 8) a 0x20000 = some r →
        s.areaBytes g.part (l / 8) (a + 0x20000) 0x80000 = some m → (s.partAt g.part).space.isSome = true →
          ∃ t : State, exec (.preemptRestore g.id) s = .next t.windowCheck ∧ (t.dom ⟨g.id, 0, 0⟩).carried = true ∧
          t.gang? g.id = some { g with active := true, gr := { g.gr with st := 4, mapchg := recNat h 0x8A 2 != s.fab.mapgen.toNat } } ∧
          (t.dom ⟨g.id, 0, 0⟩).sstep = recNat h 0x90 8 ∧ (t.dom ⟨g.id, 0, 0⟩).done = true ∧
          (∀ i, i < 0x80000 → t.byteAt (s.scratchPA l i) = (m[i]?).getD 0) ∧
          (∀ p, p < s.scratchPA l 0 ∨ s.scratchPA l 0x80000 ≤ p → t.byteAt p = s.byteAt p) ∧
          ((t.coreAt l).ctx 0).pc = BitVec.ofNat 48 (bits (recWord r 0x1100) 2 46 * 4) ∧ (t.coreAt l).mem.held = true ∧
          (∀ j : BitVec 5, j ≠ 0 → ((t.coreAt l).ctx 0).gr j = recWord r (0x1000 + 8 * j.toNat)) ∧
          (∀ i, i < 32 → (Tab.get VReg.zero (t.coreAt l).vec.v i).data = BitVec.ofNat 2048 (recNat r (0x4000 + 256 * i) 256)) ∧
          ∀ j, j ≠ l → t.coreAt j = s.coreAt j)

/-- The state after reset, core reset and module reset. R35, R121, R150, R153, R388: the state after reset. Boot values and
registers without a reset value: log entries 5 and 6. R35, R153, R384, R388: core reset and module reset. What a module reset
keeps, and resets without a stated value: log entries 5 and 6. -/
def Obligations.Resets : Prop :=
  (Memory.wf State.reset.mem = true ∧ State.reset.safe = true ∧ (∀ pa, State.reset.byteAt pa = 0) ∧
   (∀ l, (State.reset.coreAt l).ta = false ∧ (State.reset.coreAt l).sb = [] ∧ (State.reset.coreAt l).bound = none ∧
     ((State.reset.coreAt l).ctx 0).st = .stopped ∧ (∀ h, 1 ≤ h → h ≤ 10 → ((State.reset.coreAt l).ctx h).st = .free) ∧
     (∀ k, ((State.reset.coreAt l).ctx k).pc = 0 ∧ (∀ r, ((State.reset.coreAt l).ctx k).gr r = 0) ∧
       ∀ n, ((State.reset.coreAt l).ctx k).reg n = 0) ∧ ∀ n, n ≠ 0x198 → n ≠ mgcapNow → (State.reset.coreAt l).reg n = 0) ∧
   (∀ n, (State.reset.site n).bs = 0) ∧ State.reset.arb.win = .compute ∧ State.reset.arb.gangs = [] ∧
   (∀ w j, (State.reset.towerAt w).part = none ∧ (Tab.get Phaser.fresh (State.reset.towerAt w).phasers j).owner = 0)) ∧
  (∀ (s : State),
     (∀ lcn, s.isCore lcn = false → exec (.coreReset lcn) s = .next s) ∧
     (∀ lcn, s.isCore lcn = true → ∃ u : State, exec (.coreReset lcn) s = .next (u.settleCore lcn) ∧ u.mem = s.mem ∧ (u.coreAt lcn).ta = false ∧
       ((u.coreAt lcn).ctx 0).st = .stopped ∧ (∀ h, 1 ≤ h → h ≤ 10 → ((u.coreAt lcn).ctx h).st = .free) ∧
       (∀ k, ((u.coreAt lcn).ctx k).pc = 0 ∧ ∀ r, ((u.coreAt lcn).ctx k).gr r = 0) ∧
       (∀ n, n ≠ 0x198 → n ≠ mgcapNow → (u.coreAt lcn).reg n = 0) ∧ (u.coreAt lcn).vec = Core.reset.vec ∧ (u.coreAt lcn).mat = Core.reset.mat ∧
       (u.coreAt lcn).sb = [] ∧ (u.coreAt lcn).fps = [] ∧ (u.coreAt lcn).mem.gang = (s.coreAt lcn).mem.gang ∧
       (∀ l, l ≠ lcn → u.coreAt l = s.coreAt l)) ∧
     ∃ t, exec .moduleReset s = .next t ∧ t.mem = s.mem ∧ (∀ l, t.coreAt l = Core.reset) ∧ (∀ w, t.towerAt w = Tower.reset) ∧
       t.arb = Arbiter.reset ∧ t.host.parts = [] ∧ t.host.queues = [] ∧ t.fab.mapgen = s.fab.mapgen ∧ t.fab.full = false ∧
       t.fab.rows = t.tokenRows ∧ (∀ n, (t.site n).st = (s.site n).st ∧ (t.site n).lt = (s.site n).lt ∧
         (t.site n).bs = if (s.site n).st = 2 then 8 else 0) ∧
       ∀ n, n < 324 → (s.site n).st = 2 ∨ (s.site n).st = 4 → (t.site n).absent = 15)

/-- From a safe state every step goes on, to a safe state. The model's own invariant: from a safe state every step goes on, to a
safe state. No instruction and no event faults or is refused, the focus stays on a core of the array, and memory keeps its
canonical form. -/
def Obligations.StepKeepsSafe : Prop :=
  ∀ (s : State), s.safe = true → ∃ t, step s = .next t ∧ t.safe = true

/-- Decoding and encoding agree, both ways, for every instruction that has a word. R38 to R64: no bit of an encoding is dropped.
R38, R53: a word that decodes is the one word of a well-formed instruction; every other word is rejected. -/
def Obligations.EncodingsAgree : Prop :=
  (∀ (i : Instr), i.encoded = true → i.wf = true → decodeWord (encode i) = .ok i) ∧
  (∀ (w : Word32) (i : Instr), decodeWord w = .ok i → i.encoded = true ∧ i.wf = true ∧ encode i = w)

/-- Words of the worked examples decode to their instructions. R38 to R64: words of the spec's own examples, and words that R53
rejects. -/
def Obligations.DecodedWords : Prop :=
  decodeWord 0x58A12008 = .ok (.ldD 5 1 2 8) ∧ decodeWord 0x0CC00028 = .ok (.addi 6 0 40) ∧
  decodeWord 0x00E53000 = .ok (.add 7 5 6) ∧ decodeWord 0x5CE1C010 = .ok (.st 7 1 3 16) ∧
  decodeWord 0xF4000001 = .ok (.hintImm 1) ∧ decodeWord 0x0D002345 = .ok (.addi 8 0 0x2345) ∧
  decodeWord 0xA4200122 = .ok (.vaddF 2 0 1 1 0 2) ∧ decodeWord 0xC1953000 = .ok (.mma 6 1 10 12 0 0 0 0) ∧
  decodeWord 0xDC688620 = .ok (.xput 1 20 8 12 1) ∧ decodeWord 0xF0A29001 = .ok (.sets 5 0x148) ∧
  decodeWord 0x00000009 = .ok (.or 0 0 0) ∧
  decodeWord 0 = .error .blankWord ∧ decodeWord 0xFFFFFFFF = .error .blankWord ∧
  decodeWord 0x2C000000 = .error .unassignedMajor ∧ decodeWord 5 = .error .unassignedFunction

/-- A step runs the instruction that the bytes at the pc decode to. R12, R29, R134: a step runs the instruction that the bytes at
the program counter decode to, for the context that the arbiter takes first; where it waits, the other contexts of the core try.
Turns, time and the agenda are the model's own: log entries 3, 7 and 8. -/
def Obligations.StepRunsDecoded : Prop :=
  (∀ (s b c : State) (l k : Nat) (ks : List Nat) (rest : List Turn) (pa : Nat) (w : Word32),
    s.agenda = .core l :: rest → l < 2304 → s.lcn < 2304 → s.k ≤ 10 → b = { s with agenda := rest, lcn := l } →
    b.impreciseDue l = false → b.helperDue l = false → b.order l = k :: ks → c = { b with k := k } →
    c.cx.pc.toNat % 4 = 0 → c.viewPA l c.cx.pc.toNat = some pa →
    w = wordOfBytes (s.byteAt pa) (s.byteAt (pa + 1)) (s.byteAt (pa + 2)) (s.byteAt (pa + 3)) →
    (∀ i u t, decodeWord w = .ok i → exec i c = .next u → t = c.countIssue c.unissued u →
      (t.waiting l k = false → step s = .next ((t.issued l k).countWaits l (ks.filter (b.readyCx l))).endStep) ∧
      ∀ v, t.waiting l k = true → t.tryAll l ks = .next v → step s = .next v.endStep) ∧
    (∀ e, decodeWord w = .error e → c.mayTrap → ∃ t, c.traps t 0x01 (w.setWidth 64) c.replayPc ∧
      step s = .next ((t.issued l k).countWaits l (ks.filter (b.readyCx l))).endStep)) ∧
  (∀ (s t : State) (fresh : Bool), (s.bpHits = [] → (t.coreAt s.lcn).dbg.step = none →
      ∀ m, (s.countIssue fresh t).coreAt m = t.coreAt m) ∧
    t.spares (s.countIssue fresh t) [] ∧ (s.countIssue fresh t).mem = t.mem) ∧
  (∀ (s u : State) (l k : Nat) (js : List Nat), u = (s.issued l k).countWaits l js → u.lcn = s.lcn ∧ u.k = s.k ∧ u.mem = s.mem ∧
    u.arb = s.arb ∧ u.towers = s.towers ∧ u.fab = s.fab ∧ u.host = s.host ∧
    (∀ m, (∀ n, (u.coreAt m).reg n = (s.coreAt m).reg n) ∧ (u.coreAt m).vec = (s.coreAt m).vec ∧
      (u.coreAt m).ta = (s.coreAt m).ta ∧
      ∀ j, (u.coreAt m).ctx j = { (s.coreAt m).ctx j with waitCount := ((u.coreAt m).ctx j).waitCount }) ∧
    ∀ j ∈ (s.coreAt l).ctxs.map (·.1), ((u.coreAt l).ctx j).waitCount =
      if js.contains j then ((s.coreAt l).ctx j).waitCount + 1 else 0) ∧
  ∀ (s : State), (∀ e ∈ s.cores, e.2.trace.queue = []) → (∀ e ∈ s.towers, e.2.ring.quiet = true) → s.endStep.mem = s.mem ∧ s.endStep.lcn = s.lcn ∧ s.endStep.k = s.k ∧
    s.clock < s.endStep.clock ∧ s.endStep.agenda = s.agenda ∧ s.endStep.towers = s.towers ∧ s.endStep.fab = s.fab ∧
    s.endStep.host = s.host ∧ s.spares s.endStep []
end

