-- ==== Sys2Proof/Laws/Dispatch.lean ====
section
/-!
SUPPORT. The meaning that each constructor of Instr has, one lemma each.
-/

namespace Sys2Proof.Machine

@[simp] theorem exec_add (s : State) d a b : exec (.add d a b) s = execAdd d a b s := rfl
@[simp] theorem exec_sub (s : State) d a b : exec (.sub d a b) s = execSub d a b s := rfl
@[simp] theorem exec_mul (s : State) d a b : exec (.mul d a b) s = execMul d a b s := rfl
@[simp] theorem exec_mulhS64 (s : State) d a b : exec (.mulhS64 d a b) s = execMulhS64 d a b s := rfl
@[simp] theorem exec_mulhB64 (s : State) d a b : exec (.mulhB64 d a b) s = execMulhB64 d a b s := rfl
@[simp] theorem exec_and (s : State) d a b : exec (.and d a b) s = execAnd d a b s := rfl
@[simp] theorem exec_or (s : State) d a b : exec (.or d a b) s = execOr d a b s := rfl
@[simp] theorem exec_xor (s : State) d a b : exec (.xor d a b) s = execXor d a b s := rfl
@[simp] theorem exec_andn (s : State) d a b : exec (.andn d a b) s = execAndn d a b s := rfl
@[simp] theorem exec_shl (s : State) d a b : exec (.shl d a b) s = execShl d a b s := rfl
@[simp] theorem exec_shr (s : State) d a b : exec (.shr d a b) s = execShr d a b s := rfl
@[simp] theorem exec_sar (s : State) d a b : exec (.sar d a b) s = execSar d a b s := rfl
@[simp] theorem exec_slt (s : State) d a b : exec (.slt d a b) s = execSlt d a b s := rfl
@[simp] theorem exec_sltb (s : State) d a b : exec (.sltb d a b) s = execSltb d a b s := rfl
@[simp] theorem exec_minS64 (s : State) d a b : exec (.minS64 d a b) s = execMinS64 d a b s := rfl
@[simp] theorem exec_minB64 (s : State) d a b : exec (.minB64 d a b) s = execMinB64 d a b s := rfl
@[simp] theorem exec_maxS64 (s : State) d a b : exec (.maxS64 d a b) s = execMaxS64 d a b s := rfl
@[simp] theorem exec_maxB64 (s : State) d a b : exec (.maxB64 d a b) s = execMaxB64 d a b s := rfl
@[simp] theorem exec_clz (s : State) d a w : exec (.clz d a w) s = execClz d a w s := rfl
@[simp] theorem exec_ffs (s : State) d a w : exec (.ffs d a w) s = execFfs d a w s := rfl
@[simp] theorem exec_popcnt (s : State) d a w : exec (.popcnt d a w) s = execPopcnt d a w s := rfl
@[simp] theorem exec_sel (s : State) d a b c : exec (.sel d a b c) s = execSel d a b c s := rfl
@[simp] theorem exec_div (s : State) d a b l w w2 : exec (.div d a b l w w2) s = execDiv d a b l w w2 s := rfl
@[simp] theorem exec_rem (s : State) d a b l w w2 : exec (.rem d a b l w w2) s = execRem d a b l w w2 s := rfl
@[simp] theorem exec_addi (s : State) d a imm : exec (.addi d a imm) s = execAddi d a imm s := rfl
@[simp] theorem exec_andi (s : State) d a imm : exec (.andi d a imm) s = execAndi d a imm s := rfl
@[simp] theorem exec_ori (s : State) d a imm : exec (.ori d a imm) s = execOri d a imm s := rfl
@[simp] theorem exec_xori (s : State) d a imm : exec (.xori d a imm) s = execXori d a imm s := rfl
@[simp] theorem exec_slti (s : State) d a imm : exec (.slti d a imm) s = execSlti d a imm s := rfl
@[simp] theorem exec_sltbi (s : State) d a imm : exec (.sltbi d a imm) s = execSltbi d a imm s := rfl
@[simp] theorem exec_ldhi (s : State) d a imm : exec (.ldhi d a imm) s = execLdhi d a imm s := rfl
@[simp] theorem exec_shli (s : State) d a n : exec (.shli d a n) s = execShli d a n s := rfl
@[simp] theorem exec_shri (s : State) d a n : exec (.shri d a n) s = execShri d a n s := rfl
@[simp] theorem exec_sari (s : State) d a n : exec (.sari d a n) s = execSari d a n s := rfl
@[simp] theorem exec_fence (s : State) : exec (.fence) s = execFence s := rfl
@[simp] theorem exec_fenceR (s : State) a : exec (.fenceR a) s = execFenceR a s := rfl
@[simp] theorem exec_fenceA (s : State) a : exec (.fenceA a) s = execFenceA a s := rfl
@[simp] theorem exec_fenceAr (s : State) a : exec (.fenceAr a) s = execFenceAr a s := rfl
@[simp] theorem exec_ldB8 (s : State) d a l imm : exec (.ldB8 d a l imm) s = execLdB8 d a l imm s := rfl
@[simp] theorem exec_ldS8 (s : State) d a l imm : exec (.ldS8 d a l imm) s = execLdS8 d a l imm s := rfl
@[simp] theorem exec_ldB16 (s : State) d a l imm : exec (.ldB16 d a l imm) s = execLdB16 d a l imm s := rfl
@[simp] theorem exec_ldS16 (s : State) d a l imm : exec (.ldS16 d a l imm) s = execLdS16 d a l imm s := rfl
@[simp] theorem exec_ldB32 (s : State) d a l imm : exec (.ldB32 d a l imm) s = execLdB32 d a l imm s := rfl
@[simp] theorem exec_ldS32 (s : State) d a l imm : exec (.ldS32 d a l imm) s = execLdS32 d a l imm s := rfl
@[simp] theorem exec_ldD (s : State) d a l imm : exec (.ldD d a l imm) s = execLdD d a l imm s := rfl
@[simp] theorem exec_st (s : State) d a w2 imm : exec (.st d a w2 imm) s = execSt d a w2 imm s := rfl
@[simp] theorem exec_amoadd (s : State) d a z b : exec (.amoadd d a z b) s = execAmoadd d a z b s := rfl
@[simp] theorem exec_amoswap (s : State) d a z b : exec (.amoswap d a z b) s = execAmoswap d a z b s := rfl
@[simp] theorem exec_amocas (s : State) d a z b : exec (.amocas d a z b) s = execAmocas d a z b s := rfl
@[simp] theorem exec_amominS (s : State) d a z b : exec (.amominS d a z b) s = execAmominS d a z b s := rfl
@[simp] theorem exec_amominB (s : State) d a z b : exec (.amominB d a z b) s = execAmominB d a z b s := rfl
@[simp] theorem exec_amomaxS (s : State) d a z b : exec (.amomaxS d a z b) s = execAmomaxS d a z b s := rfl
@[simp] theorem exec_amomaxB (s : State) d a z b : exec (.amomaxB d a z b) s = execAmomaxB d a z b s := rfl
@[simp] theorem exec_beq (s : State) a b o : exec (.beq a b o) s = execBeq a b o s := rfl
@[simp] theorem exec_bne (s : State) a b o : exec (.bne a b o) s = execBne a b o s := rfl
@[simp] theorem exec_blt (s : State) a b o : exec (.blt a b o) s = execBlt a b o s := rfl
@[simp] theorem exec_bge (s : State) a b o : exec (.bge a b o) s = execBge a b o s := rfl
@[simp] theorem exec_bltb (s : State) a b o : exec (.bltb a b o) s = execBltb a b o s := rfl
@[simp] theorem exec_bgeb (s : State) a b o : exec (.bgeb a b o) s = execBgeb a b o s := rfl
@[simp] theorem exec_jal (s : State) o : exec (.jal o) s = execJal o s := rfl
@[simp] theorem exec_jr (s : State) d a : exec (.jr d a) s = execJr d a s := rfl
@[simp] theorem exec_loop (s : State) k a l : exec (.loop k a l) s = execLoop k a l s := rfl
@[simp] theorem exec_vld (s : State) d a b m z l : exec (.vld d a b m z l) s = execVld d a b m z l s := rfl
@[simp] theorem exec_vst (s : State) d a b m : exec (.vst d a b m) s = execVst d a b m s := rfl
@[simp] theorem exec_vlds (s : State) d a b m z w l : exec (.vlds d a b m z w l) s = execVlds d a b m z w l s := rfl
@[simp] theorem exec_vgath (s : State) d a b m z w l : exec (.vgath d a b m z w l) s = execVgath d a b m z w l s := rfl
@[simp] theorem exec_vscat (s : State) d a b m w : exec (.vscat d a b m w) s = execVscat d a b m w s := rfl
@[simp] theorem exec_vaddInt (s : State) d a b m z t : exec (.vaddInt d a b m z t) s = execVaddInt d a b m z t s := rfl
@[simp] theorem exec_vsubInt (s : State) d a b m z t : exec (.vsubInt d a b m z t) s = execVsubInt d a b m z t s := rfl
@[simp] theorem exec_vmulInt (s : State) d a b m z t : exec (.vmulInt d a b m z t) s = execVmulInt d a b m z t s := rfl
@[simp] theorem exec_vnegInt (s : State) d a m z t : exec (.vnegInt d a m z t) s = execVnegInt d a m z t s := rfl
@[simp] theorem exec_vminS (s : State) d a b m z t : exec (.vminS d a b m z t) s = execVminS d a b m z t s := rfl
@[simp] theorem exec_vminB (s : State) d a b m z t : exec (.vminB d a b m z t) s = execVminB d a b m z t s := rfl
@[simp] theorem exec_vmaxS (s : State) d a b m z t : exec (.vmaxS d a b m z t) s = execVmaxS d a b m z t s := rfl
@[simp] theorem exec_vmaxB (s : State) d a b m z t : exec (.vmaxB d a b m z t) s = execVmaxB d a b m z t s := rfl
@[simp] theorem exec_vabsInt (s : State) d a m z t : exec (.vabsInt d a m z t) s = execVabsInt d a m z t s := rfl
@[simp] theorem exec_vshl (s : State) d a b m z t : exec (.vshl d a b m z t) s = execVshl d a b m z t s := rfl
@[simp] theorem exec_vshr (s : State) d a b m z t : exec (.vshr d a b m z t) s = execVshr d a b m z t s := rfl
@[simp] theorem exec_vsar (s : State) d a b m z t : exec (.vsar d a b m z t) s = execVsar d a b m z t s := rfl
@[simp] theorem exec_vclz (s : State) d a m z t : exec (.vclz d a m z t) s = execVclz d a m z t s := rfl
@[simp] theorem exec_vffs (s : State) d a m z t : exec (.vffs d a m z t) s = execVffs d a m z t s := rfl
@[simp] theorem exec_vpop (s : State) d a m z t : exec (.vpop d a m z t) s = execVpop d a m z t s := rfl
@[simp] theorem exec_vand (s : State) d a b m z : exec (.vand d a b m z) s = execVand d a b m z s := rfl
@[simp] theorem exec_vor (s : State) d a b m z : exec (.vor d a b m z) s = execVor d a b m z s := rfl
@[simp] theorem exec_vxor (s : State) d a b m z : exec (.vxor d a b m z) s = execVxor d a b m z s := rfl
@[simp] theorem exec_vandn (s : State) d a b m z : exec (.vandn d a b m z) s = execVandn d a b m z s := rfl
@[simp] theorem exec_vdivS (s : State) d a l t m z : exec (.vdivS d a l t m z) s = execVdivS d a l t m z s := rfl
@[simp] theorem exec_vdivB (s : State) d a l t m z : exec (.vdivB d a l t m z) s = execVdivB d a l t m z s := rfl
@[simp] theorem exec_vremS (s : State) d a l t m z : exec (.vremS d a l t m z) s = execVremS d a l t m z s := rfl
@[simp] theorem exec_vremB (s : State) d a l t m z : exec (.vremB d a l t m z) s = execVremB d a l t m z s := rfl
@[simp] theorem exec_vaddF (s : State) d a b m z t : exec (.vaddF d a b m z t) s = execVaddF d a b m z t s := rfl
@[simp] theorem exec_vsubF (s : State) d a b m z t : exec (.vsubF d a b m z t) s = execVsubF d a b m z t s := rfl
@[simp] theorem exec_vmulF (s : State) d a b m z t : exec (.vmulF d a b m z t) s = execVmulF d a b m z t s := rfl
@[simp] theorem exec_vfma (s : State) d a b m z t : exec (.vfma d a b m z t) s = execVfma d a b m z t s := rfl
@[simp] theorem exec_vminF (s : State) d a b m z t : exec (.vminF d a b m z t) s = execVminF d a b m z t s := rfl
@[simp] theorem exec_vmaxF (s : State) d a b m z t : exec (.vmaxF d a b m z t) s = execVmaxF d a b m z t s := rfl
@[simp] theorem exec_vabsF (s : State) d a m z t : exec (.vabsF d a m z t) s = execVabsF d a m z t s := rfl
@[simp] theorem exec_vnegF (s : State) d a m z t : exec (.vnegF d a m z t) s = execVnegF d a m z t s := rfl
@[simp] theorem exec_vcmpS (s : State) c p a b m z t : exec (.vcmpS c p a b m z t) s = execVcmpS c p a b m z t s := rfl
@[simp] theorem exec_vcmpB (s : State) c p a b m z t : exec (.vcmpB c p a b m z t) s = execVcmpB c p a b m z t s := rfl
@[simp] theorem exec_vcmpF (s : State) c p a b m z t : exec (.vcmpF c p a b m z t) s = execVcmpF c p a b m z t s := rfl
@[simp] theorem exec_vsel (s : State) d a b m : exec (.vsel d a b m) s = execVsel d a b m s := rfl
@[simp] theorem exec_vexp2 (s : State) d a l t m z : exec (.vexp2 d a l t m z) s = execVexp2 d a l t m z s := rfl
@[simp] theorem exec_vlog2 (s : State) d a l t m z : exec (.vlog2 d a l t m z) s = execVlog2 d a l t m z s := rfl
@[simp] theorem exec_vrcp (s : State) d a l t m z : exec (.vrcp d a l t m z) s = execVrcp d a l t m z s := rfl
@[simp] theorem exec_vrsq (s : State) d a l t m z : exec (.vrsq d a l t m z) s = execVrsq d a l t m z s := rfl
@[simp] theorem exec_vtanh (s : State) d a l t m z : exec (.vtanh d a l t m z) s = execVtanh d a l t m z s := rfl
@[simp] theorem exec_vgelu (s : State) d a l t m z : exec (.vgelu d a l t m z) s = execVgelu d a l t m z s := rfl
@[simp] theorem exec_vcvt (s : State) d a e w2 m z u : exec (.vcvt d a e w2 m z u) s = execVcvt d a e w2 m z u s := rfl
@[simp] theorem exec_vpack (s : State) d a f : exec (.vpack d a f) s = execVpack d a f s := rfl
@[simp] theorem exec_vunpack (s : State) d a f : exec (.vunpack d a f) s = execVunpack d a f s := rfl
@[simp] theorem exec_vdot (s : State) d a b m z f : exec (.vdot d a b m z f) s = execVdot d a b m z f s := rfl
@[simp] theorem exec_vperm (s : State) d a b m w : exec (.vperm d a b m w) s = execVperm d a b m w s := rfl
@[simp] theorem exec_vred (s : State) d a o t m : exec (.vred d a o t m) s = execVred d a o t m s := rfl
@[simp] theorem exec_vmatchB32 (s : State) d a m : exec (.vmatchB32 d a m) s = execVmatchB32 d a m s := rfl
@[simp] theorem exec_vmatchB64 (s : State) d a m : exec (.vmatchB64 d a m) s = execVmatchB64 d a m s := rfl
@[simp] theorem exec_vhaarF (s : State) d a b m : exec (.vhaarF d a b m) s = execVhaarF d a b m s := rfl
@[simp] theorem exec_vhaarFL (s : State) d a n : exec (.vhaarFL d a n) s = execVhaarFL d a n s := rfl
@[simp] theorem exec_vhaarI (s : State) d a b m : exec (.vhaarI d a b m) s = execVhaarI d a b m s := rfl
@[simp] theorem exec_vhaarIL (s : State) d a n : exec (.vhaarIL d a n) s = execVhaarIL d a n s := rfl
@[simp] theorem exec_vsca (s : State) d a b m : exec (.vsca d a b m) s = execVsca d a b m s := rfl
@[simp] theorem exec_vtag (s : State) d a c : exec (.vtag d a c) s = execVtag d a c s := rfl
@[simp] theorem exec_vbcast (s : State) d a t m : exec (.vbcast d a t m) s = execVbcast d a t m s := rfl
@[simp] theorem exec_vext (s : State) d a t : exec (.vext d a t) s = execVext d a t s := rfl
@[simp] theorem exec_vwhile (s : State) p a b w : exec (.vwhile p a b w) s = execVwhile p a b w s := rfl
@[simp] theorem exec_vlq (s : State) d : exec (.vlq d) s = execVlq d s := rfl
@[simp] theorem exec_mma (s : State) l c a b g h e f : exec (.mma l c a b g h e f) s = execMma l c a b g h e f s := rfl
@[simp] theorem exec_mmaz (s : State) l c a b g h e f : exec (.mmaz l c a b g h e f) s = execMmaz l c a b g h e f s := rfl
@[simp] theorem exec_msca (s : State) l c a b k w2 : exec (.msca l c a b k w2) s = execMsca l c a b k w2 s := rfl
@[simp] theorem exec_mdrain (s : State) l c a b x : exec (.mdrain l c a b x) s = execMdrain l c a b x s := rfl
@[simp] theorem exec_mldacc (s : State) l c a : exec (.mldacc l c a) s = execMldacc l c a s := rfl
@[simp] theorem exec_mzero (s : State) l c : exec (.mzero l c) s = execMzero l c s := rfl
@[simp] theorem exec_mmovvToV (s : State) l c a b : exec (.mmovvToV l c a b) s = execMmovvToV l c a b s := rfl
@[simp] theorem exec_mmovvToAcc (s : State) l c a b : exec (.mmovvToAcc l c a b) s = execMmovvToAcc l c a b s := rfl
@[simp] theorem exec_mtag (s : State) l c a : exec (.mtag l c a) s = execMtag l c a s := rfl
@[simp] theorem exec_cbload (s : State) l a f n : exec (.cbload l a f n) s = execCbload l a f n s := rfl
@[simp] theorem exec_cpy (s : State) l t a b : exec (.cpy l t a b) s = execCpy l t a b s := rfl
@[simp] theorem exec_cpyv (s : State) l t a : exec (.cpyv l t a) s = execCpyv l t a s := rfl
@[simp] theorem exec_fill (s : State) l t a b : exec (.fill l t a b) s = execFill l t a b s := rfl
@[simp] theorem exec_sbind (s : State) l k a : exec (.sbind l k a) s = execSbind l k a s := rfl
@[simp] theorem exec_sunbind (s : State) k : exec (.sunbind k) s = execSunbind k s := rfl
@[simp] theorem exec_xput (s : State) l t a b o : exec (.xput l t a b o) s = execXput l t a b o s := rfl
@[simp] theorem exec_xget (s : State) l t a b o : exec (.xget l t a b o) s = execXget l t a b o s := rfl
@[simp] theorem exec_xadd (s : State) l t a b o y : exec (.xadd l t a b o y) s = execXadd l t a b o y s := rfl
@[simp] theorem exec_xmin (s : State) l t a b o y : exec (.xmin l t a b o y) s = execXmin l t a b o y s := rfl
@[simp] theorem exec_xmax (s : State) l t a b o y : exec (.xmax l t a b o y) s = execXmax l t a b o y s := rfl
@[simp] theorem exec_xcas (s : State) l t a b o y : exec (.xcas l t a b o y) s = execXcas l t a b o y s := rfl
@[simp] theorem exec_xflag (s : State) l t a b : exec (.xflag l t a b) s = execXflag l t a b s := rfl
@[simp] theorem exec_xtask (s : State) l t a b : exec (.xtask l t a b) s = execXtask l t a b s := rfl
@[simp] theorem exec_xexpect (s : State) a k : exec (.xexpect a k) s = execXexpect a k s := rfl
@[simp] theorem exec_xwait (s : State) k : exec (.xwait k) s = execXwait k s := rfl
@[simp] theorem exec_gets (s : State) d n : exec (.gets d n) s = execGets d n s := rfl
@[simp] theorem exec_sets (s : State) d n : exec (.sets d n) s = execSets d n s := rfl
@[simp] theorem exec_callsv (s : State) n : exec (.callsv n) s = execCallsv n s := rfl
@[simp] theorem exec_rett (s : State) : exec (.rett) s = execRett s := rfl
@[simp] theorem exec_halt (s : State) : exec (.halt) s = execHalt s := rfl
@[simp] theorem exec_hstart (s : State) d a b : exec (.hstart d a b) s = execHstart d a b s := rfl
@[simp] theorem exec_hexit (s : State) : exec (.hexit) s = execHexit s := rfl
@[simp] theorem exec_grid (s : State) a : exec (.grid a) s = execGrid a s := rfl
@[simp] theorem exec_gnext (s : State) d : exec (.gnext d) s = execGnext d s := rfl
@[simp] theorem exec_graise (s : State) d a : exec (.graise d a) s = execGraise d a s := rfl
@[simp] theorem exec_gkill (s : State) : exec (.gkill) s = execGkill s := rfl
@[simp] theorem exec_stepX (s : State) : exec (.stepX) s = execStepX s := rfl
@[simp] theorem exec_stepC (s : State) : exec (.stepC) s = execStepC s := rfl
@[simp] theorem exec_phreg (s : State) b m : exec (.phreg b m) s = execPhreg b m s := rfl
@[simp] theorem exec_phdrop (s : State) b : exec (.phdrop b) s = execPhdrop b s := rfl
@[simp] theorem exec_phsig (s : State) b : exec (.phsig b) s = execPhsig b s := rfl
@[simp] theorem exec_phwait (s : State) b : exec (.phwait b) s = execPhwait b s := rfl
@[simp] theorem exec_phnext (s : State) b : exec (.phnext b) s = execPhnext b s := rfl
@[simp] theorem exec_qpush (s : State) a q : exec (.qpush a q) s = execQpush a q s := rfl
@[simp] theorem exec_qpop (s : State) d q : exec (.qpop d q) s = execQpop d q s := rfl
@[simp] theorem exec_sdrain (s : State) : exec (.sdrain) s = execSdrain s := rfl
@[simp] theorem exec_tlbinvVa (s : State) a b : exec (.tlbinvVa a b) s = execTlbinvVa a b s := rfl
@[simp] theorem exec_tlbinvAsid (s : State) b : exec (.tlbinvAsid b) s = execTlbinvAsid b s := rfl
@[simp] theorem exec_tlbinvPart (s : State) : exec (.tlbinvPart) s = execTlbinvPart s := rfl
@[simp] theorem exec_tlbretire (s : State) a : exec (.tlbretire a) s = execTlbretire a s := rfl
@[simp] theorem exec_capmint (s : State) d a : exec (.capmint d a) s = execCapmint d a s := rfl
@[simp] theorem exec_hintImm (s : State) p : exec (.hintImm p) s = execHintImm p s := rfl
@[simp] theorem exec_hintMod (s : State) p : exec (.hintMod p) s = execHintMod p s := rfl
@[simp] theorem exec_hintPri (s : State) b n k : exec (.hintPri b n k) s = execHintPri b n k s := rfl
@[simp] theorem exec_trapEntry (s : State) lcn cause info imp : exec (.trapEntry lcn cause info imp) s = execTrapEntry lcn cause info imp s := rfl
@[simp] theorem exec_helperTrapEntry (s : State) lcn : exec (.helperTrapEntry lcn) s = execHelperTrapEntry lcn s := rfl
@[simp] theorem exec_impreciseTrapTaken (s : State) lcn : exec (.impreciseTrapTaken lcn) s = execImpreciseTrapTaken lcn s := rfl
@[simp] theorem exec_flaguUpdate (s : State) lcn : exec (.flaguUpdate lcn) s = execFlaguUpdate lcn s := rfl
@[simp] theorem exec_hintPriExpiry (s : State) lcn k : exec (.hintPriExpiry lcn k) s = execHintPriExpiry lcn k s := rfl
@[simp] theorem exec_coreReset (s : State) lcn : exec (.coreReset lcn) s = execCoreReset lcn s := rfl
@[simp] theorem exec_moduleReset (s : State) : exec (.moduleReset) s = execModuleReset s := rfl
@[simp] theorem exec_helperKill (s : State) lcn h : exec (.helperKill lcn h) s = execHelperKill lcn h s := rfl
@[simp] theorem exec_queueOverflowOrUnderflow (s : State) lcn k : exec (.queueOverflowOrUnderflow lcn k) s = execQueueOverflowOrUnderflow lcn k s := rfl
@[simp] theorem exec_drectWrite (s : State) lcn level v : exec (.drectWrite lcn level v) s = execDrectWrite lcn level v s := rfl
@[simp] theorem exec_dmemWrite (s : State) lcn v : exec (.dmemWrite lcn v) s = execDmemWrite lcn v s := rfl
@[simp] theorem exec_computeBudgetSpent (s : State) dom : exec (.computeBudgetSpent dom) s = execComputeBudgetSpent dom s := rfl
@[simp] theorem exec_exchangeBudgetSpent (s : State) dom : exec (.exchangeBudgetSpent dom) s = execExchangeBudgetSpent dom s := rfl
@[simp] theorem exec_exchangeWindowOpen (s : State) : exec (.exchangeWindowOpen) s = execExchangeWindowOpen s := rfl
@[simp] theorem exec_computeWindowOpen (s : State) : exec (.computeWindowOpen) s = execComputeWindowOpen s := rfl
@[simp] theorem exec_gangEnd (s : State) gang : exec (.gangEnd gang) s = execGangEnd gang s := rfl
@[simp] theorem exec_matrixQueuePerform (s : State) lcn : exec (.matrixQueuePerform lcn) s = execMatrixQueuePerform lcn s := rfl
@[simp] theorem exec_governorWindowStart (s : State) lcn : exec (.governorWindowStart lcn) s = execGovernorWindowStart lcn s := rfl
@[simp] theorem exec_mgovWrite (s : State) lcn v : exec (.mgovWrite lcn v) s = execMgovWrite lcn v s := rfl
@[simp] theorem exec_pageWalk (s : State) lcn va : exec (.pageWalk lcn va) s = execPageWalk lcn va s := rfl
@[simp] theorem exec_belfryReply (s : State) lcn slot seq kill : exec (.belfryReply lcn slot seq kill) s = execBelfryReply lcn slot seq kill s := rfl
@[simp] theorem exec_storeDrain (s : State) lcn : exec (.storeDrain lcn) s = execStoreDrain lcn s := rfl
@[simp] theorem exec_sfqPop (s : State) lcn : exec (.sfqPop lcn) s = execSfqPop lcn s := rfl
@[simp] theorem exec_sbstHoldClear (s : State) lcn : exec (.sbstHoldClear lcn) s = execSbstHoldClear lcn s := rfl
@[simp] theorem exec_xlatWrite (s : State) lcn v : exec (.xlatWrite lcn v) s = execXlatWrite lcn v s := rfl
@[simp] theorem exec_pspaceWrite (s : State) lcn v : exec (.pspaceWrite lcn v) s = execPspaceWrite lcn v s := rfl
@[simp] theorem exec_migrationStart (s : State) mig part asid leaf frame : exec (.migrationStart mig part asid leaf frame) s = execMigrationStart mig part asid leaf frame s := rfl
@[simp] theorem exec_migrationLineCopy (s : State) mig : exec (.migrationLineCopy mig) s = execMigrationLineCopy mig s := rfl
@[simp] theorem exec_migrationRemove (s : State) mig : exec (.migrationRemove mig) s = execMigrationRemove mig s := rfl
@[simp] theorem exec_combiningLineArrival (s : State) n : exec (.combiningLineArrival n) s = execCombiningLineArrival n s := rfl
@[simp] theorem exec_xputPacketArrival (s : State) lcn id packet : exec (.xputPacketArrival lcn id packet) s = execXputPacketArrival lcn id packet s := rfl
@[simp] theorem exec_xgetRequestArrival (s : State) lcn id : exec (.xgetRequestArrival lcn id) s = execXgetRequestArrival lcn id s := rfl
@[simp] theorem exec_xcasArrival (s : State) lcn id : exec (.xcasArrival lcn id) s = execXcasArrival lcn id s := rfl
@[simp] theorem exec_xflagArrival (s : State) lcn id : exec (.xflagArrival lcn id) s = execXflagArrival lcn id s := rfl
@[simp] theorem exec_taskArrival (s : State) lcn id : exec (.taskArrival lcn id) s = execTaskArrival lcn id s := rfl
@[simp] theorem exec_transferEnd (s : State) lcn id : exec (.transferEnd lcn id) s = execTransferEnd lcn id s := rfl
@[simp] theorem exec_engineTransferBegin (s : State) lcn id : exec (.engineTransferBegin lcn id) s = execEngineTransferBegin lcn id s := rfl
@[simp] theorem exec_streamFetch (s : State) lcn sm : exec (.streamFetch lcn sm) s = execStreamFetch lcn sm s := rfl
@[simp] theorem exec_lndWrite (s : State) lcn n v : exec (.lndWrite lcn n v) s = execLndWrite lcn n v s := rfl
@[simp] theorem exec_proxyRequest (s : State) id : exec (.proxyRequest id) s = execProxyRequest id s := rfl
@[simp] theorem exec_proxyHomeOperation (s : State) id : exec (.proxyHomeOperation id) s = execProxyHomeOperation id s := rfl
@[simp] theorem exec_proxyResponse (s : State) id : exec (.proxyResponse id) s = execProxyResponse id s := rfl
@[simp] theorem exec_relayReinject (s : State) lcn id : exec (.relayReinject lcn id) s = execRelayReinject lcn id s := rfl
@[simp] theorem exec_twinPairMatch (s : State) lcn id : exec (.twinPairMatch lcn id) s = execTwinPairMatch lcn id s := rfl
@[simp] theorem exec_uncorrectableErrorConsumed (s : State) lcn k src pa : exec (.uncorrectableErrorConsumed lcn k src pa) s = execUncorrectableErrorConsumed lcn k src pa s := rfl
@[simp] theorem exec_rollback (s : State) gang : exec (.rollback gang) s = execRollback gang s := rfl
@[simp] theorem exec_preemptRequest (s : State) lcn v : exec (.preemptRequest lcn v) s = execPreemptRequest lcn v s := rfl
@[simp] theorem exec_preemptSave (s : State) gang : exec (.preemptSave gang) s = execPreemptSave gang s := rfl
@[simp] theorem exec_preemptRestore (s : State) gang : exec (.preemptRestore gang) s = execPreemptRestore gang s := rfl
@[simp] theorem exec_towerRetire (s : State) tower : exec (.towerRetire tower) s = execTowerRetire tower s := rfl
@[simp] theorem exec_mapGenerationIssue (s : State) changes : exec (.mapGenerationIssue changes) s = execMapGenerationIssue changes s := rfl
@[simp] theorem exec_dump (s : State) lcn read : exec (.dump lcn read) s = execDump lcn read s := rfl
@[simp] theorem exec_testPackage (s : State) pkg : exec (.testPackage pkg) s = execTestPackage pkg s := rfl
@[simp] theorem exec_registerWrite (s : State) lcn k num v operator : exec (.registerWrite lcn k num v operator) s = execRegisterWrite lcn k num v operator s := rfl
@[simp] theorem exec_stopDomainRequest (s : State) lcn : exec (.stopDomainRequest lcn) s = execStopDomainRequest lcn s := rfl
@[simp] theorem exec_stopGangRequest (s : State) lcn : exec (.stopGangRequest lcn) s = execStopGangRequest lcn s := rfl
@[simp] theorem exec_preciseStopRequest (s : State) lcn on : exec (.preciseStopRequest lcn on) s = execPreciseStopRequest lcn on s := rfl
@[simp] theorem exec_resume (s : State) lcn : exec (.resume lcn) s = execResume lcn s := rfl
@[simp] theorem exec_singleStep (s : State) lcn smsk scnt : exec (.singleStep lcn smsk scnt) s = execSingleStep lcn smsk scnt s := rfl
@[simp] theorem exec_stepEnd (s : State) lcn : exec (.stepEnd lcn) s = execStepEnd lcn s := rfl
@[simp] theorem exec_stopTrigger (s : State) lcn : exec (.stopTrigger lcn) s = execStopTrigger lcn s := rfl
@[simp] theorem exec_debugHalt (s : State) lcn : exec (.debugHalt lcn) s = execDebugHalt lcn s := rfl
@[simp] theorem exec_moduleStop (s : State) : exec (.moduleStop) s = execModuleStop s := rfl
@[simp] theorem exec_moduleStopEnd (s : State) : exec (.moduleStopEnd) s = execModuleStopEnd s := rfl
@[simp] theorem exec_counterSample (s : State) lcn : exec (.counterSample lcn) s = execCounterSample lcn s := rfl
@[simp] theorem exec_ringTestInject (s : State) lcn v : exec (.ringTestInject lcn v) s = execRingTestInject lcn v s := rfl
@[simp] theorem exec_nsvalWrite (s : State) lcn group v : exec (.nsvalWrite lcn group v) s = execNsvalWrite lcn group v s := rfl
@[simp] theorem exec_turretSeedStart (s : State) turret : exec (.turretSeedStart turret) s = execTurretSeedStart turret s := rfl
@[simp] theorem exec_wavefrontArrival (s : State) site : exec (.wavefrontArrival site) s = execWavefrontArrival site s := rfl
@[simp] theorem exec_clockLock (s : State) site ok : exec (.clockLock site ok) s = execClockLock site ok s := rfl
@[simp] theorem exec_configurationArrival (s : State) site : exec (.configurationArrival site) s = execConfigurationArrival site s := rfl
@[simp] theorem exec_selfTestEnd (s : State) site ok : exec (.selfTestEnd site ok) s = execSelfTestEnd site ok s := rfl
@[simp] theorem exec_bondDecision (s : State) site side ok : exec (.bondDecision site side ok) s = execBondDecision site side ok s := rfl
@[simp] theorem exec_bondTimeout (s : State) site side : exec (.bondTimeout site side) s = execBondTimeout site side s := rfl
@[simp] theorem exec_enterLinked (s : State) site : exec (.enterLinked site) s = execEnterLinked site s := rfl
@[simp] theorem exec_enterServingReduced (s : State) site : exec (.enterServingReduced site) s = execEnterServingReduced site s := rfl
@[simp] theorem exec_fullServiceDecision (s : State) : exec (.fullServiceDecision) s = execFullServiceDecision s := rfl
@[simp] theorem exec_fullServiceRaise (s : State) : exec (.fullServiceRaise) s = execFullServiceRaise s := rfl
@[simp] theorem exec_powerCapSet (s : State) watts : exec (.powerCapSet watts) s = execPowerCapSet watts s := rfl
@[simp] theorem exec_rateLowering (s : State) lcn rate : exec (.rateLowering lcn rate) s = execRateLowering lcn rate s := rfl
@[simp] theorem exec_thermalThrottle (s : State) tower hot rate : exec (.thermalThrottle tower hot rate) s = execThermalThrottle tower hot rate s := rfl
@[simp] theorem exec_doorbellTailWrite (s : State) q tail : exec (.doorbellTailWrite q tail) s = execDoorbellTailWrite q tail s := rfl
@[simp] theorem exec_doorbellSizeWrite (s : State) q size base : exec (.doorbellSizeWrite q size base) s = execDoorbellSizeWrite q size base s := rfl
@[simp] theorem exec_queueEntryAccept (s : State) q : exec (.queueEntryAccept q) s = execQueueEntryAccept q s := rfl
@[simp] theorem exec_launchStart (s : State) q : exec (.launchStart q) s = execLaunchStart q s := rfl
@[simp] theorem exec_hostCopy (s : State) q : exec (.hostCopy q) s = execHostCopy q s := rfl
@[simp] theorem exec_gcbPreempt (s : State) q : exec (.gcbPreempt q) s = execGcbPreempt q s := rfl
@[simp] theorem exec_gcbRestore (s : State) q : exec (.gcbRestore q) s = execGcbRestore q s := rfl
@[simp] theorem exec_gcbKill (s : State) q : exec (.gcbKill q) s = execGcbKill q s := rfl
@[simp] theorem exec_faultAgentMessage (s : State) tower : exec (.faultAgentMessage tower) s = execFaultAgentMessage tower s := rfl
@[simp] theorem exec_eventAnswer (s : State) vf ans seq : exec (.eventAnswer vf ans seq) s = execEventAnswer vf ans seq s := rfl
@[simp] theorem exec_faultTimeout (s : State) lcn slot : exec (.faultTimeout lcn slot) s = execFaultTimeout lcn slot s := rfl
@[simp] theorem exec_partitionCreate (s : State) req : exec (.partitionCreate req) s = execPartitionCreate req s := rfl
@[simp] theorem exec_partitionDestroy (s : State) part : exec (.partitionDestroy part) s = execPartitionDestroy part s := rfl
@[simp] theorem exec_towerAssign (s : State) part tower give : exec (.towerAssign part tower give) s = execTowerAssign part tower give s := rfl
@[simp] theorem exec_imageRegister (s : State) part addr len : exec (.imageRegister part addr len) s = execImageRegister part addr len s := rfl
@[simp] theorem exec_attest (s : State) nonce part : exec (.attest nonce part) s = execAttest nonce part s := rfl
@[simp] theorem exec_windowGroupToken (s : State) round : exec (.windowGroupToken round) s = execWindowGroupToken round s := rfl
@[simp] theorem exec_groupMemberRemove (s : State) gsz gpos : exec (.groupMemberRemove gsz gpos) s = execGroupMemberRemove gsz gpos s := rfl
@[simp] theorem exec_longLatencyCompletion (s : State) lcn k : exec (.longLatencyCompletion lcn k) s = execLongLatencyCompletion lcn k s := rfl
@[simp] theorem exec_ringTestFlitDelivery (s : State) lcn : exec (.ringTestFlitDelivery lcn) s = execRingTestFlitDelivery lcn s := rfl
@[simp] theorem exec_moduleLinkDown (s : State) module : exec (.moduleLinkDown module) s = execModuleLinkDown module s := rfl
@[simp] theorem exec_linkWindowSetup (s : State) part module base len : exec (.linkWindowSetup part module base len) s = execLinkWindowSetup part module base len s := rfl

end Sys2Proof.Machine
end

