-- ==== Sys2Proof/Laws/Tab.lean ====
section
/-!
SUPPORT. Laws of sparse tables: what a lookup finds after a write, and that writes keep the canonical form.
-/

namespace Sys2Proof.Machine

variable {α : Type}

/-! ## Lookups -/

@[simp] theorem Tab.find?_put_same (t : Tab α) (k : Nat) (y : α) : Tab.find? (Tab.put t k y) k = some y := by
  induction t with
  | nil => simp [Tab.put, Tab.find?]
  | cons e t ih =>
    obtain ⟨j, x⟩ := e
    simp only [Tab.put]
    split
    · simp [Tab.find?]
    · split
      · simp [Tab.find?]
      · rename_i h _
        simp [Tab.find?, h, ih]

theorem Tab.find?_put_ne (t : Tab α) {k k' : Nat} (y : α) (h : k' ≠ k) :
    Tab.find? (Tab.put t k y) k' = Tab.find? t k' := by
  induction t with
  | nil => simp [Tab.put, Tab.find?, Ne.symm h]
  | cons e t ih =>
    obtain ⟨j, x⟩ := e
    simp only [Tab.put]
    split
    · rename_i hj
      subst hj
      simp [Tab.find?, Ne.symm h]
    · split
      · simp [Tab.find?, Ne.symm h]
      · simp [Tab.find?, ih]

@[simp] theorem Tab.find?_erase_same (t : Tab α) (k : Nat) : Tab.find? (Tab.erase t k) k = none := by
  induction t with
  | nil => rfl
  | cons e t ih =>
    obtain ⟨j, x⟩ := e
    simp only [Tab.erase]
    split
    · exact ih
    · rename_i h
      simp [Tab.find?, h, ih]

theorem Tab.find?_erase_ne (t : Tab α) {k k' : Nat} (h : k' ≠ k) : Tab.find? (Tab.erase t k) k' = Tab.find? t k' := by
  induction t with
  | nil => rfl
  | cons e t ih =>
    obtain ⟨j, x⟩ := e
    simp only [Tab.erase]
    split
    · rename_i hj
      subst hj
      simp [Tab.find?, Ne.symm h, ih]
    · simp [Tab.find?, ih]

@[simp] theorem Tab.get_nil (d : α) (k : Nat) : Tab.get d [] k = d := rfl

@[simp] theorem Tab.get_put_same (d : α) (t : Tab α) (k : Nat) (y : α) : Tab.get d (Tab.put t k y) k = y := by
  simp [Tab.get]

theorem Tab.get_put_ne (d : α) (t : Tab α) {k k' : Nat} (y : α) (h : k' ≠ k) :
    Tab.get d (Tab.put t k y) k' = Tab.get d t k' := by
  simp [Tab.get, Tab.find?_put_ne t y h]

theorem Tab.get_put (d : α) (t : Tab α) (k k' : Nat) (y : α) :
    Tab.get d (Tab.put t k y) k' = if k' = k then y else Tab.get d t k' := by
  split
  · rename_i h; subst h; simp
  · rename_i h; exact Tab.get_put_ne d t y h

theorem Tab.get_erase (d : α) (t : Tab α) (k k' : Nat) :
    Tab.get d (Tab.erase t k) k' = if k' = k then d else Tab.get d t k' := by
  split
  · rename_i h; subst h; simp [Tab.get]
  · rename_i h; simp [Tab.get, Tab.find?_erase_ne t h]

/-- Reading a table after a write: the value written at its key, what stood there before at every other key. -/
theorem Tab.get_set [DecidableEq α] (d : α) (t : Tab α) (k k' : Nat) (y : α) :
    Tab.get d (Tab.set d t k y) k' = if k' = k then y else Tab.get d t k' := by
  unfold Tab.set
  split
  · rename_i h; rw [Tab.get_erase]; split <;> simp [h]
  · exact Tab.get_put d t k k' y

@[simp] theorem Tab.get_set_same [DecidableEq α] (d : α) (t : Tab α) (k : Nat) (y : α) :
    Tab.get d (Tab.set d t k y) k = y := by
  simp [Tab.get_set]

theorem Tab.get_set_ne [DecidableEq α] (d : α) (t : Tab α) {k k' : Nat} (y : α) (h : k' ≠ k) :
    Tab.get d (Tab.set d t k y) k' = Tab.get d t k' := by
  simp [Tab.get_set, h]

/-- A lookup after a function of every entry. -/
theorem Tab.find?_mapEntries (f : Nat → α → α) (t : Tab α) (k : Nat) :
    Tab.find? (Tab.mapEntries f t) k = (Tab.find? t k).map (f k) := by
  induction t with
  | nil => rfl
  | cons e t ih =>
    obtain ⟨j, x⟩ := e
    simp only [Tab.mapEntries, Tab.find?]
    split
    · rename_i h; subst h; rfl
    · exact ih

/-! ## The canonical form -/

theorem Tab.above_mono {b c : Nat} (t : Tab α) (h : Tab.above c t = true) (hb : b ≤ c) : Tab.above b t = true := by
  cases t with
  | nil => rfl
  | cons e t => simp only [Tab.above, decide_eq_true_eq] at h ⊢; omega

variable [DecidableEq α]

theorem Tab.wf_cons (d : α) (j : Nat) (x : α) (t : Tab α) :
    Tab.wf d ((j, x) :: t) = true ↔ Tab.above j t = true ∧ x ≠ d ∧ Tab.wf d t = true := by
  simp [Tab.wf]

/-- In a canonical table every key lies above a bound below the first. -/
theorem Tab.wf_above_mem {d : α} {t : Tab α} (h : Tab.wf d t = true) {b : Nat} (hb : Tab.above b t = true) :
    ∀ e ∈ t, b < e.1 := by
  induction t generalizing b with
  | nil => simp
  | cons e t ih =>
    obtain ⟨j, x⟩ := e
    obtain ⟨ha, -, hw⟩ := (Tab.wf_cons d j x t).mp h
    simp only [Tab.above, decide_eq_true_eq] at hb
    intro e he
    rcases List.mem_cons.mp he with rfl | he
    · exact hb
    · exact lt_trans hb (ih hw ha e he)

omit [DecidableEq α] in
theorem Tab.above_put {b : Nat} (t : Tab α) (k : Nat) (y : α) (h : Tab.above b t = true) (hk : b < k) :
    Tab.above b (Tab.put t k y) = true := by
  cases t with
  | nil => simpa [Tab.put, Tab.above] using hk
  | cons e t =>
    obtain ⟨j, x⟩ := e
    simp only [Tab.put]
    split
    · simpa [Tab.above] using hk
    · split
      · simpa [Tab.above] using hk
      · simpa [Tab.above] using h

theorem Tab.wf_put (d : α) (t : Tab α) (k : Nat) (y : α) (hy : y ≠ d) (h : Tab.wf d t = true) :
    Tab.wf d (Tab.put t k y) = true := by
  induction t with
  | nil => simp [Tab.put, Tab.wf, Tab.above, hy]
  | cons e t ih =>
    obtain ⟨j, x⟩ := e
    obtain ⟨ha, hx, hw⟩ := (Tab.wf_cons d j x t).mp h
    simp only [Tab.put]
    split
    · rename_i hj
      subst hj
      exact (Tab.wf_cons d j y t).mpr ⟨ha, hy, hw⟩
    · split
      · rename_i hk
        exact (Tab.wf_cons d k y _).mpr ⟨by simpa [Tab.above] using hk, hy, h⟩
      · exact (Tab.wf_cons d j x _).mpr ⟨Tab.above_put t k y ha (by omega), hx, ih hw⟩

/-- A canonical table filtered is canonical. -/
theorem Tab.wf_filter (d : α) (p : Nat × α → Bool) (t : Tab α) (h : Tab.wf d t = true) :
    Tab.wf d (t.filter p) = true := by
  induction t with
  | nil => rfl
  | cons e t ih =>
    obtain ⟨j, x⟩ := e
    obtain ⟨ha, hx, hw⟩ := (Tab.wf_cons d j x t).mp h
    rw [List.filter_cons]
    split
    · refine (Tab.wf_cons d j x _).mpr ⟨?_, hx, ih hw⟩
      have hm := Tab.wf_above_mem hw ha
      cases hf : t.filter p with
      | nil => rfl
      | cons e' t' =>
        have : e' ∈ t := List.mem_of_mem_filter (by rw [hf]; exact List.mem_cons_self)
        simpa [Tab.above] using hm e' this
    · exact ih hw

omit [DecidableEq α] in
theorem Tab.erase_eq_filter (t : Tab α) (k : Nat) : Tab.erase t k = t.filter (fun e => e.1 ≠ k) := by
  induction t with
  | nil => rfl
  | cons e t ih =>
    obtain ⟨j, x⟩ := e
    by_cases h : j = k <;> simp [Tab.erase, h, ih]

theorem Tab.wf_erase (d : α) (t : Tab α) (k : Nat) (h : Tab.wf d t = true) : Tab.wf d (Tab.erase t k) = true := by
  rw [Tab.erase_eq_filter]
  exact Tab.wf_filter d _ t h

/-- Every write keeps the canonical form. -/
theorem Tab.wf_set (d : α) (t : Tab α) (k : Nat) (y : α) (h : Tab.wf d t = true) : Tab.wf d (Tab.set d t k y) = true := by
  unfold Tab.set
  split
  · exact Tab.wf_erase d t k h
  · rename_i hy; exact Tab.wf_put d t k y hy h

/-- Two canonical tables, all keys of the first below all of the second, make one. -/
theorem Tab.wf_append (d : α) (t u : Tab α) (b : Nat) (ht : Tab.wf d t = true) (hu : Tab.wf d u = true)
    (hb : ∀ e ∈ t, e.1 < b) (hc : ∀ e ∈ u, b ≤ e.1) : Tab.wf d (t ++ u) = true := by
  induction t with
  | nil => exact hu
  | cons e t ih =>
    obtain ⟨j, x⟩ := e
    obtain ⟨ha, hx, hw⟩ := (Tab.wf_cons d j x t).mp ht
    refine (Tab.wf_cons d j x _).mpr ⟨?_, hx, ih hw fun e he => hb e (List.mem_cons_of_mem _ he)⟩
    cases t with
    | nil =>
      cases u with
      | nil => rfl
      | cons e' u' =>
        obtain ⟨j', x'⟩ := e'
        have h1 : j < b := hb (j, x) List.mem_cons_self
        have h2 : b ≤ j' := hc (j', x') List.mem_cons_self
        exact decide_eq_true (lt_of_lt_of_le h1 h2)
    | cons e' t' => simpa [Tab.above] using ha

/-- The entries kept by `rising` make a canonical table of keys from b on below n. -/
theorem Tab.wf_rising (d : α) (n : Nat) (t : List (Nat × α)) (b : Nat) :
    Tab.wf d (Tab.rising d n b t) = true ∧ ∀ e ∈ Tab.rising d n b t, b ≤ e.1 ∧ e.1 < n := by
  induction t generalizing b with
  | nil => exact ⟨rfl, by simp [Tab.rising]⟩
  | cons e t ih =>
    obtain ⟨j, x⟩ := e
    simp only [Tab.rising]
    split
    · rename_i h
      obtain ⟨hw, hm⟩ := ih (j + 1)
      constructor
      · refine (Tab.wf_cons d j x _).mpr ⟨?_, h.2.2, hw⟩
        cases hr : Tab.rising d n (j + 1) t with
        | nil => rfl
        | cons e' t' =>
          have := (hm e' (by rw [hr]; exact List.mem_cons_self)).1
          simp only [Tab.above, decide_eq_true_eq]
          omega
      · intro e he
        rcases List.mem_cons.mp he with rfl | he
        · exact ⟨h.1, h.2.1⟩
        · have := hm e he
          omega
    · exact ih b

/-- A canonical table with every key raised by the same number is canonical. -/
theorem Tab.wf_shift (d : α) (k : Nat) (t : Tab α) (h : Tab.wf d t = true) :
    Tab.wf d (t.map fun e => (k + e.1, e.2)) = true := by
  induction t with
  | nil => rfl
  | cons e t ih =>
    obtain ⟨j, x⟩ := e
    obtain ⟨ha, hx, hw⟩ := (Tab.wf_cons d j x t).mp h
    refine (Tab.wf_cons d (k + j) x _).mpr ⟨?_, hx, ih hw⟩
    cases t with
    | nil => rfl
    | cons e' t' =>
      simp only [Tab.above, decide_eq_true_eq, List.map_cons] at ha ⊢
      omega

omit [DecidableEq α] in
theorem Tab.find?_eq_none_of_above {b : Nat} (t : Tab α) (h : ∀ e ∈ t, b < e.1) : Tab.find? t b = none := by
  induction t with
  | nil => rfl
  | cons e t ih =>
    obtain ⟨j, x⟩ := e
    have hj : b < j := h (j, x) List.mem_cons_self
    have hne : ¬ j = b := by omega
    simp only [Tab.find?, hne, if_false]
    exact ih fun e he => h e (List.mem_cons_of_mem _ he)

end Sys2Proof.Machine
end

