-- ==== Sys2Proof/Laws/State.lean ====
section
/-!
SUPPORT. One lemma for each field that an update of the state, of a core or of a context leaves alone; what a core, a context or
a register reads as after an update.
-/

namespace Sys2Proof.Machine

/-- One counter either stays or is written (R350). -/
theorem Core.countOne_cases (e : Nat) (k : Option Nat) (n : Nat) (c : Core) (j : Nat) :
    Core.countOne e k n c j = c ∨ ∃ v, Core.countOne e k n c j = c.setReg (0x158 + j) v := by
  unfold Core.countOne
  dsimp only
  cases k <;> dsimp only <;> split
  · exact .inr ⟨_, rfl⟩
  · exact .inl rfl
  · exact .inr ⟨_, rfl⟩
  · exact .inl rfl

/-- What the counting of an event leaves alone, whatever register holds a counter. -/
theorem Core.countEvent_inv {α : Type} (F : Core → α) (h : ∀ (c : Core) n v, F (c.setReg n v) = F c)
    (d : Core) (e : Nat) (k : Option Nat) (n : Nat) : F (d.countEvent e k n) = F d := by
  unfold Core.countEvent
  generalize List.range 8 = l
  induction l generalizing d with
  | nil => rfl
  | cons j t ih =>
    refine (ih _).trans ?_
    obtain g | ⟨v, g⟩ := Core.countOne_cases e k n d j <;> rw [g]
    exact h ..

/-! ### A core replaced or changed -/

@[simp] theorem State.setCoreAt_lcn (s : State) (l : Nat) (c : Core) : (s.setCoreAt l c).lcn = s.lcn := rfl
@[simp] theorem State.setCoreAt_k (s : State) (l : Nat) (c : Core) : (s.setCoreAt l c).k = s.k := rfl
@[simp] theorem State.setCoreAt_late (s : State) (l : Nat) (c : Core) : (s.setCoreAt l c).late = s.late := rfl
@[simp] theorem State.setCoreAt_tick (s : State) (l : Nat) (c : Core) : (s.setCoreAt l c).tick = s.tick := rfl
@[simp] theorem State.setCoreAt_agenda (s : State) (l : Nat) (c : Core) : (s.setCoreAt l c).agenda = s.agenda := rfl
@[simp] theorem State.setCoreAt_mem (s : State) (l : Nat) (c : Core) : (s.setCoreAt l c).mem = s.mem := rfl
@[simp] theorem State.setCoreAt_towers (s : State) (l : Nat) (c : Core) : (s.setCoreAt l c).towers = s.towers := rfl
@[simp] theorem State.setCoreAt_arb (s : State) (l : Nat) (c : Core) : (s.setCoreAt l c).arb = s.arb := rfl
@[simp] theorem State.setCoreAt_fab (s : State) (l : Nat) (c : Core) : (s.setCoreAt l c).fab = s.fab := rfl
@[simp] theorem State.setCoreAt_host (s : State) (l : Nat) (c : Core) : (s.setCoreAt l c).host = s.host := rfl

@[simp] theorem State.updCoreAt_lcn (s : State) (l : Nat) (f : Core → Core) : (s.updCoreAt l f).lcn = s.lcn := rfl
@[simp] theorem State.updCoreAt_k (s : State) (l : Nat) (f : Core → Core) : (s.updCoreAt l f).k = s.k := rfl
@[simp] theorem State.updCoreAt_late (s : State) (l : Nat) (f : Core → Core) : (s.updCoreAt l f).late = s.late := rfl
@[simp] theorem State.updCoreAt_tick (s : State) (l : Nat) (f : Core → Core) : (s.updCoreAt l f).tick = s.tick := rfl
@[simp] theorem State.updCoreAt_agenda (s : State) (l : Nat) (f : Core → Core) : (s.updCoreAt l f).agenda = s.agenda := rfl
@[simp] theorem State.updCoreAt_mem (s : State) (l : Nat) (f : Core → Core) : (s.updCoreAt l f).mem = s.mem := rfl
@[simp] theorem State.updCoreAt_towers (s : State) (l : Nat) (f : Core → Core) : (s.updCoreAt l f).towers = s.towers := rfl
@[simp] theorem State.updCoreAt_arb (s : State) (l : Nat) (f : Core → Core) : (s.updCoreAt l f).arb = s.arb := rfl
@[simp] theorem State.updCoreAt_fab (s : State) (l : Nat) (f : Core → Core) : (s.updCoreAt l f).fab = s.fab := rfl
@[simp] theorem State.updCoreAt_host (s : State) (l : Nat) (f : Core → Core) : (s.updCoreAt l f).host = s.host := rfl

@[simp] theorem State.setCore_lcn (s : State) (c : Core) : (s.setCore c).lcn = s.lcn := rfl
@[simp] theorem State.setCore_k (s : State) (c : Core) : (s.setCore c).k = s.k := rfl
@[simp] theorem State.setCore_late (s : State) (c : Core) : (s.setCore c).late = s.late := rfl
@[simp] theorem State.setCore_tick (s : State) (c : Core) : (s.setCore c).tick = s.tick := rfl
@[simp] theorem State.setCore_agenda (s : State) (c : Core) : (s.setCore c).agenda = s.agenda := rfl
@[simp] theorem State.setCore_mem (s : State) (c : Core) : (s.setCore c).mem = s.mem := rfl
@[simp] theorem State.setCore_towers (s : State) (c : Core) : (s.setCore c).towers = s.towers := rfl
@[simp] theorem State.setCore_arb (s : State) (c : Core) : (s.setCore c).arb = s.arb := rfl
@[simp] theorem State.setCore_fab (s : State) (c : Core) : (s.setCore c).fab = s.fab := rfl
@[simp] theorem State.setCore_host (s : State) (c : Core) : (s.setCore c).host = s.host := rfl

@[simp] theorem State.updCore_lcn (s : State) (f : Core → Core) : (s.updCore f).lcn = s.lcn := rfl
@[simp] theorem State.updCore_k (s : State) (f : Core → Core) : (s.updCore f).k = s.k := rfl
@[simp] theorem State.updCore_late (s : State) (f : Core → Core) : (s.updCore f).late = s.late := rfl
@[simp] theorem State.updCore_tick (s : State) (f : Core → Core) : (s.updCore f).tick = s.tick := rfl
@[simp] theorem State.updCore_agenda (s : State) (f : Core → Core) : (s.updCore f).agenda = s.agenda := rfl
@[simp] theorem State.updCore_mem (s : State) (f : Core → Core) : (s.updCore f).mem = s.mem := rfl
@[simp] theorem State.updCore_towers (s : State) (f : Core → Core) : (s.updCore f).towers = s.towers := rfl
@[simp] theorem State.updCore_arb (s : State) (f : Core → Core) : (s.updCore f).arb = s.arb := rfl
@[simp] theorem State.updCore_fab (s : State) (f : Core → Core) : (s.updCore f).fab = s.fab := rfl
@[simp] theorem State.updCore_host (s : State) (f : Core → Core) : (s.updCore f).host = s.host := rfl

@[simp] theorem State.setCx_lcn (s : State) (x : Ctx) : (s.setCx x).lcn = s.lcn := rfl
@[simp] theorem State.setCx_k (s : State) (x : Ctx) : (s.setCx x).k = s.k := rfl
@[simp] theorem State.setCx_late (s : State) (x : Ctx) : (s.setCx x).late = s.late := rfl
@[simp] theorem State.setCx_tick (s : State) (x : Ctx) : (s.setCx x).tick = s.tick := rfl
@[simp] theorem State.setCx_agenda (s : State) (x : Ctx) : (s.setCx x).agenda = s.agenda := rfl
@[simp] theorem State.setCx_mem (s : State) (x : Ctx) : (s.setCx x).mem = s.mem := rfl
@[simp] theorem State.setCx_towers (s : State) (x : Ctx) : (s.setCx x).towers = s.towers := rfl
@[simp] theorem State.setCx_arb (s : State) (x : Ctx) : (s.setCx x).arb = s.arb := rfl
@[simp] theorem State.setCx_fab (s : State) (x : Ctx) : (s.setCx x).fab = s.fab := rfl
@[simp] theorem State.setCx_host (s : State) (x : Ctx) : (s.setCx x).host = s.host := rfl

@[simp] theorem State.updCx_lcn (s : State) (f : Ctx → Ctx) : (s.updCx f).lcn = s.lcn := rfl
@[simp] theorem State.updCx_k (s : State) (f : Ctx → Ctx) : (s.updCx f).k = s.k := rfl
@[simp] theorem State.updCx_late (s : State) (f : Ctx → Ctx) : (s.updCx f).late = s.late := rfl
@[simp] theorem State.updCx_tick (s : State) (f : Ctx → Ctx) : (s.updCx f).tick = s.tick := rfl
@[simp] theorem State.updCx_agenda (s : State) (f : Ctx → Ctx) : (s.updCx f).agenda = s.agenda := rfl
@[simp] theorem State.updCx_mem (s : State) (f : Ctx → Ctx) : (s.updCx f).mem = s.mem := rfl
@[simp] theorem State.updCx_towers (s : State) (f : Ctx → Ctx) : (s.updCx f).towers = s.towers := rfl
@[simp] theorem State.updCx_arb (s : State) (f : Ctx → Ctx) : (s.updCx f).arb = s.arb := rfl
@[simp] theorem State.updCx_fab (s : State) (f : Ctx → Ctx) : (s.updCx f).fab = s.fab := rfl
@[simp] theorem State.updCx_host (s : State) (f : Ctx → Ctx) : (s.updCx f).host = s.host := rfl

@[simp] theorem State.setG_lcn (s : State) (r : BitVec 5) (v : Word) : (s.setG r v).lcn = s.lcn := rfl
@[simp] theorem State.setG_k (s : State) (r : BitVec 5) (v : Word) : (s.setG r v).k = s.k := rfl
@[simp] theorem State.setG_late (s : State) (r : BitVec 5) (v : Word) : (s.setG r v).late = s.late := rfl
@[simp] theorem State.setG_tick (s : State) (r : BitVec 5) (v : Word) : (s.setG r v).tick = s.tick := rfl
@[simp] theorem State.setG_agenda (s : State) (r : BitVec 5) (v : Word) : (s.setG r v).agenda = s.agenda := rfl
@[simp] theorem State.setG_mem (s : State) (r : BitVec 5) (v : Word) : (s.setG r v).mem = s.mem := rfl
@[simp] theorem State.setG_towers (s : State) (r : BitVec 5) (v : Word) : (s.setG r v).towers = s.towers := rfl
@[simp] theorem State.setG_arb (s : State) (r : BitVec 5) (v : Word) : (s.setG r v).arb = s.arb := rfl
@[simp] theorem State.setG_fab (s : State) (r : BitVec 5) (v : Word) : (s.setG r v).fab = s.fab := rfl
@[simp] theorem State.setG_host (s : State) (r : BitVec 5) (v : Word) : (s.setG r v).host = s.host := rfl

@[simp] theorem State.retire_lcn (s : State)  : (s.retire).lcn = s.lcn := rfl
@[simp] theorem State.retire_k (s : State)  : (s.retire).k = s.k := rfl
@[simp] theorem State.retire_late (s : State)  : (s.retire).late = s.late := rfl
@[simp] theorem State.retire_tick (s : State)  : (s.retire).tick = s.tick := rfl
@[simp] theorem State.retire_agenda (s : State)  : (s.retire).agenda = s.agenda := rfl
@[simp] theorem State.retire_mem (s : State)  : (s.retire).mem = s.mem := rfl
@[simp] theorem State.retire_towers (s : State)  : (s.retire).towers = s.towers := rfl
@[simp] theorem State.retire_arb (s : State)  : (s.retire).arb = s.arb := rfl
@[simp] theorem State.retire_fab (s : State)  : (s.retire).fab = s.fab := rfl
@[simp] theorem State.retire_host (s : State)  : (s.retire).host = s.host := rfl

@[simp] theorem State.jump_lcn (s : State) (a : BitVec 48) : (s.jump a).lcn = s.lcn := rfl
@[simp] theorem State.jump_k (s : State) (a : BitVec 48) : (s.jump a).k = s.k := rfl
@[simp] theorem State.jump_late (s : State) (a : BitVec 48) : (s.jump a).late = s.late := rfl
@[simp] theorem State.jump_tick (s : State) (a : BitVec 48) : (s.jump a).tick = s.tick := rfl
@[simp] theorem State.jump_agenda (s : State) (a : BitVec 48) : (s.jump a).agenda = s.agenda := rfl
@[simp] theorem State.jump_mem (s : State) (a : BitVec 48) : (s.jump a).mem = s.mem := rfl
@[simp] theorem State.jump_towers (s : State) (a : BitVec 48) : (s.jump a).towers = s.towers := rfl
@[simp] theorem State.jump_arb (s : State) (a : BitVec 48) : (s.jump a).arb = s.arb := rfl
@[simp] theorem State.jump_fab (s : State) (a : BitVec 48) : (s.jump a).fab = s.fab := rfl
@[simp] theorem State.jump_host (s : State) (a : BitVec 48) : (s.jump a).host = s.host := rfl

/-! ### A tower, a partition, a gang changed -/

@[simp] theorem State.updTowerAt_lcn (s : State) (n : Nat) (f : Tower → Tower) : (s.updTowerAt n f).lcn = s.lcn := rfl
@[simp] theorem State.updTowerAt_k (s : State) (n : Nat) (f : Tower → Tower) : (s.updTowerAt n f).k = s.k := rfl
@[simp] theorem State.updTowerAt_late (s : State) (n : Nat) (f : Tower → Tower) : (s.updTowerAt n f).late = s.late := rfl
@[simp] theorem State.updTowerAt_tick (s : State) (n : Nat) (f : Tower → Tower) : (s.updTowerAt n f).tick = s.tick := rfl
@[simp] theorem State.updTowerAt_agenda (s : State) (n : Nat) (f : Tower → Tower) : (s.updTowerAt n f).agenda = s.agenda := rfl
@[simp] theorem State.updTowerAt_mem (s : State) (n : Nat) (f : Tower → Tower) : (s.updTowerAt n f).mem = s.mem := rfl
@[simp] theorem State.updTowerAt_cores (s : State) (n : Nat) (f : Tower → Tower) : (s.updTowerAt n f).cores = s.cores := rfl
@[simp] theorem State.updTowerAt_arb (s : State) (n : Nat) (f : Tower → Tower) : (s.updTowerAt n f).arb = s.arb := rfl
@[simp] theorem State.updTowerAt_fab (s : State) (n : Nat) (f : Tower → Tower) : (s.updTowerAt n f).fab = s.fab := rfl
@[simp] theorem State.updTowerAt_host (s : State) (n : Nat) (f : Tower → Tower) : (s.updTowerAt n f).host = s.host := rfl

@[simp] theorem State.updTower_lcn (s : State) (f : Tower → Tower) : (s.updTower f).lcn = s.lcn := rfl
@[simp] theorem State.updTower_k (s : State) (f : Tower → Tower) : (s.updTower f).k = s.k := rfl
@[simp] theorem State.updTower_late (s : State) (f : Tower → Tower) : (s.updTower f).late = s.late := rfl
@[simp] theorem State.updTower_tick (s : State) (f : Tower → Tower) : (s.updTower f).tick = s.tick := rfl
@[simp] theorem State.updTower_agenda (s : State) (f : Tower → Tower) : (s.updTower f).agenda = s.agenda := rfl
@[simp] theorem State.updTower_mem (s : State) (f : Tower → Tower) : (s.updTower f).mem = s.mem := rfl
@[simp] theorem State.updTower_cores (s : State) (f : Tower → Tower) : (s.updTower f).cores = s.cores := rfl
@[simp] theorem State.updTower_arb (s : State) (f : Tower → Tower) : (s.updTower f).arb = s.arb := rfl
@[simp] theorem State.updTower_fab (s : State) (f : Tower → Tower) : (s.updTower f).fab = s.fab := rfl
@[simp] theorem State.updTower_host (s : State) (f : Tower → Tower) : (s.updTower f).host = s.host := rfl

@[simp] theorem State.updPartAt_lcn (s : State) (p : Nat) (f : Part → Part) : (s.updPartAt p f).lcn = s.lcn := rfl
@[simp] theorem State.updPartAt_k (s : State) (p : Nat) (f : Part → Part) : (s.updPartAt p f).k = s.k := rfl
@[simp] theorem State.updPartAt_late (s : State) (p : Nat) (f : Part → Part) : (s.updPartAt p f).late = s.late := rfl
@[simp] theorem State.updPartAt_tick (s : State) (p : Nat) (f : Part → Part) : (s.updPartAt p f).tick = s.tick := rfl
@[simp] theorem State.updPartAt_agenda (s : State) (p : Nat) (f : Part → Part) : (s.updPartAt p f).agenda = s.agenda := rfl
@[simp] theorem State.updPartAt_mem (s : State) (p : Nat) (f : Part → Part) : (s.updPartAt p f).mem = s.mem := rfl
@[simp] theorem State.updPartAt_cores (s : State) (p : Nat) (f : Part → Part) : (s.updPartAt p f).cores = s.cores := rfl
@[simp] theorem State.updPartAt_towers (s : State) (p : Nat) (f : Part → Part) : (s.updPartAt p f).towers = s.towers := rfl
@[simp] theorem State.updPartAt_arb (s : State) (p : Nat) (f : Part → Part) : (s.updPartAt p f).arb = s.arb := rfl
@[simp] theorem State.updPartAt_fab (s : State) (p : Nat) (f : Part → Part) : (s.updPartAt p f).fab = s.fab := rfl

@[simp] theorem State.updGang_lcn (s : State) (g : Nat) (f : Gang → Gang) : (s.updGang g f).lcn = s.lcn := rfl
@[simp] theorem State.updGang_k (s : State) (g : Nat) (f : Gang → Gang) : (s.updGang g f).k = s.k := rfl
@[simp] theorem State.updGang_late (s : State) (g : Nat) (f : Gang → Gang) : (s.updGang g f).late = s.late := rfl
@[simp] theorem State.updGang_tick (s : State) (g : Nat) (f : Gang → Gang) : (s.updGang g f).tick = s.tick := rfl
@[simp] theorem State.updGang_agenda (s : State) (g : Nat) (f : Gang → Gang) : (s.updGang g f).agenda = s.agenda := rfl
@[simp] theorem State.updGang_mem (s : State) (g : Nat) (f : Gang → Gang) : (s.updGang g f).mem = s.mem := rfl
@[simp] theorem State.updGang_cores (s : State) (g : Nat) (f : Gang → Gang) : (s.updGang g f).cores = s.cores := rfl
@[simp] theorem State.updGang_towers (s : State) (g : Nat) (f : Gang → Gang) : (s.updGang g f).towers = s.towers := rfl
@[simp] theorem State.updGang_fab (s : State) (g : Nat) (f : Gang → Gang) : (s.updGang g f).fab = s.fab := rfl
@[simp] theorem State.updGang_host (s : State) (g : Nat) (f : Gang → Gang) : (s.updGang g f).host = s.host := rfl

/-! ### Core -/

@[simp] theorem Core.setCtx_ta (c : Core) (k : Nat) (x : Ctx) : (c.setCtx k x).ta = c.ta := rfl
@[simp] theorem Core.setCtx_sr (c : Core) (k : Nat) (x : Ctx) : (c.setCtx k x).sr = c.sr := rfl
@[simp] theorem Core.setCtx_lastIssue (c : Core) (k : Nat) (x : Ctx) : (c.setCtx k x).lastIssue = c.lastIssue := rfl
@[simp] theorem Core.setCtx_vec (c : Core) (k : Nat) (x : Ctx) : (c.setCtx k x).vec = c.vec := rfl
@[simp] theorem Core.setCtx_mat (c : Core) (k : Nat) (x : Ctx) : (c.setCtx k x).mat = c.mat := rfl
@[simp] theorem Core.setCtx_streams (c : Core) (k : Nat) (x : Ctx) : (c.setCtx k x).streams = c.streams := rfl
@[simp] theorem Core.setCtx_kept (c : Core) (k : Nat) (x : Ctx) : (c.setCtx k x).kept = c.kept := rfl
@[simp] theorem Core.setCtx_hq (c : Core) (k : Nat) (x : Ctx) : (c.setCtx k x).hq = c.hq := rfl
@[simp] theorem Core.setCtx_sb (c : Core) (k : Nat) (x : Ctx) : (c.setCtx k x).sb = c.sb := rfl
@[simp] theorem Core.setCtx_hold (c : Core) (k : Nat) (x : Ctx) : (c.setCtx k x).hold = c.hold := rfl
@[simp] theorem Core.setCtx_sfq (c : Core) (k : Nat) (x : Ctx) : (c.setCtx k x).sfq = c.sfq := rfl
@[simp] theorem Core.setCtx_tlb (c : Core) (k : Nat) (x : Ctx) : (c.setCtx k x).tlb = c.tlb := rfl
@[simp] theorem Core.setCtx_mail (c : Core) (k : Nat) (x : Ctx) : (c.setCtx k x).mail = c.mail := rfl
@[simp] theorem Core.setCtx_mailSeq (c : Core) (k : Nat) (x : Ctx) : (c.setCtx k x).mailSeq = c.mailSeq := rfl
@[simp] theorem Core.setCtx_fps (c : Core) (k : Nat) (x : Ctx) : (c.setCtx k x).fps = c.fps := rfl
@[simp] theorem Core.setCtx_comb (c : Core) (k : Nat) (x : Ctx) : (c.setCtx k x).comb = c.comb := rfl
@[simp] theorem Core.setCtx_combSeq (c : Core) (k : Nat) (x : Ctx) : (c.setCtx k x).combSeq = c.combSeq := rfl
@[simp] theorem Core.setCtx_pend (c : Core) (k : Nat) (x : Ctx) : (c.setCtx k x).pend = c.pend := rfl
@[simp] theorem Core.setCtx_mem (c : Core) (k : Nat) (x : Ctx) : (c.setCtx k x).mem = c.mem := rfl
@[simp] theorem Core.setCtx_dbg (c : Core) (k : Nat) (x : Ctx) : (c.setCtx k x).dbg = c.dbg := rfl
@[simp] theorem Core.setCtx_trace (c : Core) (k : Nat) (x : Ctx) : (c.setCtx k x).trace = c.trace := rfl
@[simp] theorem Core.setCtx_blocks (c : Core) (k : Nat) (x : Ctx) : (c.setCtx k x).blocks = c.blocks := rfl
@[simp] theorem Core.setCtx_nsRef (c : Core) (k : Nat) (x : Ctx) : (c.setCtx k x).nsRef = c.nsRef := rfl
@[simp] theorem Core.setCtx_count (c : Core) (k : Nat) (x : Ctx) : (c.setCtx k x).count = c.count := rfl

@[simp] theorem Core.updCtx_ta (c : Core) (k : Nat) (f : Ctx → Ctx) : (c.updCtx k f).ta = c.ta := rfl
@[simp] theorem Core.updCtx_sr (c : Core) (k : Nat) (f : Ctx → Ctx) : (c.updCtx k f).sr = c.sr := rfl
@[simp] theorem Core.updCtx_lastIssue (c : Core) (k : Nat) (f : Ctx → Ctx) : (c.updCtx k f).lastIssue = c.lastIssue := rfl
@[simp] theorem Core.updCtx_vec (c : Core) (k : Nat) (f : Ctx → Ctx) : (c.updCtx k f).vec = c.vec := rfl
@[simp] theorem Core.updCtx_mat (c : Core) (k : Nat) (f : Ctx → Ctx) : (c.updCtx k f).mat = c.mat := rfl
@[simp] theorem Core.updCtx_streams (c : Core) (k : Nat) (f : Ctx → Ctx) : (c.updCtx k f).streams = c.streams := rfl
@[simp] theorem Core.updCtx_kept (c : Core) (k : Nat) (f : Ctx → Ctx) : (c.updCtx k f).kept = c.kept := rfl
@[simp] theorem Core.updCtx_hq (c : Core) (k : Nat) (f : Ctx → Ctx) : (c.updCtx k f).hq = c.hq := rfl
@[simp] theorem Core.updCtx_sb (c : Core) (k : Nat) (f : Ctx → Ctx) : (c.updCtx k f).sb = c.sb := rfl
@[simp] theorem Core.updCtx_hold (c : Core) (k : Nat) (f : Ctx → Ctx) : (c.updCtx k f).hold = c.hold := rfl
@[simp] theorem Core.updCtx_sfq (c : Core) (k : Nat) (f : Ctx → Ctx) : (c.updCtx k f).sfq = c.sfq := rfl
@[simp] theorem Core.updCtx_tlb (c : Core) (k : Nat) (f : Ctx → Ctx) : (c.updCtx k f).tlb = c.tlb := rfl
@[simp] theorem Core.updCtx_mail (c : Core) (k : Nat) (f : Ctx → Ctx) : (c.updCtx k f).mail = c.mail := rfl
@[simp] theorem Core.updCtx_mailSeq (c : Core) (k : Nat) (f : Ctx → Ctx) : (c.updCtx k f).mailSeq = c.mailSeq := rfl
@[simp] theorem Core.updCtx_fps (c : Core) (k : Nat) (f : Ctx → Ctx) : (c.updCtx k f).fps = c.fps := rfl
@[simp] theorem Core.updCtx_comb (c : Core) (k : Nat) (f : Ctx → Ctx) : (c.updCtx k f).comb = c.comb := rfl
@[simp] theorem Core.updCtx_combSeq (c : Core) (k : Nat) (f : Ctx → Ctx) : (c.updCtx k f).combSeq = c.combSeq := rfl
@[simp] theorem Core.updCtx_pend (c : Core) (k : Nat) (f : Ctx → Ctx) : (c.updCtx k f).pend = c.pend := rfl
@[simp] theorem Core.updCtx_mem (c : Core) (k : Nat) (f : Ctx → Ctx) : (c.updCtx k f).mem = c.mem := rfl
@[simp] theorem Core.updCtx_dbg (c : Core) (k : Nat) (f : Ctx → Ctx) : (c.updCtx k f).dbg = c.dbg := rfl
@[simp] theorem Core.updCtx_trace (c : Core) (k : Nat) (f : Ctx → Ctx) : (c.updCtx k f).trace = c.trace := rfl
@[simp] theorem Core.updCtx_blocks (c : Core) (k : Nat) (f : Ctx → Ctx) : (c.updCtx k f).blocks = c.blocks := rfl
@[simp] theorem Core.updCtx_nsRef (c : Core) (k : Nat) (f : Ctx → Ctx) : (c.updCtx k f).nsRef = c.nsRef := rfl
@[simp] theorem Core.updCtx_count (c : Core) (k : Nat) (f : Ctx → Ctx) : (c.updCtx k f).count = c.count := rfl

@[simp] theorem Core.setReg_ctxs (c : Core) (n : Nat) (v : Word) : (c.setReg n v).ctxs = c.ctxs := rfl
@[simp] theorem Core.setReg_ta (c : Core) (n : Nat) (v : Word) : (c.setReg n v).ta = c.ta := rfl
@[simp] theorem Core.setReg_lastIssue (c : Core) (n : Nat) (v : Word) : (c.setReg n v).lastIssue = c.lastIssue := rfl
@[simp] theorem Core.setReg_vec (c : Core) (n : Nat) (v : Word) : (c.setReg n v).vec = c.vec := rfl
@[simp] theorem Core.setReg_mat (c : Core) (n : Nat) (v : Word) : (c.setReg n v).mat = c.mat := rfl
@[simp] theorem Core.setReg_streams (c : Core) (n : Nat) (v : Word) : (c.setReg n v).streams = c.streams := rfl
@[simp] theorem Core.setReg_kept (c : Core) (n : Nat) (v : Word) : (c.setReg n v).kept = c.kept := rfl
@[simp] theorem Core.setReg_hq (c : Core) (n : Nat) (v : Word) : (c.setReg n v).hq = c.hq := rfl
@[simp] theorem Core.setReg_sb (c : Core) (n : Nat) (v : Word) : (c.setReg n v).sb = c.sb := rfl
@[simp] theorem Core.setReg_hold (c : Core) (n : Nat) (v : Word) : (c.setReg n v).hold = c.hold := rfl
@[simp] theorem Core.setReg_sfq (c : Core) (n : Nat) (v : Word) : (c.setReg n v).sfq = c.sfq := rfl
@[simp] theorem Core.setReg_tlb (c : Core) (n : Nat) (v : Word) : (c.setReg n v).tlb = c.tlb := rfl
@[simp] theorem Core.setReg_mail (c : Core) (n : Nat) (v : Word) : (c.setReg n v).mail = c.mail := rfl
@[simp] theorem Core.setReg_mailSeq (c : Core) (n : Nat) (v : Word) : (c.setReg n v).mailSeq = c.mailSeq := rfl
@[simp] theorem Core.setReg_fps (c : Core) (n : Nat) (v : Word) : (c.setReg n v).fps = c.fps := rfl
@[simp] theorem Core.setReg_comb (c : Core) (n : Nat) (v : Word) : (c.setReg n v).comb = c.comb := rfl
@[simp] theorem Core.setReg_combSeq (c : Core) (n : Nat) (v : Word) : (c.setReg n v).combSeq = c.combSeq := rfl
@[simp] theorem Core.setReg_pend (c : Core) (n : Nat) (v : Word) : (c.setReg n v).pend = c.pend := rfl
@[simp] theorem Core.setReg_mem (c : Core) (n : Nat) (v : Word) : (c.setReg n v).mem = c.mem := rfl
@[simp] theorem Core.setReg_dbg (c : Core) (n : Nat) (v : Word) : (c.setReg n v).dbg = c.dbg := rfl
@[simp] theorem Core.setReg_trace (c : Core) (n : Nat) (v : Word) : (c.setReg n v).trace = c.trace := rfl
@[simp] theorem Core.setReg_blocks (c : Core) (n : Nat) (v : Word) : (c.setReg n v).blocks = c.blocks := rfl
@[simp] theorem Core.setReg_nsRef (c : Core) (n : Nat) (v : Word) : (c.setReg n v).nsRef = c.nsRef := rfl
@[simp] theorem Core.setReg_count (c : Core) (n : Nat) (v : Word) : (c.setReg n v).count = c.count := rfl

@[simp] theorem Core.countEvent_ctxs (c : Core) (e : Nat) (k : Option Nat) (n : Nat) : (c.countEvent e k n).ctxs = c.ctxs := Core.countEvent_inv _ (fun _ _ _ => rfl) c e k n
@[simp] theorem Core.countEvent_ta (c : Core) (e : Nat) (k : Option Nat) (n : Nat) : (c.countEvent e k n).ta = c.ta := Core.countEvent_inv _ (fun _ _ _ => rfl) c e k n
@[simp] theorem Core.countEvent_lastIssue (c : Core) (e : Nat) (k : Option Nat) (n : Nat) : (c.countEvent e k n).lastIssue = c.lastIssue := Core.countEvent_inv _ (fun _ _ _ => rfl) c e k n
@[simp] theorem Core.countEvent_vec (c : Core) (e : Nat) (k : Option Nat) (n : Nat) : (c.countEvent e k n).vec = c.vec := Core.countEvent_inv _ (fun _ _ _ => rfl) c e k n
@[simp] theorem Core.countEvent_mat (c : Core) (e : Nat) (k : Option Nat) (n : Nat) : (c.countEvent e k n).mat = c.mat := Core.countEvent_inv _ (fun _ _ _ => rfl) c e k n
@[simp] theorem Core.countEvent_streams (c : Core) (e : Nat) (k : Option Nat) (n : Nat) : (c.countEvent e k n).streams = c.streams := Core.countEvent_inv _ (fun _ _ _ => rfl) c e k n
@[simp] theorem Core.countEvent_kept (c : Core) (e : Nat) (k : Option Nat) (n : Nat) : (c.countEvent e k n).kept = c.kept := Core.countEvent_inv _ (fun _ _ _ => rfl) c e k n
@[simp] theorem Core.countEvent_hq (c : Core) (e : Nat) (k : Option Nat) (n : Nat) : (c.countEvent e k n).hq = c.hq := Core.countEvent_inv _ (fun _ _ _ => rfl) c e k n
@[simp] theorem Core.countEvent_sb (c : Core) (e : Nat) (k : Option Nat) (n : Nat) : (c.countEvent e k n).sb = c.sb := Core.countEvent_inv _ (fun _ _ _ => rfl) c e k n
@[simp] theorem Core.countEvent_hold (c : Core) (e : Nat) (k : Option Nat) (n : Nat) : (c.countEvent e k n).hold = c.hold := Core.countEvent_inv _ (fun _ _ _ => rfl) c e k n
@[simp] theorem Core.countEvent_sfq (c : Core) (e : Nat) (k : Option Nat) (n : Nat) : (c.countEvent e k n).sfq = c.sfq := Core.countEvent_inv _ (fun _ _ _ => rfl) c e k n
@[simp] theorem Core.countEvent_tlb (c : Core) (e : Nat) (k : Option Nat) (n : Nat) : (c.countEvent e k n).tlb = c.tlb := Core.countEvent_inv _ (fun _ _ _ => rfl) c e k n
@[simp] theorem Core.countEvent_mail (c : Core) (e : Nat) (k : Option Nat) (n : Nat) : (c.countEvent e k n).mail = c.mail := Core.countEvent_inv _ (fun _ _ _ => rfl) c e k n
@[simp] theorem Core.countEvent_mailSeq (c : Core) (e : Nat) (k : Option Nat) (n : Nat) : (c.countEvent e k n).mailSeq = c.mailSeq := Core.countEvent_inv _ (fun _ _ _ => rfl) c e k n
@[simp] theorem Core.countEvent_fps (c : Core) (e : Nat) (k : Option Nat) (n : Nat) : (c.countEvent e k n).fps = c.fps := Core.countEvent_inv _ (fun _ _ _ => rfl) c e k n
@[simp] theorem Core.countEvent_comb (c : Core) (e : Nat) (k : Option Nat) (n : Nat) : (c.countEvent e k n).comb = c.comb := Core.countEvent_inv _ (fun _ _ _ => rfl) c e k n
@[simp] theorem Core.countEvent_combSeq (c : Core) (e : Nat) (k : Option Nat) (n : Nat) : (c.countEvent e k n).combSeq = c.combSeq := Core.countEvent_inv _ (fun _ _ _ => rfl) c e k n
@[simp] theorem Core.countEvent_pend (c : Core) (e : Nat) (k : Option Nat) (n : Nat) : (c.countEvent e k n).pend = c.pend := Core.countEvent_inv _ (fun _ _ _ => rfl) c e k n
@[simp] theorem Core.countEvent_mem (c : Core) (e : Nat) (k : Option Nat) (n : Nat) : (c.countEvent e k n).mem = c.mem := Core.countEvent_inv _ (fun _ _ _ => rfl) c e k n
@[simp] theorem Core.countEvent_dbg (c : Core) (e : Nat) (k : Option Nat) (n : Nat) : (c.countEvent e k n).dbg = c.dbg := Core.countEvent_inv _ (fun _ _ _ => rfl) c e k n
@[simp] theorem Core.countEvent_trace (c : Core) (e : Nat) (k : Option Nat) (n : Nat) : (c.countEvent e k n).trace = c.trace := Core.countEvent_inv _ (fun _ _ _ => rfl) c e k n
@[simp] theorem Core.countEvent_blocks (c : Core) (e : Nat) (k : Option Nat) (n : Nat) : (c.countEvent e k n).blocks = c.blocks := Core.countEvent_inv _ (fun _ _ _ => rfl) c e k n
@[simp] theorem Core.countEvent_nsRef (c : Core) (e : Nat) (k : Option Nat) (n : Nat) : (c.countEvent e k n).nsRef = c.nsRef := Core.countEvent_inv _ (fun _ _ _ => rfl) c e k n
@[simp] theorem Core.countEvent_count (c : Core) (e : Nat) (k : Option Nat) (n : Nat) : (c.countEvent e k n).count = c.count := Core.countEvent_inv _ (fun _ _ _ => rfl) c e k n

/-! ### Ctx -/

@[simp] theorem Ctx.setReg_st (x : Ctx) (n : Nat) (v : Word) : (x.setReg n v).st = x.st := rfl
@[simp] theorem Ctx.setReg_halted (x : Ctx) (n : Nat) (v : Word) : (x.setReg n v).halted = x.halted := rfl
@[simp] theorem Ctx.setReg_pc (x : Ctx) (n : Nat) (v : Word) : (x.setReg n v).pc = x.pc := rfl
@[simp] theorem Ctx.setReg_priv (x : Ctx) (n : Nat) (v : Word) : (x.setReg n v).priv = x.priv := rfl
@[simp] theorem Ctx.setReg_g (x : Ctx) (n : Nat) (v : Word) : (x.setReg n v).g = x.g := rfl
@[simp] theorem Ctx.setReg_hint (x : Ctx) (n : Nat) (v : Word) : (x.setReg n v).hint = x.hint := rfl
@[simp] theorem Ctx.setReg_late (x : Ctx) (n : Nat) (v : Word) : (x.setReg n v).late = x.late := rfl
@[simp] theorem Ctx.setReg_tokens (x : Ctx) (n : Nat) (v : Word) : (x.setReg n v).tokens = x.tokens := rfl
@[simp] theorem Ctx.setReg_wait (x : Ctx) (n : Nat) (v : Word) : (x.setReg n v).wait = x.wait := rfl
@[simp] theorem Ctx.setReg_waitCount (x : Ctx) (n : Nat) (v : Word) : (x.setReg n v).waitCount = x.waitCount := rfl
@[simp] theorem Ctx.setReg_boost (x : Ctx) (n : Nat) (v : Word) : (x.setReg n v).boost = x.boost := rfl
@[simp] theorem Ctx.setReg_boostEnd (x : Ctx) (n : Nat) (v : Word) : (x.setReg n v).boostEnd = x.boostEnd := rfl
@[simp] theorem Ctx.setReg_liveBefore (x : Ctx) (n : Nat) (v : Word) : (x.setReg n v).liveBefore = x.liveBefore := rfl
@[simp] theorem Ctx.setReg_liveFrom (x : Ctx) (n : Nat) (v : Word) : (x.setReg n v).liveFrom = x.liveFrom := rfl
@[simp] theorem Ctx.setReg_retired (x : Ctx) (n : Nat) (v : Word) : (x.setReg n v).retired = x.retired := rfl
@[simp] theorem Ctx.setReg_signalled (x : Ctx) (n : Nat) (v : Word) : (x.setReg n v).signalled = x.signalled := rfl
@[simp] theorem Ctx.setReg_appended (x : Ctx) (n : Nat) (v : Word) : (x.setReg n v).appended = x.appended := rfl
@[simp] theorem Ctx.setReg_born (x : Ctx) (n : Nat) (v : Word) : (x.setReg n v).born = x.born := rfl
@[simp] theorem Ctx.setReg_sends (x : Ctx) (n : Nat) (v : Word) : (x.setReg n v).sends = x.sends := rfl

@[simp] theorem Ctx.setGr_st (x : Ctx) (r : BitVec 5) (v : Word) : (x.setGr r v).st = x.st := by unfold Ctx.setGr; split <;> rfl
@[simp] theorem Ctx.setGr_halted (x : Ctx) (r : BitVec 5) (v : Word) : (x.setGr r v).halted = x.halted := by unfold Ctx.setGr; split <;> rfl
@[simp] theorem Ctx.setGr_pc (x : Ctx) (r : BitVec 5) (v : Word) : (x.setGr r v).pc = x.pc := by unfold Ctx.setGr; split <;> rfl
@[simp] theorem Ctx.setGr_priv (x : Ctx) (r : BitVec 5) (v : Word) : (x.setGr r v).priv = x.priv := by unfold Ctx.setGr; split <;> rfl
@[simp] theorem Ctx.setGr_sr (x : Ctx) (r : BitVec 5) (v : Word) : (x.setGr r v).sr = x.sr := by unfold Ctx.setGr; split <;> rfl
@[simp] theorem Ctx.setGr_hint (x : Ctx) (r : BitVec 5) (v : Word) : (x.setGr r v).hint = x.hint := by unfold Ctx.setGr; split <;> rfl
@[simp] theorem Ctx.setGr_late (x : Ctx) (r : BitVec 5) (v : Word) : (x.setGr r v).late = x.late := by unfold Ctx.setGr; split <;> rfl
@[simp] theorem Ctx.setGr_tokens (x : Ctx) (r : BitVec 5) (v : Word) : (x.setGr r v).tokens = x.tokens := by unfold Ctx.setGr; split <;> rfl
@[simp] theorem Ctx.setGr_wait (x : Ctx) (r : BitVec 5) (v : Word) : (x.setGr r v).wait = x.wait := by unfold Ctx.setGr; split <;> rfl
@[simp] theorem Ctx.setGr_waitCount (x : Ctx) (r : BitVec 5) (v : Word) : (x.setGr r v).waitCount = x.waitCount := by unfold Ctx.setGr; split <;> rfl
@[simp] theorem Ctx.setGr_boost (x : Ctx) (r : BitVec 5) (v : Word) : (x.setGr r v).boost = x.boost := by unfold Ctx.setGr; split <;> rfl
@[simp] theorem Ctx.setGr_boostEnd (x : Ctx) (r : BitVec 5) (v : Word) : (x.setGr r v).boostEnd = x.boostEnd := by unfold Ctx.setGr; split <;> rfl
@[simp] theorem Ctx.setGr_liveBefore (x : Ctx) (r : BitVec 5) (v : Word) : (x.setGr r v).liveBefore = x.liveBefore := by unfold Ctx.setGr; split <;> rfl
@[simp] theorem Ctx.setGr_liveFrom (x : Ctx) (r : BitVec 5) (v : Word) : (x.setGr r v).liveFrom = x.liveFrom := by unfold Ctx.setGr; split <;> rfl
@[simp] theorem Ctx.setGr_retired (x : Ctx) (r : BitVec 5) (v : Word) : (x.setGr r v).retired = x.retired := by unfold Ctx.setGr; split <;> rfl
@[simp] theorem Ctx.setGr_signalled (x : Ctx) (r : BitVec 5) (v : Word) : (x.setGr r v).signalled = x.signalled := by unfold Ctx.setGr; split <;> rfl
@[simp] theorem Ctx.setGr_appended (x : Ctx) (r : BitVec 5) (v : Word) : (x.setGr r v).appended = x.appended := by unfold Ctx.setGr; split <;> rfl
@[simp] theorem Ctx.setGr_born (x : Ctx) (r : BitVec 5) (v : Word) : (x.setGr r v).born = x.born := by unfold Ctx.setGr; split <;> rfl
@[simp] theorem Ctx.setGr_sends (x : Ctx) (r : BitVec 5) (v : Word) : (x.setGr r v).sends = x.sends := by unfold Ctx.setGr; split <;> rfl

/-! ### What is read after an update -/

theorem State.coreAt_setCoreAt (s : State) (l l' : Nat) (c : Core) :
    (s.setCoreAt l c).coreAt l' = if l' = l then c else s.coreAt l' := Tab.get_put ..

@[simp] theorem State.coreAt_setCoreAt_same (s : State) (l : Nat) (c : Core) : (s.setCoreAt l c).coreAt l = c := by
  simp [State.coreAt_setCoreAt]

theorem State.coreAt_setCoreAt_ne (s : State) {l l' : Nat} (c : Core) (h : l' ≠ l) :
    (s.setCoreAt l c).coreAt l' = s.coreAt l' := by
  simp [State.coreAt_setCoreAt, h]

theorem State.coreAt_updCoreAt (s : State) (l l' : Nat) (f : Core → Core) :
    (s.updCoreAt l f).coreAt l' = if l' = l then f (s.coreAt l) else s.coreAt l' := State.coreAt_setCoreAt ..

@[simp] theorem State.coreAt_updCoreAt_same (s : State) (l : Nat) (f : Core → Core) :
    (s.updCoreAt l f).coreAt l = f (s.coreAt l) := by
  simp [State.coreAt_updCoreAt]

theorem State.coreAt_updCoreAt_ne (s : State) {l l' : Nat} (f : Core → Core) (h : l' ≠ l) :
    (s.updCoreAt l f).coreAt l' = s.coreAt l' := by
  simp [State.coreAt_updCoreAt, h]

@[simp] theorem State.core_setCore (s : State) (c : Core) : (s.setCore c).core = c := State.coreAt_setCoreAt_same ..

@[simp] theorem State.core_updCore (s : State) (f : Core → Core) : (s.updCore f).core = f s.core := State.core_setCore ..

@[simp] theorem State.core_setCx (s : State) (x : Ctx) : (s.setCx x).core = s.core.setCtx s.k x := State.core_setCore ..

@[simp] theorem State.core_updCx (s : State) (f : Ctx → Ctx) : (s.updCx f).core = s.core.updCtx s.k f := State.core_setCx ..

@[simp] theorem State.core_setG (s : State) (r : BitVec 5) (v : Word) :
    (s.setG r v).core = s.core.updCtx s.k (·.setGr r v) := State.core_updCx ..

@[simp] theorem State.core_retire (s : State) :
    s.retire.core = (s.core.updCtx s.k Ctx.retire).countEvent 2 (some s.k) 1 := State.core_updCore ..

@[simp] theorem State.core_jump (s : State) (a : BitVec 48) :
    (s.jump a).core = (s.core.updCtx s.k (·.jump a)).countEvent 2 (some s.k) 1 := State.core_updCore ..

theorem Core.ctx_setCtx (c : Core) (k j : Nat) (x : Ctx) : (c.setCtx k x).ctx j = if j = k then x else c.ctx j :=
  Tab.get_put ..

@[simp] theorem Core.ctx_setCtx_same (c : Core) (k : Nat) (x : Ctx) : (c.setCtx k x).ctx k = x := by
  simp [Core.ctx_setCtx]

theorem Core.ctx_setCtx_ne (c : Core) {k j : Nat} (x : Ctx) (h : j ≠ k) : (c.setCtx k x).ctx j = c.ctx j := by
  simp [Core.ctx_setCtx, h]

@[simp] theorem Core.ctx_updCtx_same (c : Core) (k : Nat) (f : Ctx → Ctx) : (c.updCtx k f).ctx k = f (c.ctx k) :=
  Core.ctx_setCtx_same ..

theorem Core.ctx_updCtx_ne (c : Core) {k j : Nat} (f : Ctx → Ctx) (h : j ≠ k) : (c.updCtx k f).ctx j = c.ctx j :=
  Core.ctx_setCtx_ne _ _ h

@[simp] theorem Core.reg_setCtx (c : Core) (k n : Nat) (x : Ctx) : (c.setCtx k x).reg n = c.reg n := rfl

@[simp] theorem Core.reg_updCtx (c : Core) (k n : Nat) (f : Ctx → Ctx) : (c.updCtx k f).reg n = c.reg n := rfl

theorem Core.reg_setReg (c : Core) (n n' : Nat) (v : Word) : (c.setReg n v).reg n' = if n' = n then v else c.reg n' :=
  Tab.get_set ..

@[simp] theorem Core.reg_setReg_same (c : Core) (n : Nat) (v : Word) : (c.setReg n v).reg n = v := by
  simp [Core.reg_setReg]

theorem Core.reg_setReg_ne (c : Core) {n n' : Nat} (v : Word) (h : n' ≠ n) : (c.setReg n v).reg n' = c.reg n' := by
  simp [Core.reg_setReg, h]

@[simp] theorem Core.ctx_setReg (c : Core) (n k : Nat) (v : Word) : (c.setReg n v).ctx k = c.ctx k := rfl

@[simp] theorem Core.ctx_countEvent (c : Core) (e : Nat) (k : Option Nat) (n j : Nat) :
    (c.countEvent e k n).ctx j = c.ctx j := Core.countEvent_inv (fun c => c.ctx j) (fun _ _ _ => rfl) c e k n

/-- Counting an event writes the eight counters pmc0 to pmc7 alone (R350). -/
theorem Core.reg_countEvent (c : Core) (e : Nat) (k : Option Nat) (n m : Nat) (h : m < 0x158 ∨ 0x15F < m) :
    (c.countEvent e k n).reg m = c.reg m := by
  have one : ∀ (d : Core) j, j < 8 → (Core.countOne e k n d j).reg m = d.reg m := by
    intro d j hj
    obtain g | ⟨v, g⟩ := Core.countOne_cases e k n d j <;> rw [g]
    exact Core.reg_setReg_ne _ _ (by omega)
  have all : ∀ (l : List Nat) (d : Core), (∀ j ∈ l, j < 8) → (l.foldl (Core.countOne e k n) d).reg m = d.reg m := by
    intro l
    induction l with
    | nil => intro d _; rfl
    | cons j t ih =>
      intro d hl
      exact (ih _ fun i hi => hl i (List.mem_cons_of_mem _ hi)).trans (one d j (hl j (List.mem_cons_self ..)))
  exact all _ c fun j hj => List.mem_range.mp hj

@[simp] theorem State.cx_setCx (s : State) (x : Ctx) : (s.setCx x).cx = x := by
  simp [State.cx]

@[simp] theorem State.cx_updCx (s : State) (f : Ctx → Ctx) : (s.updCx f).cx = f s.cx := State.cx_setCx ..

@[simp] theorem State.cx_setG (s : State) (r : BitVec 5) (v : Word) : (s.setG r v).cx = s.cx.setGr r v := State.cx_updCx ..

@[simp] theorem State.cx_updCore (s : State) (f : Core → Core) : (s.updCore f).cx = (f s.core).ctx s.k := by
  simp [State.cx]

@[simp] theorem State.cx_retire (s : State) : s.retire.cx = s.cx.retire := by
  simp [State.cx]

@[simp] theorem State.cx_jump (s : State) (a : BitVec 48) : (s.jump a).cx = s.cx.jump a := by
  simp [State.cx]

theorem Ctx.reg_setReg (x : Ctx) (n n' : Nat) (v : Word) : (x.setReg n v).reg n' = if n' = n then v else x.reg n' :=
  Tab.get_set ..

@[simp] theorem Ctx.reg_setReg_same (x : Ctx) (n : Nat) (v : Word) : (x.setReg n v).reg n = v := by
  simp [Ctx.reg_setReg]

theorem Ctx.reg_setReg_ne (x : Ctx) {n n' : Nat} (v : Word) (h : n' ≠ n) : (x.setReg n v).reg n' = x.reg n' := by
  simp [Ctx.reg_setReg, h]

@[simp] theorem Ctx.gr_zero (x : Ctx) : x.gr 0 = 0 := rfl

/-- A general register after a write: g0 keeps reading 0 (R12). -/
theorem Ctx.gr_setGr (x : Ctx) (r r' : BitVec 5) (v : Word) :
    (x.setGr r v).gr r' = if r' = r ∧ r ≠ 0 then v else x.gr r' := by
  unfold Ctx.setGr
  by_cases h0 : r = 0
  · simp [h0]
  · rw [if_neg h0]
    unfold Ctx.gr
    by_cases h : r' = 0
    · subst h
      exact (if_pos rfl).trans (Eq.trans (if_pos rfl).symm (if_neg fun h => h.2 h.1.symm).symm)
    · simp only [h, h0, ↓reduceIte, ne_eq, not_false_eq_true, and_true]
      exact (Tab.get_set ..).trans (by simp only [BitVec.toNat_inj])

@[simp] theorem Ctx.reg_setGr (x : Ctx) (r : BitVec 5) (v : Word) (n : Nat) : (x.setGr r v).reg n = x.reg n := by
  simp [Ctx.reg]

@[simp] theorem Ctx.gr_setReg (x : Ctx) (n : Nat) (v : Word) (r : BitVec 5) : (x.setReg n v).gr r = x.gr r := rfl

@[simp] theorem Core.updCtx_reg (c : Core) (k : Nat) (f : Ctx → Ctx) (n : Nat) : (c.updCtx k f).reg n = c.reg n := rfl

/-- A tower after a change of one. -/
theorem State.towerAt_updTowerAt (s : State) (n m : Nat) (f : Tower → Tower) :
    (s.updTowerAt n f).towerAt m = if m = n then f (s.towerAt n) else s.towerAt m := Tab.get_put ..

@[simp] theorem State.coreAt_updTowerAt (s : State) (n l : Nat) (f : Tower → Tower) :
    (s.updTowerAt n f).coreAt l = s.coreAt l := rfl

@[simp] theorem State.towerAt_updCoreAt (s : State) (l n : Nat) (f : Core → Core) :
    (s.updCoreAt l f).towerAt n = s.towerAt n := rfl

theorem State.partAt_updPartAt (s : State) (p q : Nat) (f : Part → Part) :
    (s.updPartAt p f).partAt q = if q = p then f (s.partAt p) else s.partAt q := Tab.get_put ..

@[simp] theorem State.coreAt_updGang (s : State) (g l : Nat) (f : Gang → Gang) : (s.updGang g f).coreAt l = s.coreAt l := rfl

@[simp] theorem State.clock_updCoreAt (s : State) (l : Nat) (f : Core → Core) : (s.updCoreAt l f).clock = s.clock := rfl

@[simp] theorem State.clock_updCore (s : State) (f : Core → Core) : (s.updCore f).clock = s.clock := rfl

@[simp] theorem State.clock_updCx (s : State) (f : Ctx → Ctx) : (s.updCx f).clock = s.clock := rfl

end Sys2Proof.Machine
end

