-- ==== Sys2Proof/Laws/Issue.lean ====
section
/-!
SUPPORT. What the issue of an instruction does before its effect, what its completion does, and the frames of both.
-/

namespace Sys2Proof.Machine

/-! ## Issue -/

/-- An instruction that may issue at once takes its effect in the state `begin`. -/
theorem issue_ready {s : State} {i : Instr} (h : s.ready i = true) (f : State → State) :
    issue i s f = .next (f s.begin) := by
  simp only [State.ready, Bool.and_eq_true, Option.isNone_iff_eq_none, Bool.not_eq_true'] at h
  have e : s.dropStaleHint.begin = s.begin := by
    have d : s.dropStaleHint.dropStaleHint = s.dropStaleHint := by
      unfold State.dropStaleHint
      split
      · rfl
      · simp
    simp only [State.begin, d]
  simp only [issue, State.attempt, h.1, h.2, e, Bool.false_eq_true, ↓reduceIte]

/-- The checks of R53 and R144 refuse an ill-formed instruction. -/
theorem State.refusal_wf {s : State} {i : Instr} (h : s.refusal i = none) : i.wf = true := by
  unfold State.refusal at h
  by_contra hc
  rw [if_pos (by rw [Bool.not_eq_true] at hc; simp [hc])] at h
  exact nomatch h

/-- An instruction that may issue is well formed. -/
theorem State.ready_wf {s : State} {i : Instr} (h : s.ready i = true) : i.wf = true := by
  simp only [State.ready, Bool.and_eq_true, Option.isNone_iff_eq_none] at h
  exact State.refusal_wf h.1

/-- What issue leaves of a context: its hint may be dropped and its lookahead windows shrink. -/
structure Ctx.Near (x y : Ctx) : Prop where
  st : y.st = x.st
  halted : y.halted = x.halted
  pc : y.pc = x.pc
  priv : y.priv = x.priv
  g : y.g = x.g
  sr : y.sr = x.sr
  tokens : y.tokens = x.tokens
  wait : y.wait = x.wait
  waitCount : y.waitCount = x.waitCount
  boost : y.boost = x.boost
  boostEnd : y.boostEnd = x.boostEnd
  liveBefore : y.liveBefore = x.liveBefore
  liveFrom : y.liveFrom = x.liveFrom
  retired : y.retired = x.retired
  signalled : y.signalled = x.signalled
  appended : y.appended = x.appended
  born : y.born = x.born
  sends : y.sends = x.sends
  late : y.late.isEmpty = x.late.isEmpty

/-- What issue leaves of a core: event counts and the lookahead windows of the matrix queue may move. -/
structure Core.Near (k : Nat) (c d : Core) : Prop where
  ta : d.ta = c.ta
  lastIssue : d.lastIssue = c.lastIssue
  vec : d.vec = c.vec
  el : d.mat.el = c.mat.el
  tag : d.mat.tag = c.mat.tag
  kc : d.mat.kc = c.mat.kc
  code : d.mat.code = c.mat.code
  codeFmt : d.mat.codeFmt = c.mat.codeFmt
  rem : d.mat.rem = c.mat.rem
  winAt : d.mat.winAt = c.mat.winAt
  queue : d.mat.queue.length = c.mat.queue.length
  streams : d.streams = c.streams
  kept : d.kept = c.kept
  hq : d.hq = c.hq
  sb : d.sb = c.sb
  hold : d.hold = c.hold
  sfq : d.sfq = c.sfq
  tlb : d.tlb = c.tlb
  mail : d.mail = c.mail
  mailSeq : d.mailSeq = c.mailSeq
  fps : d.fps = c.fps
  comb : d.comb = c.comb
  combSeq : d.combSeq = c.combSeq
  pend : d.pend = c.pend
  mem : d.mem = c.mem
  trace : d.trace = c.trace
  blocks : d.blocks = c.blocks
  nsRef : d.nsRef = c.nsRef
  count : d.count = c.count
  dbg : d.dbg = c.dbg
  reg : ∀ n, n < 0x158 ∨ 0x15F < n → d.reg n = c.reg n
  ctx : ∀ j, j ≠ k → d.ctx j = c.ctx j
  cx : Ctx.Near (c.ctx k) (d.ctx k)

/-- What issue leaves of the module. -/
structure State.Near (s t : State) : Prop where
  lcn : t.lcn = s.lcn
  k : t.k = s.k
  late : t.late = s.late
  tick : t.tick = s.tick
  agenda : t.agenda = s.agenda
  mem : t.mem = s.mem
  towers : t.towers = s.towers
  arb : t.arb = s.arb
  fab : t.fab = s.fab
  host : t.host = s.host
  cores : ∀ l, l ≠ s.lcn → t.coreAt l = s.coreAt l
  core : Core.Near s.k s.core t.core

theorem Ctx.Near.refl (x : Ctx) : Ctx.Near x x := by constructor <;> rfl

theorem Ctx.Near.trans {x y z : Ctx} (h : Ctx.Near x y) (g : Ctx.Near y z) : Ctx.Near x z := by
  constructor <;> first
    | exact g.st.trans h.st | exact g.halted.trans h.halted | exact g.pc.trans h.pc | exact g.priv.trans h.priv
    | exact g.g.trans h.g | exact g.sr.trans h.sr | exact g.tokens.trans h.tokens | exact g.wait.trans h.wait
    | exact g.waitCount.trans h.waitCount | exact g.boost.trans h.boost | exact g.boostEnd.trans h.boostEnd
    | exact g.liveBefore.trans h.liveBefore | exact g.liveFrom.trans h.liveFrom | exact g.retired.trans h.retired
    | exact g.signalled.trans h.signalled | exact g.appended.trans h.appended | exact g.born.trans h.born
    | exact g.sends.trans h.sends | exact g.late.trans h.late

theorem Core.Near.refl (k : Nat) (c : Core) : Core.Near k c c := by
  constructor <;> first | rfl | exact fun _ _ => rfl | exact Ctx.Near.refl _

theorem Core.Near.trans {k : Nat} {c d e : Core} (h : Core.Near k c d) (g : Core.Near k d e) : Core.Near k c e where
  ta := g.ta.trans h.ta
  lastIssue := g.lastIssue.trans h.lastIssue
  vec := g.vec.trans h.vec
  el := g.el.trans h.el
  tag := g.tag.trans h.tag
  kc := g.kc.trans h.kc
  code := g.code.trans h.code
  codeFmt := g.codeFmt.trans h.codeFmt
  rem := g.rem.trans h.rem
  winAt := g.winAt.trans h.winAt
  queue := g.queue.trans h.queue
  streams := g.streams.trans h.streams
  kept := g.kept.trans h.kept
  hq := g.hq.trans h.hq
  sb := g.sb.trans h.sb
  hold := g.hold.trans h.hold
  sfq := g.sfq.trans h.sfq
  tlb := g.tlb.trans h.tlb
  mail := g.mail.trans h.mail
  mailSeq := g.mailSeq.trans h.mailSeq
  fps := g.fps.trans h.fps
  comb := g.comb.trans h.comb
  combSeq := g.combSeq.trans h.combSeq
  pend := g.pend.trans h.pend
  mem := g.mem.trans h.mem
  trace := g.trace.trans h.trace
  blocks := g.blocks.trans h.blocks
  nsRef := g.nsRef.trans h.nsRef
  count := g.count.trans h.count
  dbg := g.dbg.trans h.dbg
  reg := fun n hn => (g.reg n hn).trans (h.reg n hn)
  ctx := fun j hj => (g.ctx j hj).trans (h.ctx j hj)
  cx := h.cx.trans g.cx

theorem State.Near.refl (s : State) : State.Near s s := by
  constructor <;> first | rfl | exact fun _ _ => rfl | exact Core.Near.refl ..

theorem State.Near.trans {s t u : State} (h : State.Near s t) (g : State.Near t u) : State.Near s u where
  lcn := g.lcn.trans h.lcn
  k := g.k.trans h.k
  late := g.late.trans h.late
  tick := g.tick.trans h.tick
  agenda := g.agenda.trans h.agenda
  mem := g.mem.trans h.mem
  towers := g.towers.trans h.towers
  arb := g.arb.trans h.arb
  fab := g.fab.trans h.fab
  host := g.host.trans h.host
  cores := fun l hl => (g.cores l (h.lcn ▸ hl)).trans (h.cores l hl)
  core := h.core.trans (h.k ▸ g.core)

/-- A change of the core whose turn it is that stays near. -/
theorem State.Near.updCore {s : State} {f : Core → Core} (h : Core.Near s.k s.core (f s.core)) :
    State.Near s (s.updCore f) := by
  constructor
  case cores => exact fun l hl => State.coreAt_updCoreAt_ne _ _ hl
  case core => simpa using h
  all_goals rfl

/-- A change of the context whose turn it is that stays near. -/
theorem State.Near.updCx {s : State} {f : Ctx → Ctx} (h : Ctx.Near s.cx (f s.cx)) : State.Near s (s.updCx f) := by
  constructor
  case cores => exact fun l hl => State.coreAt_setCoreAt_ne _ _ hl
  case core =>
    rw [State.core_updCx]
    constructor
    case reg => exact fun _ _ => rfl
    case ctx => exact fun j hj => Core.ctx_updCtx_ne _ _ hj
    case cx => simpa [State.cx] using h
    all_goals rfl
  all_goals rfl

theorem State.Near.dropStaleHint (s : State) : State.Near s s.dropStaleHint := by
  unfold State.dropStaleHint
  split
  · exact .refl s
  · exact .updCx (by constructor <;> rfl)

theorem Core.Near.countEvent (k : Nat) (c : Core) (e : Nat) (j : Option Nat) (n : Nat) :
    Core.Near k c (c.countEvent e j n) := by
  constructor
  case reg => exact fun m hm => Core.reg_countEvent _ _ _ _ _ hm
  case cx => simpa using Ctx.Near.refl _
  all_goals simp

theorem State.Near.noteIssue (s : State) : State.Near s s.noteIssue := by
  unfold State.noteIssue
  extract_lets t
  have h : State.Near s t := by
    unfold t
    split
    · exact .refl s
    · exact .updCx (by constructor <;> simp)
  split
  · refine h.trans (.updCore ?_)
    constructor
    case reg => exact fun _ _ => rfl
    case ctx => exact fun _ _ => rfl
    case cx => exact Ctx.Near.refl _
    case queue => simp
    all_goals rfl
  · exact h

/-- What an instruction meets when it takes effect is what stood before its issue, but for hints, counts and windows. -/
theorem State.begin_near (s : State) : State.Near s s.begin := by
  unfold State.begin
  extract_lets t
  split
  · exact (State.Near.dropStaleHint s).trans (State.Near.noteIssue _)
  · exact State.Near.dropStaleHint s

/-- Issue leaves a hint that is not stale. -/
theorem State.noteIssue_hint (s : State) : s.noteIssue.cx.hint = s.cx.hint := by
  unfold State.noteIssue
  extract_lets t
  have h : t.cx.hint = s.cx.hint := by
    unfold t
    split
    · rfl
    · rw [State.cx_updCx]
  split
  · rw [State.cx_updCore]; exact h
  · exact h

theorem State.begin_hint (s : State) : s.begin.cx.hint = s.dropStaleHint.cx.hint := by
  unfold State.begin
  dsimp only
  split
  · exact State.noteIssue_hint _
  · rfl

theorem State.Near.cx {s t : State} (h : State.Near s t) : Ctx.Near s.cx t.cx := by
  simpa only [State.cx, h.k] using h.core.cx

theorem State.Near.g {s t : State} (h : State.Near s t) (r : BitVec 5) : t.g r = s.g r := by
  simp only [State.g, Ctx.gr, h.cx.g]

theorem State.Near.byteAt {s t : State} (h : State.Near s t) (pa : Nat) : t.byteAt pa = s.byteAt pa := by
  simp only [State.byteAt, State.homeOf, h.mem, h.fab]

/-! ## Frames -/

theorem Ctx.keeps_near (f : Frame) {x y : Ctx} (h : Ctx.Near x y) : Ctx.keeps f x y :=
  ⟨fun r _ => by simp only [Ctx.gr, h.g], fun n _ _ => by simp only [Ctx.reg, h.sr], fun _ => h.priv⟩

theorem Core.keeps_near (f : Frame) {k : Nat} {c d : Core} (h : Core.Near k c d) : Core.keeps f k c d :=
  ⟨fun n _ hn => h.reg n hn, fun _ => h.vec, fun _ => ⟨h.el, h.tag, h.kc, h.code, h.codeFmt⟩, fun _ => h.streams,
    fun _ => ⟨h.sb, h.hold, h.sfq⟩, fun _ => ⟨h.fps, h.comb⟩, fun _ => ⟨h.tlb, h.mail⟩, fun _ => h.hq, fun _ => h.mem,
    fun _ => ⟨h.ta, h.pend⟩, fun _ => h.ctx⟩

theorem State.keeps_near (f : Frame) {s t : State} (h : State.Near s t) : State.keeps s f t :=
  ⟨h.lcn, h.k, fun _ => h.byteAt, fun _ => h.cores, fun _ => h.towers, fun _ => h.arb, fun _ => h.fab, fun _ => h.host,
    Core.keeps_near f h.core, Ctx.keeps_near f h.cx⟩

theorem Ctx.keeps.trans {f : Frame} {x y z : Ctx} (h : Ctx.keeps f x y) (g : Ctx.keeps f y z) : Ctx.keeps f x z :=
  ⟨fun r hr => (g.1 r hr).trans (h.1 r hr), fun n hn hm => (g.2.1 n hn hm).trans (h.2.1 n hn hm),
    fun hl => (g.2.2 hl).trans (h.2.2 hl)⟩

theorem Core.keeps.trans {f : Frame} {k : Nat} {c d e : Core} (h : Core.keeps f k c d) (g : Core.keeps f k d e) :
    Core.keeps f k c e := by
  obtain ⟨h1, h2, h3, h4, h5, h6, h7, h8, h9, h10, h11⟩ := h
  obtain ⟨g1, g2, g3, g4, g5, g6, g7, g8, g9, g10, g11⟩ := g
  exact ⟨fun n hn hm => (g1 n hn hm).trans (h1 n hn hm), fun hf => (g2 hf).trans (h2 hf),
    fun hf => ⟨(g3 hf).1.trans (h3 hf).1, (g3 hf).2.1.trans (h3 hf).2.1, (g3 hf).2.2.1.trans (h3 hf).2.2.1,
      (g3 hf).2.2.2.1.trans (h3 hf).2.2.2.1, (g3 hf).2.2.2.2.trans (h3 hf).2.2.2.2⟩,
    fun hf => (g4 hf).trans (h4 hf),
    fun hf => ⟨(g5 hf).1.trans (h5 hf).1, (g5 hf).2.1.trans (h5 hf).2.1, (g5 hf).2.2.trans (h5 hf).2.2⟩,
    fun hf => ⟨(g6 hf).1.trans (h6 hf).1, (g6 hf).2.trans (h6 hf).2⟩,
    fun hf => ⟨(g7 hf).1.trans (h7 hf).1, (g7 hf).2.trans (h7 hf).2⟩, fun hf => (g8 hf).trans (h8 hf),
    fun hf => (g9 hf).trans (h9 hf), fun hf => ⟨(g10 hf).1.trans (h10 hf).1, (g10 hf).2.trans (h10 hf).2⟩,
    fun hf j hj => (g11 hf j hj).trans (h11 hf j hj)⟩

theorem State.keeps.trans {f : Frame} {s t u : State} (h : State.keeps s f t) (g : State.keeps t f u) :
    State.keeps s f u := by
  obtain ⟨h1, h2, h3, h4, h5, h6, h7, h8, h9, h10⟩ := h
  obtain ⟨g1, g2, g3, g4, g5, g6, g7, g8, g9, g10⟩ := g
  exact ⟨g1.trans h1, g2.trans h2, fun hf pa => (g3 hf pa).trans (h3 hf pa),
    fun hf l hl => (g4 hf l (h1 ▸ hl)).trans (h4 hf l hl), fun hf => (g5 hf).trans (h5 hf),
    fun hf => (g6 hf).trans (h6 hf), fun hf => (g7 hf).trans (h7 hf), fun hf => (g8 hf).trans (h8 hf),
    h9.trans (h2 ▸ g9), h10.trans g10⟩

/-- A frame that allows more than another. -/
def Frame.le (f g : Frame) : Prop :=
  (∀ r ∈ f.g, r ∈ g.g) ∧ (∀ n ∈ f.sr, n ∈ g.sr) ∧ (∀ n ∈ f.cr, n ∈ g.cr) ∧
  (g.level = false → f.level = false) ∧ (g.vec = false → f.vec = false) ∧ (g.mat = false → f.mat = false) ∧
  (g.streams = false → f.streams = false) ∧ (g.stores = false → f.stores = false) ∧ (g.engines = false → f.engines = false) ∧
  (g.mmu = false → f.mmu = false) ∧ (g.queues = false → f.queues = false) ∧ (g.member = false → f.member = false) ∧
  (g.traps = false → f.traps = false) ∧ (g.ctxs = false → f.ctxs = false) ∧ (g.cores = false → f.cores = false) ∧
  (g.memory = false → f.memory = false) ∧ (g.towers = false → f.towers = false) ∧ (g.arb = false → f.arb = false) ∧
  (g.fab = false → f.fab = false) ∧ (g.host = false → f.host = false)

theorem Ctx.keeps.mono {f g : Frame} {x y : Ctx} (h : Ctx.keeps f x y) (l : Frame.le f g) : Ctx.keeps g x y :=
  ⟨fun r hr => h.1 r fun e => hr (l.1 r e), fun n hn => h.2.1 n fun e => hn (l.2.1 n e), fun e => h.2.2 (l.2.2.2.1 e)⟩

theorem Core.keeps.mono {f g : Frame} {k : Nat} {c d : Core} (h : Core.keeps f k c d) (l : Frame.le f g) : Core.keeps g k c d := by
  obtain ⟨_, _, lc, _, l1, l2, l3, l4, l5, l6, l7, l8, l9, l10, _⟩ := l
  obtain ⟨h0, h1, h2, h3, h4, h5, h6, h7, h8, h9, h10⟩ := h
  exact ⟨fun n hn => h0 n fun e => hn (lc n e), fun e => h1 (l1 e), fun e => h2 (l2 e), fun e => h3 (l3 e), fun e => h4 (l4 e),
    fun e => h5 (l5 e), fun e => h6 (l6 e), fun e => h7 (l7 e), fun e => h8 (l8 e), fun e => h9 (l9 e), fun e => h10 (l10 e)⟩

/-- What keeps more keeps less. -/
theorem State.keeps.mono {f g : Frame} {s t : State} (h : State.keeps s f t) (l : Frame.le f g) : State.keeps s g t := by
  obtain ⟨h0, h1, h2, h3, h4, h5, h6, h7, h8, h9⟩ := h
  exact ⟨h0, h1, fun e => h2 (l.2.2.2.2.2.2.2.2.2.2.2.2.2.2.2.1 e), fun e => h3 (l.2.2.2.2.2.2.2.2.2.2.2.2.2.2.1 e),
    fun e => h4 (l.2.2.2.2.2.2.2.2.2.2.2.2.2.2.2.2.1 e), fun e => h5 (l.2.2.2.2.2.2.2.2.2.2.2.2.2.2.2.2.2.1 e),
    fun e => h6 (l.2.2.2.2.2.2.2.2.2.2.2.2.2.2.2.2.2.2.1 e), fun e => h7 (l.2.2.2.2.2.2.2.2.2.2.2.2.2.2.2.2.2.2.2 e),
    h8.mono l, h9.mono l⟩

theorem State.keeps.refl (f : Frame) (s : State) : State.keeps s f s := State.keeps_near f (.refl s)

/-- A change of one context keeps the rest of its core. -/
theorem Core.updCtx_keeps (f : Frame) (k : Nat) (c : Core) (u : Ctx → Ctx) : Core.keeps f k c (c.updCtx k u) :=
  ⟨fun _ _ _ => rfl, fun _ => rfl, fun _ => ⟨rfl, rfl, rfl, rfl, rfl⟩, fun _ => rfl, fun _ => ⟨rfl, rfl, rfl⟩,
    fun _ => ⟨rfl, rfl⟩, fun _ => ⟨rfl, rfl⟩, fun _ => rfl, fun _ => rfl, fun _ => ⟨rfl, rfl⟩,
    fun _ _ hj => Core.ctx_updCtx_ne _ _ hj⟩

/-- A change of the context whose turn it is keeps what it keeps of the context. -/
theorem State.keeps_updCx {f : Frame} {s : State} {u : Ctx → Ctx} (h : Ctx.keeps f s.cx (u s.cx)) :
    State.keeps s f (s.updCx u) := by
  refine ⟨rfl, rfl, fun _ _ => rfl, fun _ l hl => State.coreAt_setCoreAt_ne _ _ hl, fun _ => rfl, fun _ => rfl, fun _ => rfl,
    fun _ => rfl, ?_, by simpa using h⟩
  rw [State.core_updCx]
  exact Core.updCtx_keeps ..

/-- A change of the core whose turn it is keeps what it keeps of the core and its context. -/
theorem State.keeps_updCore {f : Frame} {s : State} {u : Core → Core} (h : Core.keeps f s.k s.core (u s.core))
    (hx : Ctx.keeps f s.cx ((u s.core).ctx s.k)) : State.keeps s f (s.updCore u) :=
  ⟨rfl, rfl, fun _ _ => rfl, fun _ l hl => State.coreAt_updCoreAt_ne _ _ hl, fun _ => rfl, fun _ => rfl, fun _ => rfl,
    fun _ => rfl, by simpa using h, by simpa using hx⟩

/-- A general register written, where the frame names it. -/
theorem State.keeps_setG {f : Frame} {s : State} {r : BitVec 5} {v : Word} (h : r ∈ f.g ∨ r = 0) :
    State.keeps s f (s.setG r v) := by
  refine State.keeps_updCx ⟨fun r' hr => ?_, fun n _ _ => by simp, fun _ => by simp⟩
  simp only [Ctx.gr_setGr]
  rw [if_neg]
  rintro ⟨rfl, hz⟩
  exact h.elim hr hz

/-! ## Completion -/

/-- The registers a context is left with when loops end: only loop counters among its per-context registers change. -/
theorem Ctx.loopEnds_keeps (x : Ctx) (next : BitVec 48) (n : Nat) (l : List Nat) (hl : ∀ k ∈ l, k < 3) :
    (x.loopEnds next n l).1.g = x.g ∧ (x.loopEnds next n l).1.priv = x.priv ∧
    (x.loopEnds next n l).1.retired = x.retired ∧
    ∀ m, m < 0x07A ∨ 0x07C < m → (x.loopEnds next n l).1.reg m = x.reg m := by
  have mem : ∀ (x : Ctx) l k, x.innermost l = some k → k ∈ l := by
    intro x l
    induction l with
    | nil => intro k h; simp [Ctx.innermost] at h
    | cons j t ih =>
      intro k h
      simp only [Ctx.innermost] at h
      split at h
      · simp only [Option.some.injEq] at h; simp [h]
      · rename_i m hm
        split at h <;> simp only [Option.some.injEq] at h <;> subst h
        · exact List.mem_cons_of_mem _ (ih _ hm)
        · exact List.mem_cons_self ..
  induction n generalizing x l with
  | zero => exact ⟨rfl, rfl, rfl, fun _ _ => rfl⟩
  | succ n ih =>
    unfold Ctx.loopEnds
    split
    · exact ⟨rfl, rfl, rfl, fun _ _ => rfl⟩
    · rename_i k hk
      have k3 : k < 3 := hl k (mem _ _ _ hk)
      extract_lets lc
      split
      · exact ⟨rfl, rfl, rfl, fun m hm => Ctx.reg_setReg_ne _ _ (by omega)⟩
      · obtain ⟨a, b, c, d⟩ := ih (x.setReg (0x07A + k) 0) (l.filter (· ≠ k))
          fun j hj => hl j (List.mem_of_mem_filter hj)
        exact ⟨a, b, c, fun m hm => (d m hm).trans (Ctx.reg_setReg_ne _ _ (by omega))⟩

theorem Ctx.retire_keeps (f : Frame) (x : Ctx) : Ctx.keeps f x x.retire := by
  obtain ⟨a, b, -, d⟩ := x.loopEnds_keeps (x.pc + 4) 3 ([2, 1, 0].filter (x.endsAt x.pc)) fun k hk => by
    have := List.mem_of_mem_filter hk
    simp at this
    omega
  exact ⟨fun r _ => by simpa only [Ctx.gr, Ctx.retire] using congrArg (fun g => if r = 0 then 0 else Tab.get 0 g r.toNat) a,
    fun n _ hn => d n hn, fun _ => b⟩

theorem Ctx.loopEnds_pending (n : Nat) (x : Ctx) (p : BitVec 48) (l : List Nat) : (x.loopEnds p n l).1.late = x.late := by
  induction n generalizing x p l with
  | zero => rfl
  | succ n ih =>
    unfold Ctx.loopEnds
    split
    · rfl
    · dsimp only
      split
      · rfl
      · exact ih ..

/-- Completion in order leaves pending results pending. -/
theorem Ctx.retire_pending (x : Ctx) : x.retire.late = x.late := Ctx.loopEnds_pending ..

/-- Completion in order changes nothing but the pc, the loop counters and the counts. -/
theorem State.retire_frame (f : Frame) (s : State) : State.keeps s f s.retire := by
  refine State.keeps_updCore ?_ (by simpa [State.cx] using Ctx.retire_keeps f s.cx)
  obtain h := Core.keeps_near f (Core.Near.countEvent s.k (s.core.updCtx s.k Ctx.retire) 2 (some s.k) 1)
  exact (Core.updCtx_keeps f _ _ _).trans h

/-- Completion by a transfer of control changes nothing but the pc and the counts. -/
theorem State.jump_frame (f : Frame) (s : State) (a : BitVec 48) : State.keeps s f (s.jump a) := by
  refine State.keeps_updCore ?_ ?_
  · obtain h := Core.keeps_near f (Core.Near.countEvent s.k (s.core.updCtx s.k (·.jump a)) 2 (some s.k) 1)
    exact (Core.updCtx_keeps f _ _ _).trans h
  · simp only [Core.ctx_countEvent, Core.ctx_updCtx_same]
    exact ⟨fun _ _ => rfl, fun _ _ _ => rfl, fun _ => rfl⟩

@[simp] theorem Ctx.retire_retired (x : Ctx) : x.retire.retired = x.retired + 1 := rfl

@[simp] theorem Ctx.retire_hint (x : Ctx) : x.retire.hint = Hint.none := rfl

@[simp] theorem Ctx.retire_wait (x : Ctx) : x.retire.wait = none := rfl

@[simp] theorem Ctx.retire_appended (x : Ctx) : x.retire.appended = 0 := rfl

/-- Where no loop ends at the pc, completion goes to the next word and leaves every per-context register (R12). -/
theorem Ctx.retire_plain {x : Ctx} (h : ∀ k, k < 3 → x.endsAt x.pc k = false) :
    x.retire.pc = x.pc + 4 ∧ ∀ n, x.retire.reg n = x.reg n := by
  have none : [2, 1, 0].filter (x.endsAt x.pc) = [] := by simp [h 0 (by omega), h 1 (by omega), h 2 (by omega)]
  simp only [Ctx.retire, none, Ctx.loopEnds, Ctx.innermost]
  exact ⟨trivial, fun _ => rfl⟩

/-- What a context that goes on in order depends on: its pc, level, count and loop registers. -/
theorem State.advances_of {s u : State} (pc : u.cx.pc = s.cx.pc) (priv : u.cx.priv = s.cx.priv)
    (ret : u.cx.retired = s.cx.retired) (reg : ∀ n, 0x07A ≤ n → n ≤ 0x07F → u.cx.reg n = s.cx.reg n) :
    State.advances s u.retire := by
  rw [State.advances, State.cx_retire]
  have ends : ∀ k, k < 3 → u.cx.endsAt u.cx.pc k = s.cx.endsAt s.cx.pc k := by
    intro k hk
    simp only [Ctx.endsAt, pc, priv, reg (0x07A + k) (by omega) (by omega), reg (0x07D + k) (by omega) (by omega)]
  obtain ⟨-, -, c, -⟩ := u.cx.loopEnds_keeps (u.cx.pc + 4) 3 ([2, 1, 0].filter (u.cx.endsAt u.cx.pc)) fun k hk => by
    have := List.mem_of_mem_filter hk
    simp at this
    omega
  refine ⟨by simp only [Ctx.retire, ret], rfl, rfl, fun h => ?_⟩
  have none : [2, 1, 0].filter (u.cx.endsAt u.cx.pc) = [] := by
    simp [ends, h 0 (by omega), h 1 (by omega), h 2 (by omega)]
  simp only [Ctx.retire, none, Ctx.loopEnds, Ctx.innermost]
  exact ⟨by rw [pc], fun n h1 h2 => reg n h1 (by omega)⟩

end Sys2Proof.Machine
end

