-- ==== Sys2Proof/Laws/Keeps.lean ====
section
/-!
SUPPORT. What every operation keeps: the focus, and the canonical form of memory. `Keeps` is carried along a chain of operations
from a fixed first state; an answer keeps it when it is a next state that does.
-/

namespace Sys2Proof.Machine

/-- The second state has the focus of the first, and canonical memory where the first has. -/
def Keeps (s t : State) : Prop := t.lcn = s.lcn ∧ t.k = s.k ∧ (Memory.wf s.mem = true → Memory.wf t.mem = true)

/-- An answer is a next state that keeps the focus and canonical memory. -/
def OutKeeps (s : State) (o : Out) : Prop := ∃ t, o = .next t ∧ Keeps s t

/-- A state that may be absent keeps them where it is present. -/
def OptKeeps (s : State) (o : Option State) : Prop := ∀ t, o = some t → Keeps s t

/-- A state or an error: the state keeps them. -/
def ExcKeeps {ε : Type} (s : State) (o : Except ε State) : Prop := ∀ t, o = .ok t → Keeps s t

theorem Keeps.refl (s : State) : Keeps s s := ⟨rfl, rfl, id⟩

theorem Keeps.trans {s t u : State} (h : Keeps s t) (g : Keeps t u) : Keeps s u :=
  ⟨g.1.trans h.1, g.2.1.trans h.2.1, fun w => g.2.2 (h.2.2 w)⟩

variable {s₀ s : State}

/-- A state with other cores, towers, arbiter, fabric, host side, agenda or counters. -/
theorem Keeps.same (h : Keeps s₀ s) (late : Bool) (tick : Nat) (agenda : List Turn) (cores : Tab Core) (towers : Tab Tower)
    (arb : Arbiter) (fab : Fabric) (host : HostSide) :
    Keeps s₀ ⟨s.lcn, s.k, late, tick, agenda, s.mem, cores, towers, arb, fab, host⟩ := h

theorem OutKeeps.next (h : Keeps s₀ s) : OutKeeps s₀ (.next s) := ⟨s, rfl, h⟩

theorem OptKeeps.none : OptKeeps s₀ none := fun _ e => nomatch e

theorem OptKeeps.some (h : Keeps s₀ s) : OptKeeps s₀ (some s) := fun _ e => (Option.some.inj e) ▸ h

theorem OptKeeps.get {o : Option State} (h : OptKeeps s₀ o) (e : o = Option.some s) : Keeps s₀ s := h s e

theorem OptKeeps.getD {o : Option State} (h : OptKeeps s₀ o) (g : Keeps s₀ s) : Keeps s₀ (o.getD s) := by
  cases o with
  | none => exact g
  | some t => exact h t rfl

theorem OptKeeps.bind {o : Option State} {f : State → Option State} (h : OptKeeps s₀ o)
    (hf : ∀ u, Keeps s₀ u → OptKeeps s₀ (f u)) : OptKeeps s₀ (o.bind f) := by
  cases o with
  | none => exact OptKeeps.none
  | some t => exact hf t (h t rfl)

theorem OptKeeps.foldl {β : Type} {f : Option State → β → Option State}
    (hf : ∀ u x, OptKeeps s₀ u → OptKeeps s₀ (f u x)) (l : List β) {o : Option State} (h : OptKeeps s₀ o) :
    OptKeeps s₀ (l.foldl f o) := by
  induction l generalizing o with
  | nil => exact h
  | cons x t ih => exact ih (hf o x h)

theorem ExcKeeps.error {ε : Type} (e : ε) : ExcKeeps s₀ (.error e) := fun _ h => nomatch h

theorem ExcKeeps.ok {ε : Type} (h : Keeps s₀ s) : ExcKeeps (ε := ε) s₀ (.ok s) := fun _ e => (Except.ok.inj e) ▸ h

theorem ExcKeeps.get {ε : Type} {o : Except ε State} (h : ExcKeeps s₀ o) (e : o = Except.ok s) : Keeps s₀ s := h s e

/-- Operations applied one after another over a list. -/
theorem Keeps.foldl {β : Type} {f : State → β → State} (hf : ∀ u x, Keeps s₀ u → Keeps s₀ (f u x)) (l : List β)
    (h : Keeps s₀ s) : Keeps s₀ (l.foldl f s) := by
  induction l generalizing s with
  | nil => exact h
  | cons x t ih => exact ih (hf s x h)

/-- Operations applied one after another over a list, with a value carried along. -/
theorem Keeps.foldl_fst {β γ : Type} {f : State × γ → β → State × γ}
    (hf : ∀ u c x, Keeps s₀ u → Keeps s₀ (f (u, c) x).1) (l : List β) (c : γ) (h : Keeps s₀ s) :
    Keeps s₀ (l.foldl f (s, c)).1 := by
  induction l generalizing s c with
  | nil => exact h
  | cons x t ih => exact ih (f (s, c) x).2 (hf s c x h)

/-- The same with the state second. -/
theorem Keeps.foldl_snd {β γ : Type} {f : γ × State → β → γ × State}
    (hf : ∀ u c x, Keeps s₀ u → Keeps s₀ (f (c, u) x).2) (l : List β) (c : γ) (h : Keeps s₀ s) :
    Keeps s₀ (l.foldl f (c, s)).2 := by
  induction l generalizing s c with
  | nil => exact h
  | cons x t ih => exact ih (f (c, s) x).1 (hf s c x h)

/-! ## Memory -/

/-- One byte written keeps the canonical form. -/
theorem State.putByte_keeps (h : Keeps s₀ s) (pa : Nat) (b : Byte) : Keeps s₀ (s.putByte pa b) :=
  ⟨h.1, h.2.1, fun w => Tab.wf_set 0 s.mem _ b (h.2.2 w)⟩

/-- Registrations removed leave memory alone. -/
theorem State.deregister_keeps (h : Keeps s₀ s) (pages : List Nat) : Keeps s₀ (s.deregister pages) :=
  Keeps.foldl (fun _ _ hu => Keeps.same hu _ _ _ _ _ _ _ _) _ h

/-- A region replaced keeps the canonical form. -/
theorem State.putSparse_keeps (h : Keeps s₀ s) (pa len : Nat) (cells : Tab Byte) : Keeps s₀ (s.putSparse pa len cells) := by
  unfold State.putSparse
  dsimp only
  have h := State.deregister_keeps h ((List.range (pagesOf pa len)).map (pa / 2 ^ 18 + ·))
  generalize s.deregister _ = s at h ⊢
  split
  · refine ⟨h.1, h.2.1, fun w => ?_⟩
    have hw := h.2.2 w
    obtain ⟨hr, hm⟩ := Tab.wf_rising (0 : Byte) len cells 0
    refine Tab.wf_append 0 _ _ pa (Tab.wf_filter 0 _ _ hw) (Tab.wf_append 0 _ _ (pa + len) (Tab.wf_shift 0 pa _ hr)
      (Tab.wf_filter 0 _ _ hw) ?_ ?_) ?_ ?_
    · intro e he
      obtain ⟨e', he', rfl⟩ := List.mem_map.mp he
      have := hm e' he'
      dsimp only
      omega
    · intro e he
      simpa using (List.mem_filter.mp he).2
    · intro e he
      simpa using (List.mem_filter.mp he).2
    · intro e he
      rcases List.mem_append.mp he with he | he
      · obtain ⟨e', -, rfl⟩ := List.mem_map.mp he
        exact Nat.le_add_right _ _
      · have : pa + len ≤ e.1 := by simpa using (List.mem_filter.mp he).2
        omega
  · exact Keeps.foldl (fun u x hu => State.putByte_keeps hu _ _) _ h

/-- A tower emptied keeps the canonical form. -/
theorem State.emptyTower_keeps (h : Keeps s₀ s) (t : Nat) : Keeps s₀ (s.emptyTower t) :=
  ⟨h.1, h.2.1, fun w => Tab.wf_filter 0 _ _ (h.2.2 w)⟩

/-! ## The focus moved for one operation -/

/-- An operation run with another core and context in focus. -/
theorem State.at_keeps (h : Keeps s₀ s) (lcn k : Nat) (f : State → State) (hf : ∀ s₁ u, Keeps s₁ u → Keeps s₁ (f u)) :
    Keeps s₀ (s.at lcn k f) :=
  ⟨h.1, h.2.1, fun w => (hf _ _ (Keeps.refl { s with lcn := lcn, k := k })).2.2 (h.2.2 w)⟩

end Sys2Proof.Machine
end

