-- ==== Sys2Proof/Laws/Keeps/Ops.lean ====
section
/-!
SUPPORT. Every function of Machine/Ops.lean that answers a state keeps the focus and the canonical form of memory
(`Keeps`, Laws/Keeps.lean), and every meaning there answers a next state.
-/

namespace Sys2Proof.Machine
variable {s₀ s : State}

theorem State.setCoreAt_keeps (h : Keeps s₀ s) (lcn : Nat) (c : Core) :
    Keeps s₀ (State.setCoreAt s lcn c) := by
  unfold State.setCoreAt
  repeat' first
    | with_reducible assumption
    | fail_if_no_progress with_reducible apply Keeps.same

theorem State.updCoreAt_keeps (h : Keeps s₀ s) (lcn : Nat) (f : Core → Core) :
    Keeps s₀ (State.updCoreAt s lcn f) := by
  unfold State.updCoreAt
  repeat' first
    | with_reducible assumption
    | with_reducible apply State.setCoreAt_keeps

theorem State.setCore_keeps (h : Keeps s₀ s) (c : Core) :
    Keeps s₀ (State.setCore s c) := by
  unfold State.setCore
  repeat' first
    | with_reducible assumption
    | with_reducible apply State.setCoreAt_keeps

theorem State.updCore_keeps (h : Keeps s₀ s) (f : Core → Core) :
    Keeps s₀ (State.updCore s f) := by
  unfold State.updCore
  repeat' first
    | with_reducible assumption
    | with_reducible apply State.setCore_keeps

theorem State.setCx_keeps (h : Keeps s₀ s) (x : Ctx) :
    Keeps s₀ (State.setCx s x) := by
  unfold State.setCx
  repeat' first
    | with_reducible assumption
    | with_reducible apply State.setCore_keeps

theorem State.updCx_keeps (h : Keeps s₀ s) (f : Ctx → Ctx) :
    Keeps s₀ (State.updCx s f) := by
  unfold State.updCx
  repeat' first
    | with_reducible assumption
    | with_reducible apply State.setCx_keeps

theorem State.updTowerAt_keeps (h : Keeps s₀ s) (n : Nat) (f : Tower → Tower) :
    Keeps s₀ (State.updTowerAt s n f) := by
  unfold State.updTowerAt
  repeat' first
    | with_reducible assumption
    | fail_if_no_progress with_reducible apply Keeps.same

theorem State.updTower_keeps (h : Keeps s₀ s) (f : Tower → Tower) :
    Keeps s₀ (State.updTower s f) := by
  unfold State.updTower
  repeat' first
    | with_reducible assumption
    | with_reducible apply State.updTowerAt_keeps

theorem State.updPartAt_keeps (h : Keeps s₀ s) (p : Nat) (f : Part → Part) :
    Keeps s₀ (State.updPartAt s p f) := by
  unfold State.updPartAt
  repeat' first
    | with_reducible assumption
    | fail_if_no_progress with_reducible apply Keeps.same

theorem State.fresh_keeps (h : Keeps s₀ s)  :
    Keeps s₀ (State.fresh s).2 := by
  unfold State.fresh
  repeat' first
    | with_reducible assumption
    | fail_if_no_progress with_reducible apply Keeps.same

theorem State.fresh_pair   {a0 : _} {u₀ : State} (h : Keeps s₀ s)  (heq : State.fresh s = (a0, u₀)) :
    Keeps s₀ u₀ := by
  have g := State.fresh_keeps h  
  rw [heq] at g
  exact g

theorem State.setG_keeps (h : Keeps s₀ s) (r : BitVec 5) (v : Word) :
    Keeps s₀ (State.setG s r v) := by
  unfold State.setG
  repeat' first
    | with_reducible assumption
    | with_reducible apply State.updCx_keeps

theorem State.raise_keeps (h : Keeps s₀ s) (f : BitVec 5) :
    Keeps s₀ (State.raise s f) := by
  unfold State.raise
  repeat' first
    | with_reducible assumption
    | with_reducible apply State.updCx_keeps
    | with_reducible apply State.updCore_keeps
    | split

theorem State.updGang_keeps (h : Keeps s₀ s) (id : Nat) (f : Gang → Gang) :
    Keeps s₀ (State.updGang s id f) := by
  unfold State.updGang
  repeat' first
    | with_reducible assumption
    | fail_if_no_progress with_reducible apply Keeps.same

theorem State.updDom_keeps (h : Keeps s₀ s) (key : DomKey) (f : Domain → Domain) :
    Keeps s₀ (State.updDom s key f) := by
  unfold State.updDom
  repeat' first
    | with_reducible assumption
    | split
    | fail_if_no_progress with_reducible apply Keeps.same

theorem State.trace_keeps (h : Keeps s₀ s) (lcn : Nat) (k : Nat) (kind : Nat) (payload : List Word) :
    Keeps s₀ (State.trace s lcn k kind payload) := by
  unfold State.trace
  (try dsimp only)
  repeat' first
    | with_reducible assumption
    | with_reducible apply State.setCoreAt_keeps
    | split

theorem State.killHelper_keeps (h : Keeps s₀ s) (lcn : Nat) (h1 : Nat) :
    Keeps s₀ (State.killHelper s lcn h1) := by
  unfold State.killHelper
  (try dsimp only)
  repeat' first
    | with_reducible assumption
    | with_reducible apply State.updTowerAt_keeps
    | with_reducible apply State.updCoreAt_keeps
    | split
    | fail_if_no_progress with_reducible apply Keeps.same

theorem State.killHelpers_keeps (h : Keeps s₀ s) (lcn : Nat) :
    Keeps s₀ (State.killHelpers s lcn) := by
  unfold State.killHelpers
  repeat' first
    | with_reducible assumption
    | with_reducible apply Keeps.foldl
    | with_reducible apply State.killHelper_keeps
    | intro _ _ _

theorem State.postBelfry_keeps (h : Keeps s₀ s) (lcn : Nat) (m : BelfryMsg) :
    Keeps s₀ (State.postBelfry s lcn m) := by
  unfold State.postBelfry
  repeat' first
    | with_reducible assumption
    | with_reducible apply State.updTowerAt_keeps

theorem State.enterControl_keeps (h : Keeps s₀ s) (lcn : Nat) (cause : BitVec 8) (info : Word) (ctxno : Nat) (ppriv : BitVec 2) (imp : Bool) (ep : BitVec 48) :
    Keeps s₀ (State.enterControl s lcn cause info ctxno ppriv imp ep) := by
  unfold State.enterControl
  repeat' first
    | with_reducible assumption
    | with_reducible apply State.updCoreAt_keeps
    | with_reducible apply State.trace_keeps

theorem State.doubleTrap_keeps (h : Keeps s₀ s) (lcn : Nat) (cause : BitVec 8) (ep : BitVec 48) :
    Keeps s₀ (State.doubleTrap s lcn cause ep) := by
  unfold State.doubleTrap
  repeat' first
    | with_reducible assumption
    | with_reducible apply State.updCoreAt_keeps
    | with_reducible apply State.postBelfry_keeps
    | with_reducible apply State.killHelpers_keeps

theorem State.suspendHelper_keeps (h : Keeps s₀ s) (lcn : Nat) (h1 : Nat) (cause : BitVec 8) (info : Word) (ep : BitVec 48) (imp : Bool) :
    Keeps s₀ (State.suspendHelper s lcn h1 cause info ep imp) := by
  unfold State.suspendHelper
  repeat' first
    | with_reducible assumption
    | with_reducible apply State.updCoreAt_keeps

theorem State.trapAt_keeps (h : Keeps s₀ s) (lcn : Nat) (k : Nat) (cause : BitVec 8) (info : Word) (imp : Bool) (ep : BitVec 48) :
    Keeps s₀ (State.trapAt s lcn k cause info imp ep) := by
  unfold State.trapAt
  repeat' first
    | with_reducible assumption
    | with_reducible apply State.suspendHelper_keeps
    | with_reducible apply State.doubleTrap_keeps
    | with_reducible apply State.enterControl_keeps
    | split

theorem State.stall_keeps (h : Keeps s₀ s) (w : Wait) :
    Keeps s₀ (State.stall s w) := by
  unfold State.stall
  repeat' first
    | with_reducible assumption
    | with_reducible apply State.updCx_keeps

theorem State.trap_keeps (h : Keeps s₀ s) (cause : BitVec 8) (info : Word) :
    Keeps s₀ (State.trap s cause info) := by
  unfold State.trap
  repeat' first
    | with_reducible assumption
    | with_reducible apply State.stall_keeps
    | with_reducible apply State.trapAt_keeps
    | split

theorem State.trapWord_keeps (h : Keeps s₀ s) (cause : BitVec 8) (i : Instr) :
    Keeps s₀ (State.trapWord s cause i) := by
  unfold State.trapWord
  repeat' first
    | with_reducible assumption
    | with_reducible apply State.trap_keeps

theorem State.trapNext_keeps (h : Keeps s₀ s) (cause : BitVec 8) (info : Word) :
    Keeps s₀ (State.trapNext s cause info) := by
  unfold State.trapNext
  repeat' first
    | with_reducible assumption
    | with_reducible apply State.stall_keeps
    | with_reducible apply State.trapAt_keeps
    | split

theorem State.postCause_keeps (h : Keeps s₀ s) (lcn : Nat) (cause : Nat) (info : Word) :
    Keeps s₀ (State.postCause s lcn cause info) := by
  unfold State.postCause
  repeat' first
    | with_reducible assumption
    | with_reducible apply State.updCoreAt_keeps

theorem State.retire_keeps (h : Keeps s₀ s)  :
    Keeps s₀ (State.retire s) := by
  unfold State.retire
  repeat' first
    | with_reducible assumption
    | with_reducible apply State.updCore_keeps

theorem State.jump_keeps (h : Keeps s₀ s) (target : BitVec 48) :
    Keeps s₀ (State.jump s target) := by
  unfold State.jump
  repeat' first
    | with_reducible assumption
    | with_reducible apply State.updCore_keeps

end Sys2Proof.Machine
end

