-- ==== Sys2Proof/Laws/Keeps/Ring.lean ====
section
/-!
SUPPORT. Every function of Machine/Ring.lean that answers a state keeps the focus and the canonical form of memory
(`Keeps`, Laws/Keeps.lean), and every meaning there answers a next state.
-/

namespace Sys2Proof.Machine
variable {s₀ s : State}

theorem State.ringPacket_keeps (h : Keeps s₀ s) (tower : Nat) (kind : RingKind) (stop : Nat) (dest : Nat) :
    Keeps s₀ (State.ringPacket s tower kind stop dest) := by
  unfold State.ringPacket
  repeat' first
    | with_reducible assumption
    | with_reducible apply State.updTowerAt_keeps
    | split

theorem State.ringProbe_keeps (h : Keeps s₀ s) (lcn : Nat) :
    Keeps s₀ (State.ringProbe s lcn) := by
  unfold State.ringProbe
  repeat' first
    | with_reducible assumption
    | with_reducible apply Keeps.foldl
    | with_reducible apply State.ringPacket_keeps
    | intro _ _ _

end Sys2Proof.Machine
end

