-- ==== Sys2Proof/Laws/Keeps/Checks.lean ====
section
/-!
SUPPORT. Every function of Machine/Checks.lean that answers a state keeps the focus and the canonical form of memory
(`Keeps`, Laws/Keeps.lean), and every meaning there answers a next state.
-/

namespace Sys2Proof.Machine
variable {s₀ s : State}

theorem State.dropStaleHint_keeps (h : Keeps s₀ s)  :
    Keeps s₀ (State.dropStaleHint s) := by
  unfold State.dropStaleHint
  repeat' first
    | with_reducible assumption
    | with_reducible apply State.updCx_keeps
    | split

theorem State.noteIssue_keeps (h : Keeps s₀ s)  :
    Keeps s₀ (State.noteIssue s) := by
  unfold State.noteIssue
  repeat' first
    | with_reducible assumption
    | with_reducible apply State.updCx_keeps
    | with_reducible apply State.updCore_keeps
    | split

theorem State.begin_keeps (h : Keeps s₀ s)  :
    Keeps s₀ (State.begin s) := by
  unfold State.begin
  (try dsimp only)
  repeat' first
    | with_reducible assumption
    | with_reducible apply State.dropStaleHint_keeps
    | with_reducible apply State.noteIssue_keeps
    | split

theorem State.attempt_keeps (h : Keeps s₀ s) (i : Instr) (f : State → State) (hf : ∀ u0, Keeps s₀ u0 → Keeps s₀ (f u0)) :
    Keeps s₀ (State.attempt s i f) := by
  unfold State.attempt
  (try dsimp only)
  repeat' first
    | with_reducible assumption
    | with_reducible apply hf
    | with_reducible apply State.dropStaleHint_keeps
    | with_reducible apply State.trapWord_keeps
    | with_reducible apply State.stall_keeps
    | with_reducible apply State.begin_keeps
    | split

theorem issue_keeps (h : Keeps s₀ s) (i : Instr) (f : State → State) (hf : ∀ u0, Keeps s₀ u0 → Keeps s₀ (f u0)) :
    OutKeeps s₀ (issue i s f) := by
  unfold issue
  repeat' first
    | with_reducible assumption
    | with_reducible apply OutKeeps.next
    | with_reducible apply State.attempt_keeps

end Sys2Proof.Machine
end

