-- ==== Sys2Proof/Laws/Keeps/Memory.lean ====
section
/-!
SUPPORT. Every function of Machine/Memory.lean that answers a state keeps the focus and the canonical form of memory
(`Keeps`, Laws/Keeps.lean), and every meaning there answers a next state.
-/

namespace Sys2Proof.Machine
variable {s₀ s : State}

theorem State.putCells_keeps (h : Keeps s₀ s) (cells : List (Nat × Byte)) :
    Keeps s₀ (State.putCells s cells) := by
  unfold State.putCells
  repeat' first
    | with_reducible assumption
    | with_reducible apply Keeps.foldl
    | with_reducible apply State.putByte_keeps
    | intro _ _ _

theorem State.putBytes_keeps (h : Keeps s₀ s) (y1 : Nat) (y2 : List Byte) :
    Keeps s₀ (State.putBytes s y1 y2) := by
  induction y2 generalizing s y1 with
  | nil => exact h
  | cons b t ih => exact ih (State.putByte_keeps h _ _) _

theorem State.nonRollbackable_keeps (h : Keeps s₀ s) (lcn : Nat) (why : Nat) :
    Keeps s₀ (State.nonRollbackable s lcn why) := by
  unfold State.nonRollbackable
  repeat' first
    | with_reducible assumption
    | with_reducible apply State.updCoreAt_keeps
    | with_reducible apply State.updGang_keeps

theorem State.wpCount_keeps (h : Keeps s₀ s) (c : Nat) (k : Nat) (p : Party) (addr : Nat) :
    Keeps s₀ (State.wpCount s c k p addr) := by
  unfold State.wpCount
  repeat' first
    | with_reducible assumption
    | with_reducible apply State.updCoreAt_keeps
    | with_reducible apply State.trace_keeps

theorem State.watchCore_keeps (h : Keeps s₀ s) (c : Nat) (p : Party) (rd : Bool) (wr : Bool) (xs : List Spot) :
    Keeps s₀ (State.watchCore s c p rd wr xs) := by
  unfold State.watchCore
  (try dsimp only)
  repeat' first
    | with_reducible assumption
    | with_reducible apply Keeps.foldl
    | with_reducible apply State.wpCount_keeps
    | with_reducible apply State.updCoreAt_keeps
    | with_reducible apply State.postCause_keeps
    | split
    | intro _ _ _

theorem State.watch_keeps (h : Keeps s₀ s) (p : Party) (rd : Bool) (wr : Bool) (xs : List Spot) :
    Keeps s₀ (State.watch s p rd wr xs) := by
  unfold State.watch
  repeat' first
    | with_reducible assumption
    | with_reducible apply Keeps.foldl
    | with_reducible apply State.watchCore_keeps
    | intro _ _ _

theorem State.nodeEntry_keeps (h : Keeps s₀ s) (tower : Option Nat) (part : Nat) (asid : BitVec 10) (level : Nat) (index : Nat) (addr : Nat) :
    Keeps s₀ (State.nodeEntry s tower part asid level index addr).2 := by
  unfold State.nodeEntry
  (try dsimp only)
  repeat' first
    | with_reducible assumption
    | with_reducible apply State.updTowerAt_keeps
    | split

theorem State.nodeEntry_pair  {tower : Option Nat} {part : Nat} {asid : BitVec 10} {level : Nat} {index : Nat} {addr : Nat} {a0 : _} {u₀ : State} (h : Keeps s₀ s)  (heq : State.nodeEntry s tower part asid level index addr = (a0, u₀)) :
    Keeps s₀ u₀ := by
  have g := State.nodeEntry_keeps h tower part asid level index addr 
  rw [heq] at g
  exact g

theorem State.leafAddr_keeps (h : Keeps s₀ s) (tower : Option Nat) (part : Nat) (asid : BitVec 10) (root : Nat) (va : Nat) :
    Keeps s₀ (State.leafAddr s tower part asid root va).2 := by
  unfold State.leafAddr
  (try dsimp only)
  repeat' first
    | with_reducible assumption
    | with_reducible apply State.nodeEntry_keeps
    | split

theorem State.leafAddr_pair  {tower : Option Nat} {part : Nat} {asid : BitVec 10} {root : Nat} {va : Nat} {a0 : _} {u₀ : State} (h : Keeps s₀ s)  (heq : State.leafAddr s tower part asid root va = (a0, u₀)) :
    Keeps s₀ u₀ := by
  have g := State.leafAddr_keeps h tower part asid root va 
  rw [heq] at g
  exact g

theorem State.walk_keeps (h : Keeps s₀ s) (tower : Option Nat) (part : Nat) (asid : BitVec 10) (root : Nat) (va : Nat) :
    Keeps s₀ (State.walk s tower part asid root va).2 := by
  unfold State.walk
  repeat' first
    | with_reducible assumption
    | with_reducible refine State.leafAddr_pair ?_ (by assumption)
    | split

theorem State.walk_pair  {tower : Option Nat} {part : Nat} {asid : BitVec 10} {root : Nat} {va : Nat} {a0 : _} {u₀ : State} (h : Keeps s₀ s)  (heq : State.walk s tower part asid root va = (a0, u₀)) :
    Keeps s₀ u₀ := by
  have g := State.walk_keeps h tower part asid root va 
  rw [heq] at g
  exact g

theorem State.tlbFind_keeps (h : Keeps s₀ s) (lcn : Nat) (k : Nat) (part : Nat) (asid : BitVec 10) (root : Nat) (va : Nat) :
    Keeps s₀ (State.tlbFind s lcn k part asid root va).2 := by
  unfold State.tlbFind
  (try dsimp only)
  repeat' first
    | with_reducible assumption
    | with_reducible apply State.updCoreAt_keeps
    | with_reducible apply State.ringProbe_keeps
    | with_reducible refine State.walk_pair ?_ (by assumption)
    | split

theorem State.tlbFind_pair  {lcn : Nat} {k : Nat} {part : Nat} {asid : BitVec 10} {root : Nat} {va : Nat} {a0 : _} {u₀ : State} (h : Keeps s₀ s)  (heq : State.tlbFind s lcn k part asid root va = (a0, u₀)) :
    Keeps s₀ u₀ := by
  have g := State.tlbFind_keeps h lcn k part asid root va 
  rw [heq] at g
  exact g

theorem State.translate_keeps (h : Keeps s₀ s) (lcn : Nat) (k : Nat) (q : Query) (va : Nat) :
    Keeps s₀ (State.translate s lcn k q va).2 := by
  unfold State.translate
  repeat' first
    | with_reducible assumption
    | with_reducible refine State.tlbFind_pair ?_ (by assumption)
    | split

theorem State.translate_pair  {lcn : Nat} {k : Nat} {q : Query} {va : Nat} {a0 : _} {u₀ : State} (h : Keeps s₀ s)  (heq : State.translate s lcn k q va = (a0, u₀)) :
    Keeps s₀ u₀ := by
  have g := State.translate_keeps h lcn k q va 
  rw [heq] at g
  exact g

theorem State.placeBytes_keeps (h : Keeps s₀ s) (pa : Nat) (bs : List Byte) :
    Keeps s₀ (State.placeBytes s pa bs) := by
  unfold State.placeBytes
  repeat' first
    | with_reducible assumption
    | with_reducible apply State.putBytes_keeps
    | with_reducible apply State.deregister_keeps

theorem State.setJournalled_keeps (h : Keeps s₀ s) (pa : Nat) :
    Keeps s₀ (State.setJournalled s pa) := by
  unfold State.setJournalled
  repeat' first
    | with_reducible assumption
    | with_reducible apply State.updCoreAt_keeps
    | with_reducible apply State.updTowerAt_keeps
    | split

theorem State.journalBlock_keeps (h : Keeps s₀ s) (p : Party) (blk : Nat) :
    Keeps s₀ (State.journalBlock s p blk) := by
  unfold State.journalBlock
  (try dsimp only)
  repeat' first
    | with_reducible assumption
    | with_reducible apply State.nonRollbackable_keeps
    | with_reducible apply State.updCoreAt_keeps
    | with_reducible apply State.postCause_keeps
    | with_reducible apply State.setJournalled_keeps
    | with_reducible apply State.placeBytes_keeps
    | split

theorem State.writeCells_keeps (h : Keeps s₀ s) (p : Party) (rd : Bool) (cells : List (Nat × Byte)) (xs : List Spot) :
    Keeps s₀ (State.writeCells s p rd cells xs) := by
  unfold State.writeCells
  repeat' first
    | with_reducible assumption
    | with_reducible apply Keeps.foldl
    | with_reducible apply State.journalBlock_keeps
    | with_reducible apply State.deregister_keeps
    | with_reducible apply State.watch_keeps
    | with_reducible apply State.putCells_keeps
    | intro _ _ _

theorem State.lineFailed_keeps (h : Keeps s₀ s) (lcn : Nat) (stat : Nat) (reason : Nat) (addr : Nat) :
    Keeps s₀ (State.lineFailed s lcn stat reason addr) := by
  unfold State.lineFailed
  repeat' first
    | with_reducible assumption
    | with_reducible apply State.fresh_keeps
    | with_reducible apply State.updCoreAt_keeps

theorem State.applyWord_keeps (h : Keeps s₀ s) (l : SentLine) (off : Nat) (v : Word) :
    Keeps s₀ (State.applyWord s l off v) := by
  unfold State.applyWord
  repeat' first
    | with_reducible assumption
    | with_reducible apply State.writeCells_keeps

theorem State.applyLine_keeps (h : Keeps s₀ s) (l : SentLine) :
    Keeps s₀ (State.applyLine s l) := by
  unfold State.applyLine
  repeat' first
    | with_reducible assumption
    | with_reducible apply Keeps.foldl
    | with_reducible apply State.applyWord_keeps
    | with_reducible apply State.lineFailed_keeps
    | split
    | intro _ _ _

theorem State.applyHeld_keeps (h : Keeps s₀ s) (home : Nat) (y2 : Nat) :
    Keeps s₀ (State.applyHeld s home y2) := by
  induction y2 generalizing s with
  | zero => exact h
  | succ n ih =>
    unfold State.applyHeld
    split
    · exact h
    · exact ih (State.applyLine_keeps (Keeps.same h _ _ _ _ _ _ _ _) _)

theorem State.arrive_keeps (h : Keeps s₀ s) (pas : List Nat) :
    Keeps s₀ (State.arrive s pas) := by
  unfold State.arrive
  repeat' first
    | with_reducible assumption
    | with_reducible apply Keeps.foldl
    | with_reducible apply State.applyHeld_keeps
    | split
    | intro _ _ _

theorem State.performWrite_keeps (h : Keeps s₀ s) (p : Party) (cells : List (Nat × Byte)) (xs : List Spot) :
    Keeps s₀ (State.performWrite s p cells xs) := by
  unfold State.performWrite
  repeat' first
    | with_reducible assumption
    | with_reducible apply State.writeCells_keeps
    | with_reducible apply State.arrive_keeps

theorem State.performRead_keeps (h : Keeps s₀ s) (p : Party) (xs : List Spot) :
    Keeps s₀ (State.performRead s p xs) := by
  unfold State.performRead
  repeat' first
    | with_reducible assumption
    | with_reducible apply State.watch_keeps
    | with_reducible apply State.arrive_keeps

theorem State.locateGranules_keeps (h : Keeps s₀ s) (lcn : Nat) (k : Nat) (q : Query) (y4 : Tab Nat) (y5 : Tab Nat) :
    Keeps s₀ (State.locateGranules s lcn k q y4 y5).2 := by
  induction y4 generalizing s y5 with
  | nil => exact h
  | cons e t ih =>
    obtain ⟨g, va⟩ := e
    unfold State.locateGranules
    split
    · exact ih (State.translate_pair h (by assumption)) _
    · exact State.translate_pair h (by assumption)
    · exact State.translate_pair h (by assumption)

theorem State.locateGranules_pair  {lcn : Nat} {k : Nat} {q : Query} {y4 : Tab Nat} {y5 : Tab Nat} {a0 : _} {u₀ : State} (h : Keeps s₀ s)  (heq : State.locateGranules s lcn k q y4 y5 = (a0, u₀)) :
    Keeps s₀ u₀ := by
  have g := State.locateGranules_keeps h lcn k q y4 y5 
  rw [heq] at g
  exact g

theorem State.locate_keeps (h : Keeps s₀ s) (lcn : Nat) (k : Nat) (q : Query) (eas : List Nat) :
    Keeps s₀ (State.locate s lcn k q eas).2 := by
  unfold State.locate
  repeat' first
    | with_reducible assumption
    | with_reducible apply State.locateGranules_keeps

theorem State.locate_pair  {lcn : Nat} {k : Nat} {q : Query} {eas : List Nat} {a0 : _} {u₀ : State} (h : Keeps s₀ s)  (heq : State.locate s lcn k q eas = (a0, u₀)) :
    Keeps s₀ u₀ := by
  have g := State.locate_keeps h lcn k q eas 
  rw [heq] at g
  exact g

theorem State.postAbsent_keeps (h : Keeps s₀ s) (lcn : Nat) (slot : Nat) (kind : Nat) (va : Nat) (asid : BitVec 10) (k : Nat) :
    Keeps s₀ (State.postAbsent s lcn slot kind va asid k) := by
  unfold State.postAbsent
  repeat' first
    | with_reducible assumption
    | with_reducible apply State.updCoreAt_keeps
    | with_reducible apply State.postBelfry_keeps

theorem State.underMail_keeps (h : Keeps s₀ s) {α : Type} {P : α → Prop} (stop : State → α) (f : State → α) (hstop : ∀ u0, Keeps s₀ u0 → P (stop u0)) (hf : ∀ u0, Keeps s₀ u0 → P (f u0)) :
    P (State.underMail s stop f) := by
  unfold State.underMail
  repeat' first
    | with_reducible assumption
    | with_reducible apply hstop
    | with_reducible apply hf
    | with_reducible apply State.stall_keeps
    | with_reducible apply State.updCore_keeps
    | with_reducible apply State.trap_keeps
    | split

theorem State.loadFault_keeps (h : Keeps s₀ s) (kind : Nat) (reason : Nat) (va : Nat) :
    Keeps s₀ (State.loadFault s kind reason va) := by
  unfold State.loadFault
  repeat' first
    | with_reducible assumption
    | with_reducible apply State.stall_keeps
    | with_reducible apply State.trap_keeps
    | with_reducible apply State.updCx_keeps
    | split

theorem State.reach_keeps (h : Keeps s₀ s) {α : Type} {P : α → Prop} (stop : State → α) (kind : Nat) (q : Query) (eas : List Nat) (f : State → Tab Nat → α) (hstop : ∀ u0, Keeps s₀ u0 → P (stop u0)) (hf : ∀ u0 u1, Keeps s₀ u0 → P (f u0 u1)) :
    P (State.reach s stop kind q eas f) := by
  unfold State.reach
  repeat' first
    | with_reducible assumption
    | with_reducible apply hstop
    | with_reducible apply hf
    | with_reducible apply State.underMail_keeps
    | with_reducible refine State.locate_pair ?_ (by assumption)
    | with_reducible apply State.loadFault_keeps
    | with_reducible apply State.stall_keeps
    | with_reducible apply State.postAbsent_keeps
    | split
    | intro _ _

theorem State.readAccess_keeps (h : Keeps s₀ s) (frames : Tab Nat) (a : List Nat) :
    Keeps s₀ (State.readAccess s frames a) := by
  unfold State.readAccess
  repeat' first
    | with_reducible assumption
    | with_reducible apply State.watch_keeps
    | with_reducible apply State.arrive_keeps

theorem State.loadReady_keeps (h : Keeps s₀ s) (kind : Nat) (accs : List (List Nat)) (f : State → Tab Nat → State) (hf : ∀ u0 u1, Keeps s₀ u0 → Keeps s₀ (f u0 u1)) :
    Keeps s₀ (State.loadReady s kind accs f) := by
  unfold State.loadReady
  repeat' first
    | with_reducible apply hf
    | with_reducible apply State.reach_keeps
    | split
    | (intros; assumption)
    | intro _ _ _

theorem State.loadPerform_keeps (h : Keeps s₀ s) (accs : List (List Nat)) (frames : Tab Nat) (f : State → List Byte → State) (hf : ∀ u0 u1, Keeps s₀ u0 → Keeps s₀ (f u0 u1)) :
    Keeps s₀ (State.loadPerform s accs frames f) := by
  unfold State.loadPerform
  repeat' first
    | with_reducible assumption
    | with_reducible apply hf
    | with_reducible apply Keeps.foldl
    | with_reducible apply State.readAccess_keeps
    | with_reducible apply State.updCx_keeps
    | intro _ _ _

theorem State.loadBytes_keeps (h : Keeps s₀ s) (kind : Nat) (accs : List (List Nat)) (f : State → List Byte → State) (hf : ∀ u0 u1, Keeps s₀ u0 → Keeps s₀ (f u0 u1)) :
    Keeps s₀ (State.loadBytes s kind accs f) := by
  unfold State.loadBytes
  repeat' first
    | with_reducible assumption
    | with_reducible apply State.loadReady_keeps
    | with_reducible apply State.loadPerform_keeps
    | intro _ _ _

theorem State.append_keeps (h : Keeps s₀ s) (kind : Nat) (ea : Word) (size : Nat) (data : BitVec 2048) (mask : BitVec 256) :
    Keeps s₀ (State.append s kind ea size data mask) := by
  unfold State.append
  repeat' first
    | with_reducible assumption
    | with_reducible apply State.updCore_keeps

theorem State.headPlaces_keeps (h : Keeps s₀ s) (lcn : Nat) (e : SbEntry) :
    Keeps s₀ (State.headPlaces s lcn e).2 := by
  unfold State.headPlaces
  repeat' first
    | with_reducible assumption
    | with_reducible apply State.locate_keeps
    | split

theorem State.headPlaces_pair  {lcn : Nat} {e : SbEntry} {a0 : _} {u₀ : State} (h : Keeps s₀ s)  (heq : State.headPlaces s lcn e = (a0, u₀)) :
    Keeps s₀ u₀ := by
  have g := State.headPlaces_keeps h lcn e 
  rw [heq] at g
  exact g

theorem State.keepOlds_keeps (h : Keeps s₀ s) (lcn : Nat) (pas : List Nat) :
    Keeps s₀ (State.keepOlds s lcn pas) := by
  unfold State.keepOlds
  repeat' first
    | with_reducible assumption
    | with_reducible apply State.updCoreAt_keeps

theorem State.drainHead_keeps (h : Keeps s₀ s) (lcn : Nat) (e : SbEntry) (frames : Tab Nat) :
    Keeps s₀ (State.drainHead s lcn e frames).2 := by
  unfold State.drainHead
  (try dsimp only)
  repeat' first
    | with_reducible assumption
    | with_reducible apply State.keepOlds_keeps
    | with_reducible apply State.updCoreAt_keeps
    | with_reducible apply State.performWrite_keeps
    | split

theorem State.drainHead_pair  {lcn : Nat} {e : SbEntry} {frames : Tab Nat} {a0 : _} {u₀ : State} (h : Keeps s₀ s)  (heq : State.drainHead s lcn e frames = (a0, u₀)) :
    Keeps s₀ u₀ := by
  have g := State.drainHead_keeps h lcn e frames 
  rw [heq] at g
  exact g

theorem State.drainTry_keeps (h : Keeps s₀ s) (lcn : Nat) :
    Keeps s₀ (State.drainTry s lcn).2 := by
  unfold State.drainTry
  (try dsimp only)
  repeat' first
    | with_reducible assumption
    | with_reducible refine State.headPlaces_pair ?_ (by assumption)
    | with_reducible apply State.drainHead_keeps
    | with_reducible apply State.updCoreAt_keeps
    | with_reducible apply State.postAbsent_keeps
    | split

theorem State.drainTry_pair  {lcn : Nat} {a0 : _} {u₀ : State} (h : Keeps s₀ s)  (heq : State.drainTry s lcn = (a0, u₀)) :
    Keeps s₀ u₀ := by
  have g := State.drainTry_keeps h lcn 
  rw [heq] at g
  exact g

theorem State.recordFault_keeps (h : Keeps s₀ s) (lcn : Nat) (e : SbEntry) (cause : Nat) (reason : Nat) :
    Keeps s₀ (State.recordFault s lcn e cause reason) := by
  unfold State.recordFault
  repeat' first
    | with_reducible assumption
    | with_reducible apply State.placeBytes_keeps
    | with_reducible apply State.updCoreAt_keeps
    | split

theorem State.drainFault_keeps (h : Keeps s₀ s) (lcn : Nat) (cause : Nat) (reason : Nat) :
    Keeps s₀ (State.drainFault s lcn cause reason) := by
  unfold State.drainFault
  (try dsimp only)
  repeat' first
    | with_reducible assumption
    | with_reducible apply State.updCoreAt_keeps
    | with_reducible apply State.recordFault_keeps
    | split

theorem State.drain_keeps (h : Keeps s₀ s) (lcn : Nat) :
    Keeps s₀ (State.drain s lcn) := by
  unfold State.drain
  repeat' first
    | with_reducible assumption
    | with_reducible refine State.drainTry_pair ?_ (by assumption)
    | with_reducible apply State.drainFault_keeps
    | split

theorem State.fetch_keeps (h : Keeps s₀ s) {α : Type} {P : α → Prop} (stop : State → α) (f : State → Option Word32 → α) (hstop : ∀ u0, Keeps s₀ u0 → P (stop u0)) (hf : ∀ u0 u1, Keeps s₀ u0 → P (f u0 u1)) :
    P (State.fetch s stop f) := by
  unfold State.fetch
  repeat' first
    | with_reducible assumption
    | with_reducible apply hstop
    | with_reducible apply hf
    | with_reducible apply State.reach_keeps
    | with_reducible apply State.loadFault_keeps
    | split
    | intro _ _ _

end Sys2Proof.Machine
end

