-- ==== Sys2Proof/Laws/Keeps/Operands.lean ====
section
/-!
SUPPORT. Every function of Machine/Operands.lean that answers a state keeps the focus and the canonical form of memory
(`Keeps`, Laws/Keeps.lean), and every meaning there answers a next state.
-/

namespace Sys2Proof.Machine
variable {s₀ s : State}

theorem State.putV_keeps (h : Keeps s₀ s) (d : BitVec 6) (x : VReg) :
    Keeps s₀ (State.putV s d x) := by
  unfold State.putV
  repeat' first
    | with_reducible assumption
    | with_reducible apply State.updCore_keeps

theorem State.land_keeps (h : Keeps s₀ s) (g : List (BitVec 5 × Word)) (v : List (BitVec 6 × VReg)) (flags : BitVec 5) :
    Keeps s₀ (State.land s g v flags) := by
  unfold State.land
  repeat' first
    | with_reducible apply Keeps.foldl
    | with_reducible apply State.raise_keeps
    | (intros; assumption)

theorem State.results_keeps (h : Keeps s₀ s) (lk : Nat) (g : List (BitVec 5 × Word)) (v : List (BitVec 6 × VReg)) (flags : BitVec 5) (src : optParam (Option LoadSrc) none) :
    Keeps s₀ (State.results s lk g v flags src) := by
  unfold State.results
  repeat' first
    | with_reducible assumption
    | with_reducible apply State.updCx_keeps
    | with_reducible apply State.land_keeps
    | split

end Sys2Proof.Machine
end

