-- ==== Sys2Proof/Laws/Keeps/ControlFlow.lean ====
section
/-!
SUPPORT. Every function of Machine/ControlFlow.lean that answers a state keeps the focus and the canonical form of memory
(`Keeps`, Laws/Keeps.lean), and every meaning there answers a next state.
-/

namespace Sys2Proof.Machine
variable {s₀ s : State}

theorem branch_keeps (h : Keeps s₀ s) (i : Instr) (a : BitVec 5) (b : BitVec 5) (o : BitVec 16) (cond : Word → Word → Bool) :
    OutKeeps s₀ (branch i a b o cond s) := by
  unfold branch
  repeat' first
    | with_reducible assumption
    | with_reducible apply issue_keeps
    | with_reducible apply State.jump_keeps
    | with_reducible apply State.retire_keeps
    | split
    | intro _ _

theorem execBeq_keeps (h : Keeps s₀ s) (a : BitVec 5) (b : BitVec 5) (o : BitVec 16) :
    OutKeeps s₀ (execBeq a b o s) := by
  unfold execBeq
  repeat' first
    | with_reducible assumption
    | with_reducible apply branch_keeps

theorem execBne_keeps (h : Keeps s₀ s) (a : BitVec 5) (b : BitVec 5) (o : BitVec 16) :
    OutKeeps s₀ (execBne a b o s) := by
  unfold execBne
  repeat' first
    | with_reducible assumption
    | with_reducible apply branch_keeps

theorem execBlt_keeps (h : Keeps s₀ s) (a : BitVec 5) (b : BitVec 5) (o : BitVec 16) :
    OutKeeps s₀ (execBlt a b o s) := by
  unfold execBlt
  repeat' first
    | with_reducible assumption
    | with_reducible apply branch_keeps

theorem execBge_keeps (h : Keeps s₀ s) (a : BitVec 5) (b : BitVec 5) (o : BitVec 16) :
    OutKeeps s₀ (execBge a b o s) := by
  unfold execBge
  repeat' first
    | with_reducible assumption
    | with_reducible apply branch_keeps

theorem execBltb_keeps (h : Keeps s₀ s) (a : BitVec 5) (b : BitVec 5) (o : BitVec 16) :
    OutKeeps s₀ (execBltb a b o s) := by
  unfold execBltb
  repeat' first
    | with_reducible assumption
    | with_reducible apply branch_keeps

theorem execBgeb_keeps (h : Keeps s₀ s) (a : BitVec 5) (b : BitVec 5) (o : BitVec 16) :
    OutKeeps s₀ (execBgeb a b o s) := by
  unfold execBgeb
  repeat' first
    | with_reducible assumption
    | with_reducible apply branch_keeps

theorem execJal_keeps (h : Keeps s₀ s) (o : BitVec 26) :
    OutKeeps s₀ (execJal o s) := by
  unfold execJal
  repeat' first
    | with_reducible apply issue_keeps
    | (intros; assumption)

theorem execJr_keeps (h : Keeps s₀ s) (d : BitVec 5) (a : BitVec 5) :
    OutKeeps s₀ (execJr d a s) := by
  unfold execJr
  (try dsimp only)
  repeat' first
    | with_reducible assumption
    | with_reducible apply issue_keeps
    | with_reducible apply State.trap_keeps
    | with_reducible apply State.jump_keeps
    | with_reducible apply State.setG_keeps
    | split
    | intro _ _

theorem execLoop_keeps (h : Keeps s₀ s) (k : BitVec 2) (a : BitVec 5) (l : BitVec 8) :
    OutKeeps s₀ (execLoop k a l s) := by
  unfold execLoop
  (try dsimp only)
  repeat' first
    | with_reducible assumption
    | with_reducible apply issue_keeps
    | with_reducible apply State.jump_keeps
    | with_reducible apply State.updCx_keeps
    | with_reducible apply State.retire_keeps
    | split
    | intro _ _

theorem State.bindHint_keeps (h : Keeps s₀ s) (imm : Option (BitVec 22)) (mod : Option (BitVec 6)) :
    Keeps s₀ (State.bindHint s imm mod) := by
  unfold State.bindHint
  repeat' first
    | with_reducible assumption
    | with_reducible apply State.retire_keeps
    | with_reducible apply State.updCx_keeps

theorem execHintImm_keeps (h : Keeps s₀ s) (p : BitVec 22) :
    OutKeeps s₀ (execHintImm p s) := by
  unfold execHintImm
  repeat' first
    | with_reducible apply issue_keeps
    | (intros; assumption)

theorem execHintMod_keeps (h : Keeps s₀ s) (p : BitVec 6) :
    OutKeeps s₀ (execHintMod p s) := by
  unfold execHintMod
  repeat' first
    | with_reducible apply issue_keeps
    | (intros; assumption)

theorem execHintPri_keeps (h : Keeps s₀ s) (b : BitVec 6) (n : BitVec 12) (k : BitVec 4) :
    OutKeeps s₀ (execHintPri b n k s) := by
  unfold execHintPri
  repeat' first
    | with_reducible apply issue_keeps
    | (intros; assumption)

theorem execHintPriExpiry_keeps (h : Keeps s₀ s) (lcn : Nat) (k : Nat) :
    OutKeeps s₀ (execHintPriExpiry lcn k s) := by
  unfold execHintPriExpiry
  (try dsimp only)
  repeat' first
    | with_reducible assumption
    | with_reducible apply OutKeeps.next
    | with_reducible apply State.updCoreAt_keeps
    | split

end Sys2Proof.Machine
end

