-- ==== Sys2Proof/Laws/Keeps/Tile.lean ====
section
/-!
SUPPORT. Every function of Machine/Tile.lean that answers a state keeps the focus and the canonical form of memory
(`Keeps`, Laws/Keeps.lean), and every meaning there answers a next state.
-/

namespace Sys2Proof.Machine
variable {s₀ s : State}

theorem State.locateAll_keeps (h : Keeps s₀ s) (lcn : Nat) (k : Nat) (q : Query) (y4 : List (List Nat)) (y5 : Tab Nat) :
    Keeps s₀ (State.locateAll s lcn k q y4 y5).2 := by
  induction y4 generalizing s y5 with
  | nil => exact h
  | cons eas t ih =>
    unfold State.locateAll
    have g := State.locateGranules_keeps h lcn k q (granules eas) y5
    split
    · rename_i heq
      rw [heq] at g
      exact ih g _
    · exact g

theorem State.locateAll_pair  {lcn : Nat} {k : Nat} {q : Query} {y4 : List (List Nat)} {y5 : Tab Nat} {a0 : _} {u₀ : State} (h : Keeps s₀ s)  (heq : State.locateAll s lcn k q y4 y5 = (a0, u₀)) :
    Keeps s₀ u₀ := by
  have g := State.locateAll_keeps h lcn k q y4 y5 
  rw [heq] at g
  exact g

theorem State.readOperands_keeps (h : Keeps s₀ s) (ops : List (List Nat)) (f : State → List (List Byte) → State) (hf : ∀ u0 u1, Keeps s₀ u0 → Keeps s₀ (f u0 u1)) :
    Keeps s₀ (State.readOperands s ops f) := by
  unfold State.readOperands
  (try dsimp only)
  repeat' first
    | with_reducible apply hf
    | with_reducible apply Keeps.foldl
    | with_reducible apply State.underMail_keeps
    | with_reducible refine State.locateAll_pair ?_ (by assumption)
    | with_reducible apply State.loadFault_keeps
    | with_reducible apply State.stall_keeps
    | with_reducible apply State.postAbsent_keeps
    | with_reducible apply State.performRead_keeps
    | split
    | (intros; assumption)
    | intro _ _ _
    | intro _ _

theorem State.streamLocate_keeps (h : Keeps s₀ s) (lcn : Nat) (y2 : Tab Nat) (y3 : Tab Nat) :
    Keeps s₀ (State.streamLocate s lcn y2 y3).2 := by
  induction y2 generalizing s y3 with
  | nil => exact h
  | cons e t ih =>
    obtain ⟨g, va⟩ := e
    unfold State.streamLocate
    split
    · exact State.translate_pair h (by assumption)
    · exact State.translate_pair h (by assumption)
    · split
      · exact ih (State.translate_pair h (by assumption)) _
      · exact State.translate_pair h (by assumption)

theorem State.streamLocate_pair  {lcn : Nat} {y2 : Tab Nat} {y3 : Tab Nat} {a0 : _} {u₀ : State} (h : Keeps s₀ s)  (heq : State.streamLocate s lcn y2 y3 = (a0, u₀)) :
    Keeps s₀ u₀ := by
  have g := State.streamLocate_keeps h lcn y2 y3 
  rw [heq] at g
  exact g

theorem State.streamNext_keeps (h : Keeps s₀ s) (lcn : Nat) (sm : Nat) (x : Stream) :
    Keeps s₀ (State.streamNext s lcn sm x).2 := by
  unfold State.streamNext
  (try dsimp only)
  repeat' first
    | with_reducible assumption
    | with_reducible apply Keeps.foldl
    | with_reducible refine State.streamLocate_pair ?_ (by assumption)
    | with_reducible apply State.performRead_keeps
    | with_reducible apply State.updCoreAt_keeps
    | split
    | intro _ _ _

theorem State.streamNext_pair  {lcn : Nat} {sm : Nat} {x : Stream} {a0 : _} {u₀ : State} (h : Keeps s₀ s)  (heq : State.streamNext s lcn sm x = (a0, u₀)) :
    Keeps s₀ u₀ := by
  have g := State.streamNext_keeps h lcn sm x 
  rw [heq] at g
  exact g

theorem State.updFp_keeps (h : Keeps s₀ s) (lcn : Nat) (id : Nat) (g : Fp → Fp) :
    Keeps s₀ (State.updFp s lcn id g) := by
  unfold State.updFp
  repeat' first
    | with_reducible assumption
    | with_reducible apply State.updCoreAt_keeps

theorem State.beginFp_keeps (h : Keeps s₀ s) (lcn : Nat) (f : Fp) :
    Keeps s₀ (State.beginFp s lcn f).2 := by
  unfold State.beginFp
  repeat' first
    | with_reducible assumption
    | with_reducible apply State.updFp_keeps
    | split

theorem State.beginFp_pair  {lcn : Nat} {f : Fp} {a0 : _} {u₀ : State} (h : Keeps s₀ s)  (heq : State.beginFp s lcn f = (a0, u₀)) :
    Keeps s₀ u₀ := by
  have g := State.beginFp_keeps h lcn f 
  rw [heq] at g
  exact g

theorem State.streamBegin_keeps (h : Keeps s₀ s) (lcn : Nat) (sm : Nat) :
    Keeps s₀ (State.streamBegin s lcn sm).2 := by
  unfold State.streamBegin
  repeat' first
    | with_reducible assumption
    | with_reducible apply State.beginFp_keeps
    | split

theorem State.streamBegin_pair  {lcn : Nat} {sm : Nat} {a0 : _} {u₀ : State} (h : Keeps s₀ s)  (heq : State.streamBegin s lcn sm = (a0, u₀)) :
    Keeps s₀ u₀ := by
  have g := State.streamBegin_keeps h lcn sm 
  rw [heq] at g
  exact g

theorem State.windowStore_keeps (h : Keeps s₀ s) (byEA : Nat → Option Byte) (cells : List (Nat × Byte)) :
    Keeps s₀ (State.windowStore s byEA cells) := by
  unfold State.windowStore
  (try dsimp only)
  repeat' first
    | with_reducible assumption
    | with_reducible apply State.updCx_keeps
    | with_reducible apply State.updCore_keeps
    | split

theorem State.appendStore_keeps (h : Keeps s₀ s) (kind : Nat) (ea : Word) (size : Nat) (data : BitVec 2048) (mask : BitVec 256) :
    Keeps s₀ (State.appendStore s kind ea size data mask) := by
  unfold State.appendStore
  (try dsimp only)
  repeat' first
    | with_reducible assumption
    | with_reducible apply State.append_keeps
    | with_reducible apply State.windowStore_keeps
    | split

end Sys2Proof.Machine
end

