-- ==== Sys2Proof/Laws/Keeps/SysRegs.lean ====
section
/-!
SUPPORT. Every function of Machine/SysRegs.lean that answers a state keeps the focus and the canonical form of memory
(`Keeps`, Laws/Keeps.lean), and every meaning there answers a next state.
-/

namespace Sys2Proof.Machine
variable {s₀ s : State}

theorem State.nsWrite_keeps (h : Keeps s₀ s) (lcn : Nat) (group : Bool) (v : Word) :
    Keeps s₀ (State.nsWrite s lcn group v) := by
  unfold State.nsWrite
  (try dsimp only)
  repeat' first
    | with_reducible assumption
    | with_reducible apply State.updCoreAt_keeps
    | with_reducible apply State.updTowerAt_keeps
    | split

theorem State.ringInject_keeps (h : Keeps s₀ s) (lcn : Nat) (v : Word) :
    Keeps s₀ (State.ringInject s lcn v) := by
  unfold State.ringInject
  (try dsimp only)
  repeat' first
    | with_reducible assumption
    | with_reducible apply State.updCoreAt_keeps
    | with_reducible apply State.updTowerAt_keeps
    | split

theorem State.srWrite_keeps (h : Keeps s₀ s) (lcn : Nat) (k : Nat) (n : Nat) (v : Word) (sup : Bool) :
    OptKeeps s₀ (State.srWrite s lcn k n v sup) := by
  unfold State.srWrite
  repeat' first
    | with_reducible assumption
    | with_reducible exact OptKeeps.none
    | with_reducible apply OptKeeps.some
    | with_reducible apply Keeps.foldl
    | with_reducible apply State.updCoreAt_keeps
    | with_reducible apply State.killHelper_keeps
    | with_reducible apply State.updDom_keeps
    | with_reducible apply State.updTowerAt_keeps
    | with_reducible apply State.updGang_keeps
    | with_reducible apply State.nsWrite_keeps
    | with_reducible apply State.ringInject_keeps
    | with_reducible apply State.updPartAt_keeps
    | split
    | intro _ _ _

theorem State.supWrite_keeps (h : Keeps s₀ s) (lcn : Nat) (n : Nat) (v : Word) :
    Keeps s₀ (State.supWrite s lcn n v) := by
  unfold State.supWrite
  repeat' first
    | with_reducible assumption
    | with_reducible apply OptKeeps.getD
    | with_reducible apply State.srWrite_keeps
    | split

end Sys2Proof.Machine
end

