-- ==== Sys2Proof/Laws/Keeps/Network.lean ====
section
/-!
SUPPORT. Every function of Machine/Network.lean that answers a state keeps the focus and the canonical form of memory
(`Keeps`, Laws/Keeps.lean), and every meaning there answers a next state.
-/

namespace Sys2Proof.Machine
variable {s₀ s : State}

theorem State.newLeg_keeps (h : Keeps s₀ s) (way : Route) (cls : Nat) (src : Nat) (dst : Nat) :
    Keeps s₀ (State.newLeg s way cls src dst).2 := by
  unfold State.newLeg
  repeat' first
    | with_reducible assumption
    | split
    | fail_if_no_progress with_reducible apply Keeps.same

theorem State.newLeg_pair  {way : Route} {cls : Nat} {src : Nat} {dst : Nat} {a0 : _} {u₀ : State} (h : Keeps s₀ s)  (heq : State.newLeg s way cls src dst = (a0, u₀)) :
    Keeps s₀ u₀ := by
  have g := State.newLeg_keeps h way cls src dst 
  rw [heq] at g
  exact g

theorem State.ringOut_keeps (h : Keeps s₀ s) (lcn : Nat) (yx : Bool) :
    Keeps s₀ (State.ringOut s lcn yx) := by
  unfold State.ringOut
  repeat' first
    | with_reducible assumption
    | with_reducible apply State.ringPacket_keeps

theorem State.ringIn_keeps (h : Keeps s₀ s) (lcn : Nat) (yx : Bool) :
    Keeps s₀ (State.ringIn s lcn yx) := by
  unfold State.ringIn
  repeat' first
    | with_reducible assumption
    | with_reducible apply State.ringPacket_keeps

end Sys2Proof.Machine
end

