-- ==== Sys2Proof/Laws/Keeps/LoadStore.lean ====
section
/-!
SUPPORT. Every function of Machine/LoadStore.lean that answers a state keeps the focus and the canonical form of memory
(`Keeps`, Laws/Keeps.lean), and every meaning there answers a next state.
-/

namespace Sys2Proof.Machine
variable {s₀ s : State}

theorem load_keeps (h : Keeps s₀ s) (i : Instr) (n : Nat) (signed : Bool) (d : BitVec 5) (a : BitVec 5) (l : BitVec 4) (disp : BitVec 12) :
    OutKeeps s₀ (load i n signed d a l disp s) := by
  unfold load
  (try dsimp only)
  repeat' first
    | with_reducible assumption
    | with_reducible apply issue_keeps
    | with_reducible apply State.trap_keeps
    | with_reducible apply State.loadReady_keeps
    | with_reducible apply State.loadPerform_keeps
    | with_reducible apply State.retire_keeps
    | with_reducible apply State.results_keeps
    | split
    | intro _ _ _
    | intro _ _

theorem execLdB8_keeps (h : Keeps s₀ s) (d : BitVec 5) (a : BitVec 5) (l : BitVec 4) (i : BitVec 12) :
    OutKeeps s₀ (execLdB8 d a l i s) := by
  unfold execLdB8
  repeat' first
    | with_reducible assumption
    | with_reducible apply load_keeps

theorem execLdS8_keeps (h : Keeps s₀ s) (d : BitVec 5) (a : BitVec 5) (l : BitVec 4) (i : BitVec 12) :
    OutKeeps s₀ (execLdS8 d a l i s) := by
  unfold execLdS8
  repeat' first
    | with_reducible assumption
    | with_reducible apply load_keeps

theorem execLdB16_keeps (h : Keeps s₀ s) (d : BitVec 5) (a : BitVec 5) (l : BitVec 4) (i : BitVec 12) :
    OutKeeps s₀ (execLdB16 d a l i s) := by
  unfold execLdB16
  repeat' first
    | with_reducible assumption
    | with_reducible apply load_keeps

theorem execLdS16_keeps (h : Keeps s₀ s) (d : BitVec 5) (a : BitVec 5) (l : BitVec 4) (i : BitVec 12) :
    OutKeeps s₀ (execLdS16 d a l i s) := by
  unfold execLdS16
  repeat' first
    | with_reducible assumption
    | with_reducible apply load_keeps

theorem execLdB32_keeps (h : Keeps s₀ s) (d : BitVec 5) (a : BitVec 5) (l : BitVec 4) (i : BitVec 12) :
    OutKeeps s₀ (execLdB32 d a l i s) := by
  unfold execLdB32
  repeat' first
    | with_reducible assumption
    | with_reducible apply load_keeps

theorem execLdS32_keeps (h : Keeps s₀ s) (d : BitVec 5) (a : BitVec 5) (l : BitVec 4) (i : BitVec 12) :
    OutKeeps s₀ (execLdS32 d a l i s) := by
  unfold execLdS32
  repeat' first
    | with_reducible assumption
    | with_reducible apply load_keeps

theorem execLdD_keeps (h : Keeps s₀ s) (d : BitVec 5) (a : BitVec 5) (l : BitVec 4) (i : BitVec 12) :
    OutKeeps s₀ (execLdD d a l i s) := by
  unfold execLdD
  repeat' first
    | with_reducible assumption
    | with_reducible apply load_keeps

theorem execSt_keeps (h : Keeps s₀ s) (d : BitVec 5) (a : BitVec 5) (z : BitVec 2) (i : BitVec 12) :
    OutKeeps s₀ (execSt d a z i s) := by
  unfold execSt
  (try dsimp only)
  repeat' first
    | with_reducible assumption
    | with_reducible apply issue_keeps
    | with_reducible apply State.trap_keeps
    | with_reducible apply State.retire_keeps
    | with_reducible apply State.updCx_keeps
    | with_reducible apply State.stall_keeps
    | with_reducible apply State.appendStore_keeps
    | split
    | intro _ _

theorem State.amoAt_keeps (h : Keeps s₀ s) (p : Party) (op : Nat) (n : Nat) (v : Nat) (e : Nat) (ea : Option Nat) (pa : Nat) :
    Keeps s₀ (State.amoAt s p op n v e ea pa).2 := by
  unfold State.amoAt
  (try dsimp only)
  repeat' first
    | with_reducible assumption
    | with_reducible apply State.arrive_keeps
    | with_reducible apply State.watch_keeps
    | with_reducible apply State.writeCells_keeps
    | split

theorem State.amoAt_pair  {p : Party} {op : Nat} {n : Nat} {v : Nat} {e : Nat} {ea : Option Nat} {pa : Nat} {a0 : _} {u₀ : State} (h : Keeps s₀ s)  (heq : State.amoAt s p op n v e ea pa = (a0, u₀)) :
    Keeps s₀ u₀ := by
  have g := State.amoAt_keeps h p op n v e ea pa 
  rw [heq] at g
  exact g

theorem State.proxied_keeps (h : Keeps s₀ s) (d : BitVec 5) (op : Nat) (n : Nat) (v : Word) (e : Word) (va : Nat) (pa : Nat) :
    Keeps s₀ (State.proxied s d op n v e va pa) := by
  unfold State.proxied
  dsimp only
  split
  · split
    · exact State.stall_keeps (Keeps.same (State.fresh_keeps h) _ _ _ _ _ _ _ _) _
    · exact State.stall_keeps (Keeps.same (State.nonRollbackable_keeps (State.fresh_keeps h) _ _) _ _ _ _ _ _ _ _) _
  · rename_i o _
    generalize o.st = st
    cases st with
    | answered r =>
      cases r with
      | none =>
        dsimp only
        split
        · exact State.stall_keeps h _
        · exact State.loadFault_keeps (Keeps.same h _ _ _ _ _ _ _ _) _ _ _
      | some old => exact State.retire_keeps (State.setG_keeps (Keeps.same h _ _ _ _ _ _ _ _) _ _)
    | queued => exact State.stall_keeps h _
    | sent => exact State.stall_keeps h _
    | performed r => exact State.stall_keeps h _

theorem atomic_keeps (h : Keeps s₀ s) (i : Instr) (op : Nat) (d : BitVec 5) (a : BitVec 5) (z : BitVec 1) (b : BitVec 5) :
    OutKeeps s₀ (atomic i op d a z b s) := by
  unfold atomic
  (try dsimp only)
  repeat' first
    | with_reducible apply issue_keeps
    | with_reducible apply State.trap_keeps
    | with_reducible apply State.retire_keeps
    | with_reducible apply State.setG_keeps
    | with_reducible apply State.proxied_keeps
    | with_reducible apply State.reach_keeps
    | with_reducible apply State.amoAt_keeps
    | with_reducible apply State.windowStore_keeps
    | split
    | (intros; assumption)
    | intro _ _ _
    | intro _ _

theorem execAmoadd_keeps (h : Keeps s₀ s) (d : BitVec 5) (a : BitVec 5) (z : BitVec 1) (b : BitVec 5) :
    OutKeeps s₀ (execAmoadd d a z b s) := by
  unfold execAmoadd
  repeat' first
    | with_reducible assumption
    | with_reducible apply atomic_keeps

theorem execAmoswap_keeps (h : Keeps s₀ s) (d : BitVec 5) (a : BitVec 5) (z : BitVec 1) (b : BitVec 5) :
    OutKeeps s₀ (execAmoswap d a z b s) := by
  unfold execAmoswap
  repeat' first
    | with_reducible assumption
    | with_reducible apply atomic_keeps

theorem execAmocas_keeps (h : Keeps s₀ s) (d : BitVec 5) (a : BitVec 5) (z : BitVec 1) (b : BitVec 5) :
    OutKeeps s₀ (execAmocas d a z b s) := by
  unfold execAmocas
  repeat' first
    | with_reducible assumption
    | with_reducible apply atomic_keeps

theorem execAmominS_keeps (h : Keeps s₀ s) (d : BitVec 5) (a : BitVec 5) (z : BitVec 1) (b : BitVec 5) :
    OutKeeps s₀ (execAmominS d a z b s) := by
  unfold execAmominS
  repeat' first
    | with_reducible assumption
    | with_reducible apply atomic_keeps

theorem execAmominB_keeps (h : Keeps s₀ s) (d : BitVec 5) (a : BitVec 5) (z : BitVec 1) (b : BitVec 5) :
    OutKeeps s₀ (execAmominB d a z b s) := by
  unfold execAmominB
  repeat' first
    | with_reducible assumption
    | with_reducible apply atomic_keeps

theorem execAmomaxS_keeps (h : Keeps s₀ s) (d : BitVec 5) (a : BitVec 5) (z : BitVec 1) (b : BitVec 5) :
    OutKeeps s₀ (execAmomaxS d a z b s) := by
  unfold execAmomaxS
  repeat' first
    | with_reducible assumption
    | with_reducible apply atomic_keeps

theorem execAmomaxB_keeps (h : Keeps s₀ s) (d : BitVec 5) (a : BitVec 5) (z : BitVec 1) (b : BitVec 5) :
    OutKeeps s₀ (execAmomaxB d a z b s) := by
  unfold execAmomaxB
  repeat' first
    | with_reducible assumption
    | with_reducible apply atomic_keeps

theorem State.updProxy_keeps (h : Keeps s₀ s) (id : Nat) (st : ProxySt) :
    Keeps s₀ (State.updProxy s id st) := by
  unfold State.updProxy
  repeat' first
    | with_reducible assumption
    | fail_if_no_progress with_reducible apply Keeps.same

theorem execProxyRequest_keeps (h : Keeps s₀ s) (id : Nat) :
    OutKeeps s₀ (execProxyRequest id s) := by
  unfold execProxyRequest
  repeat' first
    | with_reducible assumption
    | with_reducible apply OutKeeps.next
    | with_reducible apply State.newLeg_keeps
    | with_reducible apply State.updProxy_keeps
    | split
    | fail_if_no_progress with_reducible apply Keeps.same

theorem execProxyHomeOperation_keeps (h : Keeps s₀ s) (id : Nat) :
    OutKeeps s₀ (execProxyHomeOperation id s) := by
  unfold execProxyHomeOperation
  repeat' first
    | with_reducible assumption
    | with_reducible apply OutKeeps.next
    | with_reducible apply State.fresh_keeps
    | with_reducible apply State.updProxy_keeps
    | with_reducible apply State.amoAt_keeps
    | split

theorem execProxyResponse_keeps (h : Keeps s₀ s) (id : Nat) :
    OutKeeps s₀ (execProxyResponse id s) := by
  unfold execProxyResponse
  repeat' first
    | with_reducible assumption
    | with_reducible apply OutKeeps.next
    | with_reducible apply State.updProxy_keeps
    | split
    | fail_if_no_progress with_reducible apply Keeps.same

theorem execFence_keeps (h : Keeps s₀ s)  :
    OutKeeps s₀ (execFence s) := by
  unfold execFence
  repeat' first
    | with_reducible assumption
    | with_reducible apply issue_keeps
    | with_reducible apply State.stall_keeps
    | with_reducible apply State.retire_keeps
    | split
    | intro _ _

theorem execFenceR_keeps (h : Keeps s₀ s) (a : BitVec 5) :
    OutKeeps s₀ (execFenceR a s) := by
  unfold execFenceR
  repeat' first
    | with_reducible assumption
    | with_reducible apply issue_keeps
    | with_reducible apply State.stall_keeps
    | with_reducible apply State.retire_keeps
    | split
    | intro _ _

theorem execFenceA_keeps (h : Keeps s₀ s) (a : BitVec 5) :
    OutKeeps s₀ (execFenceA a s) := by
  unfold execFenceA
  repeat' first
    | with_reducible assumption
    | with_reducible apply issue_keeps
    | with_reducible apply State.stall_keeps
    | with_reducible apply State.retire_keeps
    | split
    | intro _ _

theorem execFenceAr_keeps (h : Keeps s₀ s) (a : BitVec 5) :
    OutKeeps s₀ (execFenceAr a s) := by
  unfold execFenceAr
  repeat' first
    | with_reducible assumption
    | with_reducible apply issue_keeps
    | with_reducible apply State.stall_keeps
    | with_reducible apply State.retire_keeps
    | split
    | intro _ _

theorem execSdrain_keeps (h : Keeps s₀ s)  :
    OutKeeps s₀ (execSdrain s) := by
  unfold execSdrain
  repeat' first
    | with_reducible assumption
    | with_reducible apply issue_keeps
    | with_reducible apply State.stall_keeps
    | with_reducible apply State.retire_keeps
    | split
    | intro _ _

theorem execStoreDrain_keeps (h : Keeps s₀ s) (lcn : Nat) :
    OutKeeps s₀ (execStoreDrain lcn s) := by
  unfold execStoreDrain
  repeat' first
    | with_reducible assumption
    | with_reducible apply OutKeeps.next
    | with_reducible apply State.drain_keeps

theorem execBelfryReply_keeps (h : Keeps s₀ s) (lcn : Nat) (slot : Nat) (seq : Nat) (kill : Bool) :
    OutKeeps s₀ (execBelfryReply lcn slot seq kill s) := by
  unfold execBelfryReply
  repeat' first
    | with_reducible assumption
    | with_reducible apply OutKeeps.next
    | with_reducible apply State.updCoreAt_keeps
    | split

theorem execPageWalk_keeps (h : Keeps s₀ s) (lcn : Nat) (va : BitVec 48) :
    OutKeeps s₀ (execPageWalk lcn va s) := by
  unfold execPageWalk
  (try dsimp only)
  repeat' first
    | with_reducible assumption
    | with_reducible apply OutKeeps.next
    | with_reducible apply State.tlbFind_keeps
    | split

theorem execLongLatencyCompletion_keeps (h : Keeps s₀ s) (lcn : Nat) (k : Nat) :
    OutKeeps s₀ (execLongLatencyCompletion lcn k s) := by
  unfold execLongLatencyCompletion
  repeat' first
    | with_reducible assumption
    | with_reducible apply OutKeeps.next
    | with_reducible apply State.at_keeps
    | with_reducible apply State.land_keeps
    | with_reducible apply State.updCx_keeps
    | split
    | intro _ _ _

end Sys2Proof.Machine
end

