-- ==== Sys2Proof/Laws/Keeps/Engines.lean ====
section
/-!
SUPPORT. Every function of Machine/Engines.lean that answers a state keeps the focus and the canonical form of memory
(`Keeps`, Laws/Keeps.lean), and every meaning there answers a next state.
-/

namespace Sys2Proof.Machine
variable {s₀ s : State}

theorem State.abortFps_keeps (h : Keeps s₀ s) (lcn : Nat) (p : Fp → Bool) :
    Keeps s₀ (State.abortFps s lcn p) := by
  unfold State.abortFps
  repeat' first
    | with_reducible assumption
    | with_reducible apply State.updCoreAt_keeps

theorem State.endTransfer_keeps (h : Keeps s₀ s) (lcn : Nat) (f : Fp) (v : Word) (fail : Option Failure) :
    Keeps s₀ (State.endTransfer s lcn f v fail) := by
  unfold State.endTransfer
  repeat' first
    | with_reducible assumption
    | with_reducible apply State.updCoreAt_keeps

theorem State.accept_keeps (h : Keeps s₀ s) (f : Fp) :
    Keeps s₀ (State.accept s f) := by
  unfold State.accept
  repeat' first
    | with_reducible assumption
    | with_reducible apply State.updCx_keeps
    | with_reducible apply State.updCore_keeps
    | with_reducible apply State.retire_keeps
    | split

theorem State.takeEntry_keeps (h : Keeps s₀ s) (f : Fp) :
    Keeps s₀ (State.takeEntry s f) := by
  unfold State.takeEntry
  repeat' first
    | with_reducible assumption
    | with_reducible apply State.stall_keeps
    | with_reducible apply State.accept_keeps
    | split

theorem State.reachPieces_keeps (h : Keeps s₀ s) (x : Side) (y2 : List (Nat × Nat)) (y3 : List (Nat × Nat)) :
    Keeps s₀ (State.reachPieces s x y2 y3).2 := by
  induction y2 generalizing s y3 with
  | nil => exact h
  | cons e t ih =>
    obtain ⟨a, n⟩ := e
    unfold State.reachPieces
    split
    · exact h
    · split
      · split
        · exact ih h _
        · exact h
      · split
        · exact State.translate_pair h (by assumption)
        · exact State.translate_pair h (by assumption)
        · split
          · exact State.translate_pair h (by assumption)
          · exact ih (State.translate_pair h (by assumption)) _

theorem State.reachPieces_pair  {x : Side} {y2 : List (Nat × Nat)} {y3 : List (Nat × Nat)} {a0 : _} {u₀ : State} (h : Keeps s₀ s)  (heq : State.reachPieces s x y2 y3 = (a0, u₀)) :
    Keeps s₀ u₀ := by
  have g := State.reachPieces_keeps h x y2 y3 
  rw [heq] at g
  exact g

theorem State.reachRange_keeps (h : Keeps s₀ s) (x : Side) (a : Word) (n : Nat) :
    Keeps s₀ (State.reachRange s x a n).2 := by
  unfold State.reachRange
  repeat' first
    | with_reducible assumption
    | with_reducible apply State.reachPieces_keeps

theorem State.reachRange_pair  {x : Side} {a : Word} {n : Nat} {a0 : _} {u₀ : State} (h : Keeps s₀ s)  (heq : State.reachRange s x a n = (a0, u₀)) :
    Keeps s₀ u₀ := by
  have g := State.reachRange_keeps h x a n 
  rw [heq] at g
  exact g

theorem State.reachBoth_keeps (h : Keeps s₀ s) (fill : Bool) (dst : Word) (src : Word) (n : Nat) :
    Keeps s₀ (State.reachBoth s fill dst src n).2 := by
  unfold State.reachBoth
  repeat' first
    | with_reducible assumption
    | with_reducible refine State.reachRange_pair ?_ (by assumption)
    | split

theorem State.reachBoth_pair  {fill : Bool} {dst : Word} {src : Word} {n : Nat} {a0 : _} {u₀ : State} (h : Keeps s₀ s)  (heq : State.reachBoth s fill dst src n = (a0, u₀)) :
    Keeps s₀ u₀ := by
  have g := State.reachBoth_keeps h fill dst src n 
  rw [heq] at g
  exact g

theorem State.copyIssue_keeps (h : Keeps s₀ s) (fill : Bool) (t : BitVec 5) (a : BitVec 5) (b : BitVec 5) :
    Keeps s₀ (State.copyIssue s fill t a b) := by
  unfold State.copyIssue
  (try dsimp only)
  repeat' first
    | with_reducible assumption
    | with_reducible apply State.trap_keeps
    | with_reducible apply State.stall_keeps
    | with_reducible apply State.accept_keeps
    | with_reducible refine State.reachBoth_pair ?_ (by assumption)
    | split

theorem execCpy_keeps (h : Keeps s₀ s) (l : BitVec 4) (t : BitVec 5) (a : BitVec 5) (b : BitVec 5) :
    OutKeeps s₀ (execCpy l t a b s) := by
  unfold execCpy
  repeat' first
    | with_reducible assumption
    | with_reducible apply issue_keeps
    | with_reducible apply State.copyIssue_keeps
    | intro _ _

theorem execFill_keeps (h : Keeps s₀ s) (l : BitVec 4) (t : BitVec 5) (a : BitVec 5) (b : BitVec 5) :
    OutKeeps s₀ (execFill l t a b s) := by
  unfold execFill
  repeat' first
    | with_reducible assumption
    | with_reducible apply issue_keeps
    | with_reducible apply State.copyIssue_keeps
    | intro _ _

theorem State.recordRead_keeps (h : Keeps s₀ s) (ea : Nat) (n : Nat) :
    Keeps s₀ (State.recordRead s ea n) := by
  unfold State.recordRead
  repeat' first
    | with_reducible assumption
    | with_reducible apply State.performRead_keeps

theorem State.reachCard_keeps (h : Keeps s₀ s) (y1 : List (Word × Word × Nat)) :
    Keeps s₀ (State.reachCard s y1).2.2.2.2 := by
  induction y1 generalizing s with
  | nil => exact h
  | cons e t ih =>
    obtain ⟨src, dst, n⟩ := e
    unfold State.reachCard
    split
    · exact h
    · split
      · exact State.reachBoth_pair h (by assumption)
      · exact ih (State.reachBoth_pair h (by assumption))

theorem State.reachCard_pair  {y1 : List (Word × Word × Nat)} {a0 : _} {a1 : _} {a2 : _} {a3 : _} {u₀ : State} (h : Keeps s₀ s)  (heq : State.reachCard s y1 = (a0, a1, a2, a3, u₀)) :
    Keeps s₀ u₀ := by
  have g := State.reachCard_keeps h y1 
  rw [heq] at g
  exact g

theorem execCpyv_keeps (h : Keeps s₀ s) (l : BitVec 4) (t : BitVec 5) (a : BitVec 5) :
    OutKeeps s₀ (execCpyv l t a s) := by
  unfold execCpyv
  (try dsimp only)
  repeat' first
    | with_reducible assumption
    | with_reducible apply issue_keeps
    | with_reducible apply State.trap_keeps
    | with_reducible apply State.stall_keeps
    | with_reducible apply State.reachCard_keeps
    | with_reducible apply State.recordRead_keeps
    | with_reducible apply State.accept_keeps
    | split
    | intro _ _

theorem execSbind_keeps (h : Keeps s₀ s) (l : BitVec 4) (k : BitVec 2) (a : BitVec 5) :
    OutKeeps s₀ (execSbind l k a s) := by
  unfold execSbind
  (try dsimp only)
  repeat' first
    | with_reducible assumption
    | with_reducible apply issue_keeps
    | with_reducible apply State.trap_keeps
    | with_reducible apply State.stall_keeps
    | with_reducible apply State.updCore_keeps
    | with_reducible apply State.recordRead_keeps
    | with_reducible apply State.accept_keeps
    | split
    | intro _ _

theorem execSunbind_keeps (h : Keeps s₀ s) (k : BitVec 2) :
    OutKeeps s₀ (execSunbind k s) := by
  unfold execSunbind
  repeat' first
    | with_reducible apply issue_keeps
    | (intros; assumption)

theorem execStreamFetch_keeps (h : Keeps s₀ s) (lcn : Nat) (sm : Nat) :
    OutKeeps s₀ (execStreamFetch lcn sm s) := by
  unfold execStreamFetch
  repeat' first
    | with_reducible assumption
    | with_reducible apply OutKeeps.next
    | with_reducible refine State.streamBegin_pair ?_ (by assumption)
    | with_reducible refine State.streamNext_pair ?_ (by assumption)
    | split

theorem State.copyBytes_keeps (h : Keeps s₀ s) (lcn : Nat) (k : Nat) (dst : Word) (src : Word) (part : Option Nat) (ds : List Nat) (ss : List Nat) :
    Keeps s₀ (State.copyBytes s lcn k dst src part ds ss) := by
  unfold State.copyBytes
  repeat' first
    | with_reducible assumption
    | with_reducible apply State.performRead_keeps
    | with_reducible apply State.performWrite_keeps

theorem State.copyRegions_keeps (h : Keeps s₀ s) (lcn : Nat) (k : Nat) (part : Option Nat) (y4 : List (Word × Word × Nat)) (y5 : List Nat) (y6 : List Nat) :
    Keeps s₀ (State.copyRegions s lcn k part y4 y5 y6) := by
  induction y4 generalizing s y5 y6 with
  | nil => exact h
  | cons e t ih =>
    unfold State.copyRegions
    dsimp only
    split
    · exact State.copyBytes_keeps h _ _ _ _ _ _ _
    · exact ih (State.copyBytes_keeps h _ _ _ _ _ _ _) _ _

theorem State.moveLocal_keeps (h : Keeps s₀ s) (lcn : Nat) (f : Fp) (part : Option Nat) :
    Keeps s₀ (State.moveLocal s lcn f part) := by
  unfold State.moveLocal
  repeat' first
    | with_reducible assumption
    | with_reducible apply State.copyBytes_keeps
    | with_reducible apply State.copyRegions_keeps
    | split

theorem State.moveBytes_keeps (h : Keeps s₀ s) (lcn : Nat) (f : Fp) :
    Keeps s₀ (State.moveBytes s lcn f) := by
  unfold State.moveBytes
  repeat' first
    | with_reducible assumption
    | with_reducible apply State.fresh_keeps
    | with_reducible apply State.updFp_keeps
    | with_reducible apply State.moveLocal_keeps
    | split

theorem execTransferEnd_keeps (h : Keeps s₀ s) (lcn : Nat) (id : Nat) :
    OutKeeps s₀ (execTransferEnd lcn id s) := by
  unfold execTransferEnd
  repeat' first
    | with_reducible assumption
    | with_reducible apply OutKeeps.next
    | with_reducible apply State.endTransfer_keeps
    | split

end Sys2Proof.Machine
end

