-- ==== Sys2Proof/Laws/Keeps/Exchange.lean ====
section
/-!
SUPPORT. Every function of Machine/Exchange.lean that answers a state keeps the focus and the canonical form of memory
(`Keeps`, Laws/Keeps.lean), and every meaning there answers a next state.
-/

namespace Sys2Proof.Machine
variable {s₀ s : State}

theorem State.remoteRange_keeps (h : Keeps s₀ s) (r : Remote) (n : Nat) (virt : Option Side) :
    Keeps s₀ (State.remoteRange s r n virt).2 := by
  unfold State.remoteRange
  repeat' first
    | with_reducible assumption
    | with_reducible refine State.reachRange_pair ?_ (by assumption)
    | split

theorem State.remoteRange_pair  {r : Remote} {n : Nat} {virt : Option Side} {a0 : _} {u₀ : State} (h : Keeps s₀ s)  (heq : State.remoteRange s r n virt = (a0, u₀)) :
    Keeps s₀ u₀ := by
  have g := State.remoteRange_keeps h r n virt 
  rw [heq] at g
  exact g

theorem State.acceptRemote_keeps (h : Keeps s₀ s) (r : Remote) (f : Fp) :
    Keeps s₀ (State.acceptRemote s r f) := by
  unfold State.acceptRemote
  repeat' first
    | with_reducible assumption
    | with_reducible apply State.nonRollbackable_keeps
    | with_reducible apply State.accept_keeps
    | split

theorem State.remoteIssue_keeps (h : Keeps s₀ s) (r : Remote) (wake : Bool) (bad : Option Word) (go : State → State) (hgo : ∀ u0, Keeps s₀ u0 → Keeps s₀ (go u0)) :
    Keeps s₀ (State.remoteIssue s r wake bad go) := by
  unfold State.remoteIssue
  repeat' first
    | with_reducible assumption
    | with_reducible apply hgo
    | with_reducible apply State.trap_keeps
    | with_reducible apply State.stall_keeps
    | split

theorem State.bulkIssue_keeps (h : Keeps s₀ s) (put : Bool) (t : BitVec 5) (a : BitVec 5) (b : BitVec 5) (o : BitVec 2) :
    Keeps s₀ (State.bulkIssue s put t a b o) := by
  unfold State.bulkIssue
  repeat' first
    | with_reducible assumption
    | with_reducible apply State.remoteIssue_keeps
    | with_reducible apply State.acceptRemote_keeps
    | with_reducible refine State.remoteRange_pair ?_ (by assumption)
    | with_reducible refine State.reachRange_pair ?_ (by assumption)
    | split
    | intro _ _

theorem execXput_keeps (h : Keeps s₀ s) (l : BitVec 4) (t : BitVec 5) (a : BitVec 5) (b : BitVec 5) (o : BitVec 2) :
    OutKeeps s₀ (execXput l t a b o s) := by
  unfold execXput
  repeat' first
    | with_reducible assumption
    | with_reducible apply issue_keeps
    | with_reducible apply State.bulkIssue_keeps
    | intro _ _

theorem execXget_keeps (h : Keeps s₀ s) (l : BitVec 4) (t : BitVec 5) (a : BitVec 5) (b : BitVec 5) (o : BitVec 2) :
    OutKeeps s₀ (execXget l t a b o s) := by
  unfold execXget
  repeat' first
    | with_reducible assumption
    | with_reducible apply issue_keeps
    | with_reducible apply State.bulkIssue_keeps
    | intro _ _

theorem State.wordIssue_keeps (h : Keeps s₀ s) (r : Remote) (n : Nat) (f : Fp) :
    Keeps s₀ (State.wordIssue s r n f) := by
  unfold State.wordIssue
  repeat' first
    | with_reducible assumption
    | with_reducible apply State.remoteIssue_keeps
    | with_reducible refine State.remoteRange_pair ?_ (by assumption)
    | with_reducible apply State.acceptRemote_keeps
    | split
    | intro _ _

theorem State.combIssue_keeps (h : Keeps s₀ s) (op : BitVec 2) (t : BitVec 5) (a : BitVec 5) (b : BitVec 5) (o : BitVec 2) (y : BitVec 2) :
    Keeps s₀ (State.combIssue s op t a b o y) := by
  unfold State.combIssue
  repeat' first
    | with_reducible assumption
    | with_reducible apply State.wordIssue_keeps

theorem execXadd_keeps (h : Keeps s₀ s) (l : BitVec 4) (t : BitVec 5) (a : BitVec 5) (b : BitVec 5) (o : BitVec 2) (y : BitVec 2) :
    OutKeeps s₀ (execXadd l t a b o y s) := by
  unfold execXadd
  repeat' first
    | with_reducible assumption
    | with_reducible apply issue_keeps
    | with_reducible apply State.combIssue_keeps
    | intro _ _

theorem execXmin_keeps (h : Keeps s₀ s) (l : BitVec 4) (t : BitVec 5) (a : BitVec 5) (b : BitVec 5) (o : BitVec 2) (y : BitVec 2) :
    OutKeeps s₀ (execXmin l t a b o y s) := by
  unfold execXmin
  repeat' first
    | with_reducible assumption
    | with_reducible apply issue_keeps
    | with_reducible apply State.combIssue_keeps
    | intro _ _

theorem execXmax_keeps (h : Keeps s₀ s) (l : BitVec 4) (t : BitVec 5) (a : BitVec 5) (b : BitVec 5) (o : BitVec 2) (y : BitVec 2) :
    OutKeeps s₀ (execXmax l t a b o y s) := by
  unfold execXmax
  repeat' first
    | with_reducible assumption
    | with_reducible apply issue_keeps
    | with_reducible apply State.combIssue_keeps
    | intro _ _

theorem execXcas_keeps (h : Keeps s₀ s) (l : BitVec 4) (t : BitVec 5) (a : BitVec 5) (b : BitVec 5) (o : BitVec 2) (y : BitVec 2) :
    OutKeeps s₀ (execXcas l t a b o y s) := by
  unfold execXcas
  repeat' first
    | with_reducible assumption
    | with_reducible apply issue_keeps
    | with_reducible apply State.wordIssue_keeps
    | intro _ _

theorem execXflag_keeps (h : Keeps s₀ s) (l : BitVec 4) (t : BitVec 5) (a : BitVec 5) (b : BitVec 5) :
    OutKeeps s₀ (execXflag l t a b s) := by
  unfold execXflag
  repeat' first
    | with_reducible assumption
    | with_reducible apply issue_keeps
    | with_reducible apply State.wordIssue_keeps
    | intro _ _

theorem execXtask_keeps (h : Keeps s₀ s) (l : BitVec 4) (t : BitVec 5) (a : BitVec 5) (b : BitVec 5) :
    OutKeeps s₀ (execXtask l t a b s) := by
  unfold execXtask
  repeat' first
    | with_reducible assumption
    | with_reducible apply issue_keeps
    | with_reducible apply State.remoteIssue_keeps
    | with_reducible refine State.remoteRange_pair ?_ (by assumption)
    | with_reducible apply State.acceptRemote_keeps
    | split
    | intro _ _

theorem State.injectPacket_keeps (h : Keeps s₀ s) (lcn : Nat) (way : Route) (cls : Nat) (dst : Nat) (n : Nat) :
    Keeps s₀ (State.injectPacket s lcn way cls dst n).2 := by
  unfold State.injectPacket
  repeat' first
    | with_reducible assumption
    | with_reducible refine State.newLeg_pair ?_ (by assumption)
    | with_reducible apply State.ringOut_keeps
    | with_reducible apply State.updCoreAt_keeps
    | split

theorem State.injectPacket_pair  {lcn : Nat} {way : Route} {cls : Nat} {dst : Nat} {n : Nat} {a0 : _} {u₀ : State} (h : Keeps s₀ s)  (heq : State.injectPacket s lcn way cls dst n = (a0, u₀)) :
    Keeps s₀ u₀ := by
  have g := State.injectPacket_keeps h lcn way cls dst n 
  rw [heq] at g
  exact g

theorem State.sendLine_keeps (h : Keeps s₀ s) (lcn : Nat) (l : CombLine) :
    Keeps s₀ (State.sendLine s lcn l) := by
  unfold State.sendLine
  (try dsimp only)
  repeat' first
    | with_reducible assumption
    | with_reducible apply State.updCoreAt_keeps
    | with_reducible apply State.lineFailed_keeps
    | with_reducible apply State.injectPacket_keeps
    | split
    | fail_if_no_progress with_reducible apply Keeps.same

theorem State.enterLine_keeps (h : Keeps s₀ s) (lcn : Nat) (r : Remote) (pa : Nat) (op : BitVec 2) (ty : BitVec 2) (v : Word) :
    Keeps s₀ (State.enterLine s lcn r pa op ty v) := by
  unfold State.enterLine
  (try dsimp only)
  repeat' first
    | with_reducible assumption
    | with_reducible apply State.updCoreAt_keeps
    | with_reducible apply State.sendLine_keeps
    | split

theorem State.sendOverlap_keeps (h : Keeps s₀ s) (lcn : Nat) (rs : List (Nat × Nat)) :
    Keeps s₀ (State.sendOverlap s lcn rs) := by
  unfold State.sendOverlap
  repeat' first
    | with_reducible assumption
    | with_reducible apply Keeps.foldl
    | with_reducible apply State.sendLine_keeps
    | intro _ _ _

theorem execXexpect_keeps (h : Keeps s₀ s) (a : BitVec 5) (k : BitVec 4) :
    OutKeeps s₀ (execXexpect a k s) := by
  unfold execXexpect
  repeat' first
    | with_reducible apply issue_keeps
    | (intros; assumption)

theorem execXwait_keeps (h : Keeps s₀ s) (k : BitVec 4) :
    OutKeeps s₀ (execXwait k s) := by
  unfold execXwait
  (try dsimp only)
  repeat' first
    | with_reducible assumption
    | with_reducible apply issue_keeps
    | with_reducible apply State.retire_keeps
    | with_reducible apply State.stall_keeps
    | split
    | intro _ _

theorem execLndWrite_keeps (h : Keeps s₀ s) (lcn : Nat) (n : Nat) (v : BitVec 64) :
    OutKeeps s₀ (execLndWrite lcn n v s) := by
  unfold execLndWrite
  repeat' first
    | with_reducible assumption
    | with_reducible apply OutKeeps.next
    | with_reducible apply State.supWrite_keeps

theorem State.landBytes_keeps (h : Keeps s₀ s) (lcn : Nat) (k : Nat) (r : Remote) (off : Nat) (counted : Option Nat) (cells : List (Nat × Byte)) :
    Keeps s₀ (State.landBytes s lcn k r off counted cells) := by
  unfold State.landBytes
  repeat' first
    | with_reducible assumption
    | with_reducible apply Keeps.foldl
    | with_reducible apply State.performWrite_keeps
    | with_reducible apply State.updCoreAt_keeps
    | split
    | intro _ _ _

theorem State.packetBytes_keeps (h : Keeps s₀ s) (lcn : Nat) (f : Fp) (src : Word) (p : Nat) :
    Keeps s₀ (State.packetBytes s lcn f src p).2 := by
  unfold State.packetBytes
  repeat' first
    | with_reducible assumption
    | with_reducible apply State.performRead_keeps

theorem State.packetBytes_pair  {lcn : Nat} {f : Fp} {src : Word} {p : Nat} {a0 : _} {u₀ : State} (h : Keeps s₀ s)  (heq : State.packetBytes s lcn f src p = (a0, u₀)) :
    Keeps s₀ u₀ := by
  have g := State.packetBytes_keeps h lcn f src p 
  rw [heq] at g
  exact g

theorem State.notePacket_keeps (h : Keeps s₀ s) (lcn : Nat) (f : Fp) (n : Nat) (p : Nat) :
    Keeps s₀ (State.notePacket s lcn f n p) := by
  unfold State.notePacket
  repeat' first
    | with_reducible assumption
    | with_reducible apply State.ringOut_keeps
    | with_reducible apply State.updCoreAt_keeps
    | split

theorem State.putPacket_keeps (h : Keeps s₀ s) (lcn : Nat) (f : Fp) (r : Remote) (p : Nat) (bs : List Byte) :
    Keeps s₀ (State.putPacket s lcn f r p bs) := by
  unfold State.putPacket
  repeat' first
    | with_reducible assumption
    | with_reducible apply State.landBytes_keeps

theorem State.getBytes_keeps (h : Keeps s₀ s) (lcn : Nat) (f : Fp) (r : Remote) (h1 : Nat) :
    Keeps s₀ (State.getBytes s lcn f r h1).2 := by
  unfold State.getBytes
  repeat' first
    | with_reducible assumption
    | with_reducible apply State.performRead_keeps

theorem State.getBytes_pair  {lcn : Nat} {f : Fp} {r : Remote} {h1 : Nat} {a0 : _} {u₀ : State} (h : Keeps s₀ s)  (heq : State.getBytes s lcn f r h1 = (a0, u₀)) :
    Keeps s₀ u₀ := by
  have g := State.getBytes_keeps h lcn f r h1 
  rw [heq] at g
  exact g

theorem State.getLand_keeps (h : Keeps s₀ s) (lcn : Nat) (f : Fp) (dst : Word) (part : Option Nat) (bs : List Byte) :
    Keeps s₀ (State.getLand s lcn f dst part bs) := by
  unfold State.getLand
  repeat' first
    | with_reducible assumption
    | with_reducible apply State.performWrite_keeps

theorem State.getPart_keeps (h : Keeps s₀ s) (lcn : Nat) (f : Fp) (r : Remote) (dst : Word) (t : Nat) :
    Keeps s₀ (State.getPart s lcn f r dst t) := by
  unfold State.getPart
  repeat' first
    | with_reducible assumption
    | with_reducible apply State.getBytes_keeps
    | with_reducible apply State.getLand_keeps

theorem State.casAt_keeps (h : Keeps s₀ s) (lcn : Nat) (f : Fp) (r : Remote) (ty : BitVec 2) (e : Word) (v : Word) :
    Keeps s₀ (State.casAt s lcn f r ty e v).2 := by
  unfold State.casAt
  repeat' first
    | with_reducible assumption
    | with_reducible apply State.amoAt_keeps
    | split

theorem State.casAt_pair  {lcn : Nat} {f : Fp} {r : Remote} {ty : BitVec 2} {e : Word} {v : Word} {a0 : _} {u₀ : State} (h : Keeps s₀ s)  (heq : State.casAt s lcn f r ty e v = (a0, u₀)) :
    Keeps s₀ u₀ := by
  have g := State.casAt_keeps h lcn f r ty e v 
  rw [heq] at g
  exact g

theorem State.taskAt_keeps (h : Keeps s₀ s) (lcn : Nat) (k : Nat) (h1 : Nat) (record : List Byte) :
    Keeps s₀ (State.taskAt s lcn k h1 record).2 := by
  unfold State.taskAt
  (try dsimp only)
  repeat' first
    | with_reducible assumption
    | with_reducible apply State.performWrite_keeps
    | with_reducible apply State.updCoreAt_keeps
    | split

theorem State.taskAt_pair  {lcn : Nat} {k : Nat} {h1 : Nat} {record : List Byte} {a0 : _} {u₀ : State} (h : Keeps s₀ s)  (heq : State.taskAt s lcn k h1 record = (a0, u₀)) :
    Keeps s₀ u₀ := by
  have g := State.taskAt_keeps h lcn k h1 record 
  rw [heq] at g
  exact g

theorem State.taskRecord_keeps (h : Keeps s₀ s) (lcn : Nat) (f : Fp) (record : Word) :
    Keeps s₀ (State.taskRecord s lcn f record).2 := by
  unfold State.taskRecord
  repeat' first
    | with_reducible assumption
    | with_reducible apply State.performRead_keeps

theorem State.taskRecord_pair  {lcn : Nat} {f : Fp} {record : Word} {a0 : _} {u₀ : State} (h : Keeps s₀ s)  (heq : State.taskRecord s lcn f record = (a0, u₀)) :
    Keeps s₀ u₀ := by
  have g := State.taskRecord_keeps h lcn f record 
  rw [heq] at g
  exact g

theorem State.injectFirst_keeps (h : Keeps s₀ s) (lcn : Nat) (f : Fp) (way : Route) (dst : Nat) :
    Keeps s₀ (State.injectFirst s lcn f way dst) := by
  unfold State.injectFirst
  repeat' first
    | with_reducible assumption
    | with_reducible apply State.newLeg_keeps
    | with_reducible apply State.injectPacket_keeps
    | with_reducible apply State.updFp_keeps
    | split

theorem State.inject_keeps (h : Keeps s₀ s) (lcn : Nat) (f : Fp) (r : Remote) :
    Keeps s₀ (State.inject s lcn f r) := by
  unfold State.inject
  (try dsimp only)
  repeat' first
    | with_reducible assumption
    | with_reducible apply State.updFp_keeps
    | with_reducible apply State.enterLine_keeps
    | with_reducible apply State.injectFirst_keeps
    | with_reducible apply State.sendOverlap_keeps
    | split

theorem execEngineTransferBegin_keeps (h : Keeps s₀ s) (lcn : Nat) (id : Nat) :
    OutKeeps s₀ (execEngineTransferBegin lcn id s) := by
  unfold execEngineTransferBegin
  repeat' first
    | with_reducible assumption
    | with_reducible apply OutKeeps.next
    | with_reducible apply State.inject_keeps
    | with_reducible apply State.updFp_keeps
    | with_reducible apply State.moveBytes_keeps
    | split

theorem State.stageLine_keeps (h : Keeps s₀ s) (l : SentLine) :
    Keeps s₀ (State.stageLine s l) := by
  unfold State.stageLine
  repeat' first
    | with_reducible assumption
    | fail_if_no_progress with_reducible apply Keeps.same

theorem State.landLine_keeps (h : Keeps s₀ s) (l : SentLine) :
    Keeps s₀ (State.landLine s l) := by
  unfold State.landLine
  (try dsimp only)
  repeat' first
    | with_reducible assumption
    | with_reducible apply State.lineFailed_keeps
    | with_reducible apply State.stageLine_keeps
    | split
    | fail_if_no_progress with_reducible apply Keeps.same

theorem State.reportError_keeps (h : Keeps s₀ s) (lcn : Nat) (k : Nat) (src : BitVec 3) (pa : Nat) :
    Keeps s₀ (State.reportError s lcn k src pa) := by
  unfold State.reportError
  repeat' first
    | with_reducible assumption
    | with_reducible apply State.updCoreAt_keeps
    | with_reducible apply State.updGang_keeps

theorem State.twinMismatch_keeps (h : Keeps s₀ s) (lcn : Nat) (k : Nat) :
    Keeps s₀ (State.twinMismatch s lcn k) := by
  unfold State.twinMismatch
  repeat' first
    | with_reducible assumption
    | with_reducible apply State.reportError_keeps
    | with_reducible apply State.updGang_keeps

theorem State.lineArrives_keeps (h : Keeps s₀ s) (l : SentLine) :
    Keeps s₀ (State.lineArrives s l) := by
  unfold State.lineArrives
  repeat' first
    | with_reducible assumption
    | with_reducible apply State.landLine_keeps
    | with_reducible apply State.twinMismatch_keeps
    | split
    | fail_if_no_progress with_reducible apply Keeps.same

theorem execCombiningLineArrival_keeps (h : Keeps s₀ s) (n : Nat) :
    OutKeeps s₀ (execCombiningLineArrival n s) := by
  unfold execCombiningLineArrival
  repeat' first
    | with_reducible assumption
    | with_reducible apply OutKeeps.next
    | with_reducible apply State.lineArrives_keeps
    | split

theorem State.linesFirst_keeps (h : Keeps s₀ s) (lcn : Nat) (rs : List (Nat × Nat)) :
    Keeps s₀ (State.linesFirst s lcn rs) := by
  unfold State.linesFirst
  repeat' first
    | with_reducible assumption
    | with_reducible apply Keeps.foldl
    | with_reducible apply State.lineArrives_keeps
    | intro _ _ _

theorem State.ringArrival_keeps (h : Keeps s₀ s) (lcn : Nat) (f : Fp) (r : Remote) :
    Keeps s₀ (State.ringArrival s lcn f r) := by
  unfold State.ringArrival
  repeat' first
    | with_reducible assumption
    | with_reducible apply State.ringIn_keeps
    | with_reducible apply State.ringOut_keeps
    | split

theorem State.inFlight_keeps (h : Keeps s₀ s) (lcn : Nat) (id : Nat) (go : State → Fp → Remote → State) (hgo : ∀ u0 u1 u2, Keeps s₀ u0 → Keeps s₀ (go u0 u1 u2)) :
    OutKeeps s₀ (State.inFlight s lcn id go) := by
  unfold State.inFlight
  repeat' first
    | with_reducible assumption
    | with_reducible apply hgo
    | with_reducible apply OutKeeps.next
    | with_reducible apply State.updFp_keeps
    | with_reducible apply State.ringArrival_keeps
    | with_reducible apply State.linesFirst_keeps
    | split

theorem State.putArrives_keeps (h : Keeps s₀ s) (lcn : Nat) (f : Fp) (r : Remote) (n : Nat) (p : Nat) (bs : List Byte) :
    Keeps s₀ (State.putArrives s lcn f r n p bs).2 := by
  unfold State.putArrives
  repeat' first
    | with_reducible assumption
    | with_reducible apply State.putPacket_keeps
    | split

theorem State.putArrives_pair  {lcn : Nat} {f : Fp} {r : Remote} {n : Nat} {p : Nat} {bs : List Byte} {a0 : _} {u₀ : State} (h : Keeps s₀ s)  (heq : State.putArrives s lcn f r n p bs = (a0, u₀)) :
    Keeps s₀ u₀ := by
  have g := State.putArrives_keeps h lcn f r n p bs 
  rw [heq] at g
  exact g

theorem execXputPacketArrival_keeps (h : Keeps s₀ s) (lcn : Nat) (id : Nat) (packet : Nat) :
    OutKeeps s₀ (execXputPacketArrival lcn id packet s) := by
  unfold execXputPacketArrival
  repeat' first
    | with_reducible assumption
    | with_reducible apply State.inFlight_keeps
    | with_reducible apply State.packetBytes_keeps
    | with_reducible apply State.notePacket_keeps
    | with_reducible apply State.putArrives_keeps
    | with_reducible apply State.updFp_keeps
    | split
    | intro _ _ _ _

theorem State.getData_keeps (h : Keeps s₀ s) (lcn : Nat) (f : Fp) (r : Remote) :
    Keeps s₀ (State.getData s lcn f r).2 := by
  unfold State.getData
  repeat' first
    | with_reducible assumption
    | with_reducible refine State.getBytes_pair ?_ (by assumption)
    | with_reducible apply State.twinMismatch_keeps
    | split

theorem State.getData_pair  {lcn : Nat} {f : Fp} {r : Remote} {a0 : _} {u₀ : State} (h : Keeps s₀ s)  (heq : State.getData s lcn f r = (a0, u₀)) :
    Keeps s₀ u₀ := by
  have g := State.getData_keeps h lcn f r 
  rw [heq] at g
  exact g

theorem execXgetRequestArrival_keeps (h : Keeps s₀ s) (lcn : Nat) (id : Nat) :
    OutKeeps s₀ (execXgetRequestArrival lcn id s) := by
  unfold execXgetRequestArrival
  repeat' first
    | with_reducible assumption
    | with_reducible apply State.inFlight_keeps
    | with_reducible apply State.fresh_keeps
    | with_reducible apply State.updFp_keeps
    | with_reducible apply State.getPart_keeps
    | with_reducible refine State.getData_pair ?_ (by assumption)
    | with_reducible apply State.getLand_keeps
    | split
    | intro _ _ _ _

theorem execXcasArrival_keeps (h : Keeps s₀ s) (lcn : Nat) (id : Nat) :
    OutKeeps s₀ (execXcasArrival lcn id s) := by
  unfold execXcasArrival
  repeat' first
    | with_reducible assumption
    | with_reducible apply State.inFlight_keeps
    | with_reducible apply State.casAt_keeps
    | with_reducible apply State.updFp_keeps
    | split
    | intro _ _ _ _

theorem execXflagArrival_keeps (h : Keeps s₀ s) (lcn : Nat) (id : Nat) :
    OutKeeps s₀ (execXflagArrival lcn id s) := by
  unfold execXflagArrival
  repeat' first
    | with_reducible assumption
    | with_reducible apply State.inFlight_keeps
    | with_reducible apply State.updFp_keeps
    | with_reducible apply State.landBytes_keeps
    | split
    | intro _ _ _ _

theorem State.taskAll_keeps (h : Keeps s₀ s) (lcn : Nat) (f : Fp) (r : Remote) (record : List Byte) :
    Keeps s₀ (State.taskAll s lcn f r record).2 := by
  unfold State.taskAll
  repeat' first
    | with_reducible assumption
    | with_reducible apply State.taskAt_keeps
    | with_reducible refine State.taskAt_pair ?_ (by assumption)
    | split

theorem State.taskAll_pair  {lcn : Nat} {f : Fp} {r : Remote} {record : List Byte} {a0 : _} {u₀ : State} (h : Keeps s₀ s)  (heq : State.taskAll s lcn f r record = (a0, u₀)) :
    Keeps s₀ u₀ := by
  have g := State.taskAll_keeps h lcn f r record 
  rw [heq] at g
  exact g

theorem execTaskArrival_keeps (h : Keeps s₀ s) (lcn : Nat) (id : Nat) :
    OutKeeps s₀ (execTaskArrival lcn id s) := by
  unfold execTaskArrival
  repeat' first
    | with_reducible assumption
    | with_reducible apply State.inFlight_keeps
    | with_reducible apply State.taskRecord_keeps
    | with_reducible apply State.taskAll_keeps
    | with_reducible apply State.updFp_keeps
    | split
    | intro _ _ _ _

theorem execRelayReinject_keeps (h : Keeps s₀ s) (lcn : Nat) (id : Nat) :
    OutKeeps s₀ (execRelayReinject lcn id s) := by
  unfold execRelayReinject
  (try dsimp only)
  repeat' first
    | with_reducible assumption
    | with_reducible apply OutKeeps.next
    | with_reducible apply State.updFp_keeps
    | with_reducible apply State.newLeg_keeps
    | split

theorem State.payloadOf_keeps (h : Keeps s₀ s) (lcn : Nat) (f : Fp) (p : Nat) :
    Keeps s₀ (State.payloadOf s lcn f p).2 := by
  unfold State.payloadOf
  repeat' first
    | with_reducible assumption
    | with_reducible apply State.packetBytes_keeps
    | with_reducible apply State.notePacket_keeps
    | with_reducible apply State.taskRecord_keeps
    | split

theorem State.payloadOf_pair  {lcn : Nat} {f : Fp} {p : Nat} {a0 : _} {u₀ : State} (h : Keeps s₀ s)  (heq : State.payloadOf s lcn f p = (a0, u₀)) :
    Keeps s₀ u₀ := by
  have g := State.payloadOf_keeps h lcn f p 
  rw [heq] at g
  exact g

theorem State.performPair_keeps (h : Keeps s₀ s) (lcn : Nat) (h1 : Nat) (f : Fp) (g : Fp) (r : Remote) (p : Nat) (bs : List Byte) :
    Keeps s₀ (State.performPair s lcn h1 f g r p bs).2 := by
  unfold State.performPair
  repeat' first
    | with_reducible assumption
    | with_reducible apply State.putArrives_keeps
    | with_reducible refine State.getData_pair ?_ (by assumption)
    | with_reducible apply State.getLand_keeps
    | with_reducible apply State.casAt_keeps
    | with_reducible apply State.landBytes_keeps
    | with_reducible apply State.taskAll_keeps
    | split

theorem State.performPair_pair  {lcn : Nat} {h1 : Nat} {f : Fp} {g : Fp} {r : Remote} {p : Nat} {bs : List Byte} {a0 : _} {u₀ : State} (h : Keeps s₀ s)  (heq : State.performPair s lcn h1 f g r p bs = (a0, u₀)) :
    Keeps s₀ u₀ := by
  have g := State.performPair_keeps h lcn h1 f g r p bs 
  rw [heq] at g
  exact g

theorem execTwinPairMatch_keeps (h : Keeps s₀ s) (lcn : Nat) (id : Nat) :
    OutKeeps s₀ (execTwinPairMatch lcn id s) := by
  unfold execTwinPairMatch
  (try dsimp only)
  repeat' first
    | with_reducible assumption
    | with_reducible apply OutKeeps.next
    | with_reducible apply State.updFp_keeps
    | with_reducible apply State.ringArrival_keeps
    | with_reducible apply State.linesFirst_keeps
    | with_reducible apply State.payloadOf_keeps
    | with_reducible apply State.performPair_keeps
    | with_reducible apply State.twinMismatch_keeps
    | split

theorem State.partTransfer_keeps (h : Keeps s₀ s) (lcn : Nat) (f : Fp) :
    Keeps s₀ (State.partTransfer s lcn f) := by
  unfold State.partTransfer
  repeat' first
    | with_reducible assumption
    | with_reducible refine State.fresh_pair ?_ (by assumption)
    | with_reducible apply State.getPart_keeps
    | with_reducible apply State.moveLocal_keeps
    | split

theorem State.endFps_keeps (h : Keeps s₀ s) (lcn : Nat) (p : Fp → Bool) :
    Keeps s₀ (State.endFps s lcn p) := by
  unfold State.endFps
  repeat' first
    | with_reducible assumption
    | with_reducible apply Keeps.foldl
    | with_reducible apply State.abortFps_keeps
    | with_reducible apply State.partTransfer_keeps
    | intro _ _ _

end Sys2Proof.Machine
end

