-- ==== Sys2Proof/Laws/Keeps/Record.lean ====
section
/-!
SUPPORT. Every function of Machine/Record.lean that answers a state keeps the focus and the canonical form of memory
(`Keeps`, Laws/Keeps.lean), and every meaning there answers a next state.
-/

namespace Sys2Proof.Machine
variable {s₀ s : State}

theorem State.writeCheckpoint_keeps (h : Keeps s₀ s) (lcn : Nat) :
    Keeps s₀ (State.writeCheckpoint s lcn) := by
  unfold State.writeCheckpoint
  (try dsimp only)
  repeat' first
    | with_reducible assumption
    | with_reducible apply State.updCoreAt_keeps
    | with_reducible apply State.putSparse_keeps
    | split

theorem State.loadDomain_keeps (h : Keeps s₀ s) (lcn : Nat) (r : List Byte) :
    Keeps s₀ (State.loadDomain s lcn r) := by
  unfold State.loadDomain
  repeat' first
    | with_reducible assumption
    | with_reducible apply State.updDom_keeps

theorem State.loadRecord_keeps (h : Keeps s₀ s) (lcn : Nat) (r : List Byte) (kept : Tab Stream) (rollback : Bool) :
    Keeps s₀ (State.loadRecord s lcn r kept rollback) := by
  unfold State.loadRecord
  repeat' first
    | with_reducible apply Keeps.foldl
    | with_reducible apply State.loadDomain_keeps
    | with_reducible apply State.updTowerAt_keeps
    | fail_if_no_progress with_reducible apply Keeps.same
    | (intros; assumption)

theorem State.loadPhasers_keeps (h : Keeps s₀ s) (lcn : Nat) (r : List Byte) (gang : Nat) (take : Bool) :
    Keeps s₀ (State.loadPhasers s lcn r gang take) := by
  unfold State.loadPhasers
  repeat' first
    | with_reducible assumption
    | with_reducible apply State.updTowerAt_keeps

end Sys2Proof.Machine
end

