-- ==== Sys2Proof/Laws/Keeps/Sync.lean ====
section
/-!
SUPPORT. Every function of Machine/Sync.lean that answers a state keeps the focus and the canonical form of memory
(`Keeps`, Laws/Keeps.lean), and every meaning there answers a next state.
-/

namespace Sys2Proof.Machine
variable {s₀ s : State}

theorem State.asTwin_keeps (h : Keeps s₀ s) (f : State → Word × State) (hf : ∀ u0, Keeps s₀ u0 → Keeps s₀ (f u0).2) :
    Keeps s₀ (State.asTwin s f).2 := by
  unfold State.asTwin
  (try dsimp only)
  repeat' first
    | with_reducible assumption
    | with_reducible apply hf
    | with_reducible apply State.updCore_keeps
    | with_reducible apply State.updCoreAt_keeps
    | split

theorem State.asTwin_pair  {f : State → Word × State} {a0 : _} {u₀ : State} (h : Keeps s₀ s) (hf : ∀ u0, Keeps s₀ u0 → Keeps s₀ (f u0).2) (heq : State.asTwin s f = (a0, u₀)) :
    Keeps s₀ u₀ := by
  have g := State.asTwin_keeps h f hf
  rw [heq] at g
  exact g

theorem State.nextIndex_keeps (h : Keeps s₀ s)  :
    Keeps s₀ (State.nextIndex s).2 := by
  unfold State.nextIndex
  (try dsimp only)
  repeat' first
    | with_reducible assumption
    | with_reducible apply State.updDom_keeps
    | split

theorem State.nextIndex_pair   {a0 : _} {u₀ : State} (h : Keeps s₀ s)  (heq : State.nextIndex s = (a0, u₀)) :
    Keeps s₀ u₀ := by
  have g := State.nextIndex_keeps h  
  rw [heq] at g
  exact g

theorem State.raiseGrid_keeps (h : Keeps s₀ s) (n : Nat) :
    Keeps s₀ (State.raiseGrid n s).2 := by
  unfold State.raiseGrid
  repeat' first
    | with_reducible assumption
    | with_reducible apply State.updDom_keeps

theorem State.raiseGrid_pair  {n : Nat} {a0 : _} {u₀ : State} (h : Keeps s₀ s)  (heq : State.raiseGrid n s = (a0, u₀)) :
    Keeps s₀ u₀ := by
  have g := State.raiseGrid_keeps h n 
  rw [heq] at g
  exact g

theorem execGnext_keeps (h : Keeps s₀ s) (d : BitVec 5) :
    OutKeeps s₀ (execGnext d s) := by
  unfold execGnext
  (try dsimp only)
  repeat' first
    | with_reducible assumption
    | with_reducible apply issue_keeps
    | with_reducible apply State.updCore_keeps
    | with_reducible apply State.retire_keeps
    | with_reducible apply State.setG_keeps
    | with_reducible apply State.asTwin_keeps
    | with_reducible apply State.nextIndex_keeps
    | split
    | intro _ _

theorem execGraise_keeps (h : Keeps s₀ s) (d : BitVec 5) (a : BitVec 5) :
    OutKeeps s₀ (execGraise d a s) := by
  unfold execGraise
  repeat' first
    | with_reducible assumption
    | with_reducible apply issue_keeps
    | with_reducible apply State.asTwin_keeps
    | with_reducible apply State.raiseGrid_keeps
    | with_reducible apply State.retire_keeps
    | with_reducible apply State.setG_keeps
    | intro _ _

theorem execGrid_keeps (h : Keeps s₀ s) (a : BitVec 5) :
    OutKeeps s₀ (execGrid a s) := by
  unfold execGrid
  repeat' first
    | with_reducible apply issue_keeps
    | (intros; assumption)

theorem execGkill_keeps (h : Keeps s₀ s)  :
    OutKeeps s₀ (execGkill s) := by
  unfold execGkill
  repeat' first
    | with_reducible assumption
    | with_reducible apply issue_keeps
    | with_reducible apply State.trapWord_keeps
    | with_reducible apply State.endFps_keeps
    | with_reducible apply State.killHelpers_keeps
    | with_reducible apply State.updCore_keeps
    | with_reducible apply State.retire_keeps
    | with_reducible apply State.updGang_keeps
    | split
    | intro _ _

theorem execHstart_keeps (h : Keeps s₀ s) (d : BitVec 5) (a : BitVec 5) (b : BitVec 5) :
    OutKeeps s₀ (execHstart d a b s) := by
  unfold execHstart
  (try dsimp only)
  repeat' first
    | with_reducible assumption
    | with_reducible apply issue_keeps
    | with_reducible apply State.trap_keeps
    | with_reducible apply State.retire_keeps
    | with_reducible apply State.setG_keeps
    | with_reducible apply State.updCore_keeps
    | split
    | intro _ _

theorem execHexit_keeps (h : Keeps s₀ s)  :
    OutKeeps s₀ (execHexit s) := by
  unfold execHexit
  repeat' first
    | with_reducible assumption
    | with_reducible apply issue_keeps
    | with_reducible apply State.stall_keeps
    | with_reducible apply State.killHelper_keeps
    | with_reducible apply State.retire_keeps
    | split
    | intro _ _

theorem execQpush_keeps (h : Keeps s₀ s) (a : BitVec 5) (q : BitVec 3) :
    OutKeeps s₀ (execQpush a q s) := by
  unfold execQpush
  (try dsimp only)
  repeat' first
    | with_reducible assumption
    | with_reducible apply issue_keeps
    | with_reducible apply State.stall_keeps
    | with_reducible apply State.trapWord_keeps
    | with_reducible apply State.retire_keeps
    | with_reducible apply State.updCore_keeps
    | split
    | intro _ _

theorem execQpop_keeps (h : Keeps s₀ s) (d : BitVec 5) (q : BitVec 3) :
    OutKeeps s₀ (execQpop d q s) := by
  unfold execQpop
  repeat' first
    | with_reducible assumption
    | with_reducible apply issue_keeps
    | with_reducible apply State.stall_keeps
    | with_reducible apply State.trapWord_keeps
    | with_reducible apply State.retire_keeps
    | with_reducible apply State.setG_keeps
    | with_reducible apply State.updCore_keeps
    | split
    | intro _ _

theorem execQueueOverflowOrUnderflow_keeps (h : Keeps s₀ s) (lcn : Nat) (k : Nat) :
    OutKeeps s₀ (execQueueOverflowOrUnderflow lcn k s) := by
  unfold execQueueOverflowOrUnderflow
  repeat' first
    | with_reducible assumption
    | with_reducible apply OutKeeps.next
    | with_reducible apply State.at_keeps
    | with_reducible apply State.trap_keeps
    | split
    | intro _ _ _

theorem State.setPhaser_keeps (h : Keeps s₀ s) (n : BitVec 5) (p : Phaser) :
    Keeps s₀ (State.setPhaser s n p) := by
  unfold State.setPhaser
  repeat' first
    | with_reducible assumption
    | with_reducible apply State.updTower_keeps

theorem State.updMember_keeps (h : Keeps s₀ s) (n : BitVec 5) (f : PhMember → PhMember) :
    Keeps s₀ (State.updMember s n f) := by
  unfold State.updMember
  repeat' first
    | with_reducible assumption
    | with_reducible apply State.setPhaser_keeps

theorem execPhreg_keeps (h : Keeps s₀ s) (b : BitVec 5) (m : BitVec 2) :
    OutKeeps s₀ (execPhreg b m s) := by
  unfold execPhreg
  (try dsimp only)
  repeat' first
    | with_reducible assumption
    | with_reducible apply issue_keeps
    | with_reducible apply State.trapWord_keeps
    | with_reducible apply State.retire_keeps
    | with_reducible apply State.setPhaser_keeps
    | split
    | intro _ _

theorem execPhdrop_keeps (h : Keeps s₀ s) (b : BitVec 5) :
    OutKeeps s₀ (execPhdrop b s) := by
  unfold execPhdrop
  repeat' first
    | with_reducible assumption
    | with_reducible apply issue_keeps
    | with_reducible apply State.trapWord_keeps
    | with_reducible apply State.retire_keeps
    | with_reducible apply State.setPhaser_keeps
    | split
    | intro _ _

theorem execPhsig_keeps (h : Keeps s₀ s) (b : BitVec 5) :
    OutKeeps s₀ (execPhsig b s) := by
  unfold execPhsig
  repeat' first
    | with_reducible assumption
    | with_reducible apply issue_keeps
    | with_reducible apply State.trapWord_keeps
    | with_reducible apply State.stall_keeps
    | with_reducible apply State.retire_keeps
    | with_reducible apply State.updMember_keeps
    | split
    | intro _ _

theorem execPhwait_keeps (h : Keeps s₀ s) (b : BitVec 5) :
    OutKeeps s₀ (execPhwait b s) := by
  unfold execPhwait
  repeat' first
    | with_reducible assumption
    | with_reducible apply issue_keeps
    | with_reducible apply State.trapWord_keeps
    | with_reducible apply State.stall_keeps
    | with_reducible apply State.retire_keeps
    | with_reducible apply State.updMember_keeps
    | split
    | intro _ _

theorem State.phnextWait_keeps (h : Keeps s₀ s) (b : BitVec 5) :
    Keeps s₀ (State.phnextWait s b) := by
  unfold State.phnextWait
  repeat' first
    | with_reducible assumption
    | with_reducible apply State.stall_keeps
    | with_reducible apply State.retire_keeps
    | with_reducible apply State.updCx_keeps
    | with_reducible apply State.updMember_keeps
    | split

theorem execPhnext_keeps (h : Keeps s₀ s) (b : BitVec 5) :
    OutKeeps s₀ (execPhnext b s) := by
  unfold execPhnext
  repeat' first
    | with_reducible assumption
    | with_reducible apply issue_keeps
    | with_reducible apply State.trapWord_keeps
    | with_reducible apply State.phnextWait_keeps
    | with_reducible apply State.stall_keeps
    | with_reducible apply State.updCx_keeps
    | with_reducible apply State.updMember_keeps
    | split
    | intro _ _

theorem State.straggle_keeps (h : Keeps s₀ s) (d : Domain) :
    Keeps s₀ (State.straggle s d) := by
  unfold State.straggle
  repeat' first
    | with_reducible apply Keeps.foldl
    | (intros; assumption)

theorem State.closeOne_keeps (h : Keeps s₀ s) (d : Domain) :
    Keeps s₀ (State.closeOne s d) := by
  unfold State.closeOne
  (try dsimp only)
  repeat' first
    | with_reducible assumption
    | with_reducible apply State.updDom_keeps
    | with_reducible apply State.straggle_keeps
    | split

theorem State.closeCompute_keeps (h : Keeps s₀ s)  :
    Keeps s₀ (State.closeCompute s) := by
  unfold State.closeCompute
  repeat' first
    | with_reducible assumption
    | with_reducible apply Keeps.foldl
    | with_reducible apply State.closeOne_keeps
    | fail_if_no_progress with_reducible apply Keeps.same
    | intro _ _ _

theorem State.flushLines_keeps (h : Keeps s₀ s)  :
    Keeps s₀ (State.flushLines s) := by
  unfold State.flushLines
  repeat' first
    | with_reducible assumption
    | with_reducible apply Keeps.foldl
    | with_reducible apply State.sendLine_keeps
    | with_reducible apply State.lineArrives_keeps
    | with_reducible apply State.twinMismatch_keeps
    | with_reducible apply State.applyHeld_keeps
    | split
    | fail_if_no_progress with_reducible apply Keeps.same
    | intro _ _ _

theorem State.overrun_keeps (h : Keeps s₀ s) (d : Domain) :
    Keeps s₀ (State.overrun s d) := by
  unfold State.overrun
  repeat' first
    | with_reducible apply Keeps.foldl
    | with_reducible apply State.updDom_keeps
    | (intros; assumption)

theorem State.endExchange_keeps (h : Keeps s₀ s) (d : Domain) :
    Keeps s₀ (State.endExchange s d) := by
  unfold State.endExchange
  repeat' first
    | with_reducible assumption
    | with_reducible apply Keeps.foldl
    | with_reducible apply State.twinMismatch_keeps
    | with_reducible apply State.endFps_keeps
    | intro _ _ _

theorem State.sendTokens_keeps (h : Keeps s₀ s)  :
    Keeps s₀ (State.sendTokens s) := by
  unfold State.sendTokens
  repeat' first
    | with_reducible assumption
    | split
    | fail_if_no_progress with_reducible apply Keeps.same

theorem State.closeExchange_keeps (h : Keeps s₀ s)  :
    Keeps s₀ (State.closeExchange s) := by
  unfold State.closeExchange
  repeat' first
    | with_reducible assumption
    | with_reducible apply Keeps.foldl
    | with_reducible apply State.flushLines_keeps
    | with_reducible apply State.endExchange_keeps
    | with_reducible apply State.overrun_keeps
    | with_reducible apply State.updCoreAt_keeps
    | with_reducible apply State.sendTokens_keeps
    | fail_if_no_progress with_reducible apply Keeps.same
    | intro _ _ _

theorem State.windowCheck_keeps (h : Keeps s₀ s)  :
    Keeps s₀ (State.windowCheck s) := by
  unfold State.windowCheck
  (try dsimp only)
  repeat' first
    | with_reducible assumption
    | with_reducible apply State.closeCompute_keeps
    | with_reducible apply State.closeExchange_keeps
    | split

theorem State.domCheck_keeps (h : Keeps s₀ s) (key : DomKey) :
    Keeps s₀ (State.domCheck s key) := by
  unfold State.domCheck
  (try dsimp only)
  repeat' first
    | with_reducible assumption
    | with_reducible apply State.updDom_keeps
    | split

theorem State.arriveStep_keeps (h : Keeps s₀ s)  :
    Keeps s₀ (State.arriveStep s) := by
  unfold State.arriveStep
  repeat' first
    | with_reducible assumption
    | with_reducible apply State.updCore_keeps
    | with_reducible apply State.windowCheck_keeps
    | with_reducible apply State.domCheck_keeps
    | with_reducible apply State.trace_keeps

theorem execStepX_keeps (h : Keeps s₀ s)  :
    OutKeeps s₀ (execStepX s) := by
  unfold execStepX
  (try dsimp only)
  repeat' first
    | with_reducible assumption
    | with_reducible apply issue_keeps
    | with_reducible apply State.updCore_keeps
    | with_reducible apply State.arriveStep_keeps
    | with_reducible apply State.retire_keeps
    | with_reducible apply State.stall_keeps
    | split
    | intro _ _

theorem execStepC_keeps (h : Keeps s₀ s)  :
    OutKeeps s₀ (execStepC s) := by
  unfold execStepC
  repeat' first
    | with_reducible assumption
    | with_reducible apply issue_keeps
    | with_reducible apply State.arriveStep_keeps
    | with_reducible apply State.retire_keeps
    | with_reducible apply State.stall_keeps
    | split
    | intro _ _

theorem State.showRecord_keeps (h : Keeps s₀ s) (key : DomKey) :
    Keeps s₀ (State.showRecord s key) := by
  unfold State.showRecord
  repeat' first
    | with_reducible assumption
    | with_reducible apply Keeps.foldl
    | with_reducible apply State.updDom_keeps
    | with_reducible apply State.trace_keeps
    | split
    | intro _ _ _

theorem State.beginExchange_keeps (h : Keeps s₀ s) (key : DomKey) :
    Keeps s₀ (State.beginExchange s key) := by
  unfold State.beginExchange
  (try dsimp only)
  repeat' first
    | with_reducible apply Keeps.foldl
    | with_reducible apply State.updDom_keeps
    | with_reducible apply State.showRecord_keeps
    | split
    | (intros; assumption)

theorem execExchangeWindowOpen_keeps (h : Keeps s₀ s)  :
    OutKeeps s₀ (execExchangeWindowOpen s) := by
  unfold execExchangeWindowOpen
  repeat' first
    | with_reducible assumption
    | with_reducible apply OutKeeps.next
    | with_reducible apply Keeps.foldl
    | with_reducible apply State.windowCheck_keeps
    | with_reducible apply State.beginExchange_keeps
    | split
    | fail_if_no_progress with_reducible apply Keeps.same
    | intro _ _ _

theorem State.nextGrid_keeps (h : Keeps s₀ s) (d : Domain) :
    Keeps s₀ (State.nextGrid s d).2 := by
  unfold State.nextGrid
  (try dsimp only)
  repeat' first
    | with_reducible apply Keeps.foldl
    | split
    | (intros; assumption)

theorem State.nextGrid_pair  {d : Domain} {a0 : _} {u₀ : State} (h : Keeps s₀ s)  (heq : State.nextGrid s d = (a0, u₀)) :
    Keeps s₀ u₀ := by
  have g := State.nextGrid_keeps h d 
  rw [heq] at g
  exact g

theorem State.finishExchange_keeps (h : Keeps s₀ s) (key : DomKey) :
    Keeps s₀ (State.finishExchange s key) := by
  unfold State.finishExchange
  repeat' first
    | with_reducible apply Keeps.foldl
    | with_reducible apply State.nextGrid_keeps
    | with_reducible apply State.updGang_keeps
    | with_reducible apply State.updDom_keeps
    | split
    | (intros; assumption)

theorem State.newPolicy_keeps (h : Keeps s₀ s) (lcn : Nat) :
    Keeps s₀ (State.newPolicy s lcn) := by
  unfold State.newPolicy
  (try dsimp only)
  repeat' first
    | with_reducible assumption
    | with_reducible apply State.updPartAt_keeps
    | split
    | fail_if_no_progress with_reducible apply Keeps.same

theorem State.latchCounted_keeps (h : Keeps s₀ s) (lcn : Nat) :
    Keeps s₀ (State.latchCounted s lcn) := by
  unfold State.latchCounted
  repeat' first
    | with_reducible assumption
    | with_reducible apply State.updCoreAt_keeps

theorem State.startCore_keeps (h : Keeps s₀ s) (lcn : Nat) :
    Keeps s₀ (State.startCore s lcn) := by
  unfold State.startCore
  (try dsimp only)
  repeat' first
    | with_reducible assumption
    | with_reducible apply State.updCoreAt_keeps
    | with_reducible apply State.updTowerAt_keeps
    | with_reducible apply State.newPolicy_keeps
    | with_reducible apply State.latchCounted_keeps
    | split

theorem State.settleNrg_keeps (h : Keeps s₀ s) (gang : Nat) :
    Keeps s₀ (State.settleNrg s gang) := by
  unfold State.settleNrg
  repeat' first
    | with_reducible assumption
    | with_reducible apply State.updGang_keeps
    | split

theorem State.beginCompute_keeps (h : Keeps s₀ s) (key : DomKey) :
    Keeps s₀ (State.beginCompute s key) := by
  unfold State.beginCompute
  repeat' first
    | with_reducible assumption
    | with_reducible apply Keeps.foldl
    | with_reducible apply State.startCore_keeps
    | with_reducible apply State.updDom_keeps
    | with_reducible apply State.showRecord_keeps
    | with_reducible apply State.settleNrg_keeps
    | with_reducible apply State.writeCheckpoint_keeps
    | intro _ _ _

theorem State.beginDone_keeps (h : Keeps s₀ s)  :
    Keeps s₀ (State.beginDone s) := by
  unfold State.beginDone
  repeat' first
    | with_reducible assumption
    | with_reducible apply Keeps.foldl
    | with_reducible apply State.beginCompute_keeps
    | intro _ _ _

theorem State.haltCore_keeps (h : Keeps s₀ s) (lcn : Nat) (dbgs : Word) (st : Stop) (addr : Option Nat) (skids : List Nat) :
    Keeps s₀ (State.haltCore s lcn dbgs st addr skids) := by
  unfold State.haltCore
  repeat' first
    | with_reducible assumption
    | with_reducible apply State.updCoreAt_keeps
    | with_reducible apply State.trace_keeps

theorem State.takePreempt_keeps (h : Keeps s₀ s) (key : DomKey) :
    Keeps s₀ (State.takePreempt s key) := by
  unfold State.takePreempt
  repeat' first
    | with_reducible assumption
    | with_reducible apply Keeps.foldl
    | with_reducible apply State.updGang_keeps
    | with_reducible apply State.writeCheckpoint_keeps
    | with_reducible apply State.updCoreAt_keeps
    | intro _ _ _

theorem State.takePrecise_keeps (h : Keeps s₀ s) (key : DomKey) (due : List Nat) :
    Keeps s₀ (State.takePrecise s key due) := by
  unfold State.takePrecise
  repeat' first
    | with_reducible assumption
    | with_reducible apply Keeps.foldl
    | with_reducible apply State.updCoreAt_keeps
    | with_reducible apply State.haltCore_keeps
    | with_reducible apply State.updDom_keeps
    | intro _ _ _

theorem State.passBarrier_keeps (h : Keeps s₀ s) (key : DomKey) :
    Keeps s₀ (State.passBarrier s key) := by
  unfold State.passBarrier
  (try dsimp only)
  repeat' first
    | with_reducible assumption
    | with_reducible apply State.finishExchange_keeps
    | with_reducible apply State.takePreempt_keeps
    | with_reducible apply State.takePrecise_keeps
    | split

theorem State.updSite_keeps (h : Keeps s₀ s) (n : Nat) (f : Site → Site) :
    Keeps s₀ (State.updSite s n f) := by
  unfold State.updSite
  repeat' first
    | with_reducible assumption
    | fail_if_no_progress with_reducible apply Keeps.same

theorem State.decideBond_keeps (h : Keeps s₀ s) (n : Nat) (side : Nat) (up : Bool) (t : Nat) :
    Keeps s₀ (State.decideBond s n side up t) := by
  unfold State.decideBond
  repeat' first
    | with_reducible assumption
    | with_reducible apply State.updSite_keeps
    | split

theorem State.dropBonds_keeps (h : Keeps s₀ s) (n : Nat) (all : Bool) (t : Nat) :
    Keeps s₀ (State.dropBonds s n all t) := by
  unfold State.dropBonds
  repeat' first
    | with_reducible assumption
    | with_reducible apply Keeps.foldl
    | with_reducible apply State.decideBond_keeps
    | split
    | intro _ _ _

theorem State.facing_keeps (h : Keeps s₀ s) (n : Nat) (t : Nat) :
    Keeps s₀ (State.facing s n t) := by
  unfold State.facing
  repeat' first
    | with_reducible assumption
    | with_reducible apply Keeps.foldl
    | with_reducible apply State.decideBond_keeps
    | split
    | intro _ _ _

theorem State.changeSite_keeps (h : Keeps s₀ s) (c : SiteChange) :
    Keeps s₀ (State.changeSite s c) := by
  unfold State.changeSite
  (try dsimp only)
  repeat' first
    | with_reducible assumption
    | with_reducible apply State.updSite_keeps
    | with_reducible apply State.dropBonds_keeps
    | with_reducible apply State.facing_keeps
    | split

theorem State.applyMap_keeps (h : Keeps s₀ s)  :
    Keeps s₀ (State.applyMap s) := by
  unfold State.applyMap
  repeat' first
    | with_reducible assumption
    | with_reducible apply Keeps.foldl
    | with_reducible apply State.changeSite_keeps
    | with_reducible apply State.emptyTower_keeps
    | split
    | fail_if_no_progress with_reducible apply Keeps.same
    | intro _ _ _

theorem State.useTokens_keeps (h : Keeps s₀ s)  :
    Keeps s₀ (State.useTokens s) := by
  unfold State.useTokens
  repeat' first
    | with_reducible assumption
    | fail_if_no_progress with_reducible apply Keeps.same

theorem execComputeWindowOpen_keeps (h : Keeps s₀ s)  :
    OutKeeps s₀ (execComputeWindowOpen s) := by
  unfold execComputeWindowOpen
  repeat' first
    | with_reducible assumption
    | with_reducible apply OutKeeps.next
    | with_reducible apply Keeps.foldl
    | with_reducible apply State.applyMap_keeps
    | with_reducible apply State.useTokens_keeps
    | with_reducible apply State.passBarrier_keeps
    | with_reducible apply State.updDom_keeps
    | with_reducible apply State.windowCheck_keeps
    | with_reducible apply State.beginDone_keeps
    | split
    | fail_if_no_progress with_reducible apply Keeps.same
    | intro _ _ _

theorem execComputeBudgetSpent_keeps (h : Keeps s₀ s) (dom : DomKey) :
    OutKeeps s₀ (execComputeBudgetSpent dom s) := by
  unfold execComputeBudgetSpent
  (try dsimp only)
  repeat' first
    | with_reducible assumption
    | with_reducible apply OutKeeps.next
    | with_reducible apply State.windowCheck_keeps
    | with_reducible apply State.updDom_keeps
    | split

theorem execExchangeBudgetSpent_keeps (h : Keeps s₀ s) (dom : DomKey) :
    OutKeeps s₀ (execExchangeBudgetSpent dom s) := by
  unfold execExchangeBudgetSpent
  (try dsimp only)
  repeat' first
    | with_reducible assumption
    | with_reducible apply OutKeeps.next
    | with_reducible apply State.windowCheck_keeps
    | with_reducible apply State.updDom_keeps
    | split

theorem execDrectWrite_keeps (h : Keeps s₀ s) (lcn : Nat) (level : Nat) (v : BitVec 64) :
    OutKeeps s₀ (execDrectWrite lcn level v s) := by
  unfold execDrectWrite
  repeat' first
    | with_reducible assumption
    | with_reducible apply OutKeeps.next
    | with_reducible apply State.supWrite_keeps
    | split

theorem execDmemWrite_keeps (h : Keeps s₀ s) (lcn : Nat) (v : BitVec 64) :
    OutKeeps s₀ (execDmemWrite lcn v s) := by
  unfold execDmemWrite
  repeat' first
    | with_reducible assumption
    | with_reducible apply OutKeeps.next
    | with_reducible apply State.supWrite_keeps

end Sys2Proof.Machine
end

