-- ==== Sys2Proof/Laws/Keeps/Traps.lean ====
section
/-!
SUPPORT. Every function of Machine/Traps.lean that answers a state keeps the focus and the canonical form of memory
(`Keeps`, Laws/Keeps.lean), and every meaning there answers a next state.
-/

namespace Sys2Proof.Machine
variable {s₀ s : State}

theorem execTrapEntry_keeps (h : Keeps s₀ s) (lcn : Nat) (cause : BitVec 8) (info : BitVec 64) (imp : Bool) :
    OutKeeps s₀ (execTrapEntry lcn cause info imp s) := by
  unfold execTrapEntry
  (try dsimp only)
  repeat' first
    | with_reducible assumption
    | with_reducible apply OutKeeps.next
    | with_reducible apply State.trapAt_keeps
    | split

theorem State.storeInfo_keeps (h : Keeps s₀ s) (lcn : Nat) (t : StoreTrap) :
    Keeps s₀ (State.storeInfo s lcn t).2 := by
  unfold State.storeInfo
  (try dsimp only)
  repeat' first
    | with_reducible assumption
    | with_reducible apply State.updCoreAt_keeps
    | with_reducible apply State.fresh_keeps
    | split

theorem State.storeInfo_pair  {lcn : Nat} {t : StoreTrap} {a0 : _} {u₀ : State} (h : Keeps s₀ s)  (heq : State.storeInfo s lcn t = (a0, u₀)) :
    Keeps s₀ u₀ := by
  have g := State.storeInfo_keeps h lcn t 
  rw [heq] at g
  exact g

theorem State.takeStore_keeps (h : Keeps s₀ s) (lcn : Nat) (t : StoreTrap) :
    Keeps s₀ (State.takeStore s lcn t) := by
  unfold State.takeStore
  repeat' first
    | with_reducible assumption
    | with_reducible apply State.storeInfo_keeps
    | with_reducible apply State.trapAt_keeps

theorem execImpreciseTrapTaken_keeps (h : Keeps s₀ s) (lcn : Nat) :
    OutKeeps s₀ (execImpreciseTrapTaken lcn s) := by
  unfold execImpreciseTrapTaken
  (try dsimp only)
  repeat' first
    | with_reducible assumption
    | with_reducible apply OutKeeps.next
    | with_reducible apply State.updCoreAt_keeps
    | with_reducible apply State.trapAt_keeps
    | with_reducible apply State.takeStore_keeps
    | split

theorem execHelperTrapEntry_keeps (h : Keeps s₀ s) (lcn : Nat) :
    OutKeeps s₀ (execHelperTrapEntry lcn s) := by
  unfold execHelperTrapEntry
  (try dsimp only)
  repeat' first
    | with_reducible assumption
    | with_reducible apply OutKeeps.next
    | with_reducible apply State.updCoreAt_keeps
    | with_reducible apply State.enterControl_keeps
    | split

theorem State.forsake_keeps (h : Keeps s₀ s) (lcn : Nat) :
    Keeps s₀ (State.forsake s lcn) := by
  unfold State.forsake
  repeat' first
    | with_reducible assumption
    | fail_if_no_progress with_reducible apply Keeps.same

theorem State.stopCore_keeps (h : Keeps s₀ s) (lcn : Nat) :
    Keeps s₀ (State.stopCore s lcn) := by
  unfold State.stopCore
  repeat' first
    | with_reducible assumption
    | with_reducible apply State.updCoreAt_keeps
    | with_reducible apply State.forsake_keeps
    | with_reducible apply State.killHelpers_keeps

theorem State.settleCore_keeps (h : Keeps s₀ s) (lcn : Nat) :
    Keeps s₀ (State.settleCore s lcn) := by
  unfold State.settleCore
  repeat' first
    | with_reducible assumption
    | with_reducible apply State.windowCheck_keeps
    | with_reducible apply State.domCheck_keeps

theorem State.emptyStores_keeps (h : Keeps s₀ s) (lcn : Nat) (y2 : Nat) :
    Keeps s₀ (State.emptyStores s lcn y2) := by
  induction y2 generalizing s with
  | zero => exact h
  | succ n ih =>
    unfold State.emptyStores
    dsimp only
    split
    · exact State.updCoreAt_keeps h _ _
    · split
      · exact h
      · split
        · exact ih (State.updCoreAt_keeps h _ _)
        · split
          · exact ih (State.updCoreAt_keeps (State.headPlaces_pair h (by assumption)) _ _)
          · exact State.drainFault_keeps (State.headPlaces_pair h (by assumption)) _ _ _
          · split
            · exact ih (State.drainHead_pair (State.headPlaces_pair h (by assumption)) (by assumption))
            · exact State.drainHead_pair (State.headPlaces_pair h (by assumption)) (by assumption)

theorem State.endCore_keeps (h : Keeps s₀ s) (lcn : Nat) :
    Keeps s₀ (State.endCore s lcn) := by
  unfold State.endCore
  repeat' first
    | with_reducible assumption
    | with_reducible apply State.stopCore_keeps
    | with_reducible apply State.emptyStores_keeps
    | with_reducible apply State.updCoreAt_keeps

theorem State.finishHalt_keeps (h : Keeps s₀ s)  :
    Keeps s₀ (State.finishHalt s) := by
  unfold State.finishHalt
  repeat' first
    | with_reducible assumption
    | with_reducible apply State.updCore_keeps
    | with_reducible apply State.retire_keeps
    | with_reducible apply State.settleCore_keeps
    | with_reducible apply State.postBelfry_keeps
    | with_reducible apply State.stopCore_keeps

theorem State.haltStep_keeps (h : Keeps s₀ s) (final : Bool) :
    Keeps s₀ (State.haltStep s final) := by
  unfold State.haltStep
  (try dsimp only)
  repeat' first
    | with_reducible assumption
    | with_reducible apply State.stall_keeps
    | with_reducible apply State.finishHalt_keeps
    | split

theorem execHalt_keeps (h : Keeps s₀ s)  :
    OutKeeps s₀ (execHalt s) := by
  unfold execHalt
  repeat' first
    | with_reducible assumption
    | with_reducible apply issue_keeps
    | with_reducible apply State.haltStep_keeps
    | intro _ _

theorem execRett_keeps (h : Keeps s₀ s)  :
    OutKeeps s₀ (execRett s) := by
  unfold execRett
  repeat' first
    | with_reducible assumption
    | with_reducible apply issue_keeps
    | with_reducible apply State.haltStep_keeps
    | with_reducible apply State.stall_keeps
    | with_reducible apply State.updCore_keeps
    | split
    | intro _ _

theorem execCallsv_keeps (h : Keeps s₀ s) (n : BitVec 16) :
    OutKeeps s₀ (execCallsv n s) := by
  unfold execCallsv
  repeat' first
    | with_reducible assumption
    | with_reducible apply issue_keeps
    | with_reducible apply State.trapNext_keeps
    | intro _ _

theorem execCoreReset_keeps (h : Keeps s₀ s) (lcn : Nat) :
    OutKeeps s₀ (execCoreReset lcn s) := by
  unfold execCoreReset
  repeat' first
    | with_reducible assumption
    | with_reducible apply OutKeeps.next
    | with_reducible apply State.forsake_keeps
    | with_reducible apply State.killHelpers_keeps
    | with_reducible apply State.updCoreAt_keeps
    | with_reducible apply State.updTowerAt_keeps
    | with_reducible apply State.settleCore_keeps
    | split

theorem execHelperKill_keeps (h : Keeps s₀ s) (lcn : Nat) (h1 : Nat) :
    OutKeeps s₀ (execHelperKill lcn h1 s) := by
  unfold execHelperKill
  repeat' first
    | with_reducible assumption
    | with_reducible apply OutKeeps.next
    | with_reducible apply State.killHelper_keeps

end Sys2Proof.Machine
end

