-- ==== Sys2Proof/Laws/Keeps/Translation.lean ====
section
/-!
SUPPORT. Every function of Machine/Translation.lean that answers a state keeps the focus and the canonical form of memory
(`Keeps`, Laws/Keeps.lean), and every meaning there answers a next state.
-/

namespace Sys2Proof.Machine
variable {s₀ s : State}

theorem State.dropEntries_keeps (h : Keeps s₀ s) (d : Drop) :
    Keeps s₀ (State.dropEntries s d) := by
  unfold State.dropEntries
  repeat' first
    | with_reducible assumption
    | fail_if_no_progress with_reducible apply Keeps.same

theorem State.flushWait_keeps (h : Keeps s₀ s) (f : Flush) :
    Keeps s₀ (State.flushWait s f) := by
  unfold State.flushWait
  repeat' first
    | with_reducible assumption
    | with_reducible apply State.stall_keeps
    | with_reducible apply State.retire_keeps
    | split
    | fail_if_no_progress with_reducible apply Keeps.same

theorem State.flushBegin_keeps (h : Keeps s₀ s) (d : Drop) (retired : Option (BitVec 10)) :
    Keeps s₀ (State.flushBegin s d retired) := by
  unfold State.flushBegin
  repeat' first
    | with_reducible assumption
    | with_reducible apply State.dropEntries_keeps
    | with_reducible apply State.flushWait_keeps
    | fail_if_no_progress with_reducible apply Keeps.same

theorem tlbinv_keeps (h : Keeps s₀ s) (i : Instr) (d : State → Option Drop) :
    OutKeeps s₀ (tlbinv i d s) := by
  unfold tlbinv
  repeat' first
    | with_reducible assumption
    | with_reducible apply issue_keeps
    | with_reducible apply State.flushWait_keeps
    | with_reducible apply State.stall_keeps
    | with_reducible apply State.flushBegin_keeps
    | with_reducible apply State.retire_keeps
    | split
    | intro _ _

theorem execTlbinvVa_keeps (h : Keeps s₀ s) (a : BitVec 5) (b : BitVec 5) :
    OutKeeps s₀ (execTlbinvVa a b s) := by
  unfold execTlbinvVa
  repeat' first
    | with_reducible assumption
    | with_reducible apply tlbinv_keeps

theorem execTlbinvAsid_keeps (h : Keeps s₀ s) (b : BitVec 5) :
    OutKeeps s₀ (execTlbinvAsid b s) := by
  unfold execTlbinvAsid
  repeat' first
    | with_reducible assumption
    | with_reducible apply tlbinv_keeps

theorem execTlbinvPart_keeps (h : Keeps s₀ s)  :
    OutKeeps s₀ (execTlbinvPart s) := by
  unfold execTlbinvPart
  repeat' first
    | with_reducible assumption
    | with_reducible apply tlbinv_keeps

theorem State.unbindAsid_keeps (h : Keeps s₀ s) (part : Nat) (n : BitVec 10) :
    Keeps s₀ (State.unbindAsid s part n) := by
  unfold State.unbindAsid
  repeat' first
    | with_reducible assumption
    | fail_if_no_progress with_reducible apply Keeps.same

theorem execTlbretire_keeps (h : Keeps s₀ s) (a : BitVec 5) :
    OutKeeps s₀ (execTlbretire a s) := by
  unfold execTlbretire
  (try dsimp only)
  repeat' first
    | with_reducible assumption
    | with_reducible apply issue_keeps
    | with_reducible apply State.flushWait_keeps
    | with_reducible apply State.stall_keeps
    | with_reducible apply State.flushBegin_keeps
    | with_reducible apply State.unbindAsid_keeps
    | split
    | intro _ _

theorem execXlatWrite_keeps (h : Keeps s₀ s) (lcn : Nat) (v : BitVec 64) :
    OutKeeps s₀ (execXlatWrite lcn v s) := by
  unfold execXlatWrite
  repeat' first
    | with_reducible assumption
    | with_reducible apply OutKeeps.next
    | with_reducible apply State.supWrite_keeps
    | split

theorem execPspaceWrite_keeps (h : Keeps s₀ s) (lcn : Nat) (v : BitVec 64) :
    OutKeeps s₀ (execPspaceWrite lcn v s) := by
  unfold execPspaceWrite
  repeat' first
    | with_reducible assumption
    | with_reducible apply OutKeeps.next
    | with_reducible apply State.supWrite_keeps

theorem execSfqPop_keeps (h : Keeps s₀ s) (lcn : Nat) :
    OutKeeps s₀ (execSfqPop lcn s) := by
  unfold execSfqPop
  repeat' first
    | with_reducible assumption
    | with_reducible apply OutKeeps.next
    | with_reducible apply State.supWrite_keeps

theorem execSbstHoldClear_keeps (h : Keeps s₀ s) (lcn : Nat) :
    OutKeeps s₀ (execSbstHoldClear lcn s) := by
  unfold execSbstHoldClear
  repeat' first
    | with_reducible assumption
    | with_reducible apply OutKeeps.next
    | with_reducible apply State.supWrite_keeps

theorem execMigrationStart_keeps (h : Keeps s₀ s) (mig : Nat) (part : Nat) (asid : BitVec 10) (leaf : BitVec 56) (frame : BitVec 38) :
    OutKeeps s₀ (execMigrationStart mig part asid leaf frame s) := by
  unfold execMigrationStart
  (try dsimp only)
  repeat' first
    | with_reducible assumption
    | with_reducible apply OutKeeps.next
    | split
    | fail_if_no_progress with_reducible apply Keeps.same

theorem execMigrationLineCopy_keeps (h : Keeps s₀ s) (mig : Nat) :
    OutKeeps s₀ (execMigrationLineCopy mig s) := by
  unfold execMigrationLineCopy
  repeat' first
    | with_reducible assumption
    | with_reducible apply OutKeeps.next
    | with_reducible apply State.placeBytes_keeps
    | split
    | fail_if_no_progress with_reducible apply Keeps.same

theorem execMigrationRemove_keeps (h : Keeps s₀ s) (mig : Nat) :
    OutKeeps s₀ (execMigrationRemove mig s) := by
  unfold execMigrationRemove
  repeat' first
    | with_reducible assumption
    | with_reducible apply OutKeeps.next
    | with_reducible apply State.placeBytes_keeps
    | split
    | fail_if_no_progress with_reducible apply Keeps.same

end Sys2Proof.Machine
end

