-- ==== Sys2Proof/Laws/Keeps/Flags.lean ====
section
/-!
SUPPORT. Every function of Machine/Flags.lean that answers a state keeps the focus and the canonical form of memory
(`Keeps`, Laws/Keeps.lean), and every meaning there answers a next state.
-/

namespace Sys2Proof.Machine
variable {s₀ s : State}

theorem State.unlessTrapped_keeps (h : Keeps s₀ s) (f : BitVec 5) (go : State → State) (hgo : ∀ u0, Keeps s₀ u0 → Keeps s₀ (go u0)) :
    Keeps s₀ (State.unlessTrapped s f go) := by
  unfold State.unlessTrapped
  repeat' first
    | with_reducible assumption
    | with_reducible apply hgo
    | with_reducible apply State.trap_keeps
    | split

theorem State.flushFlags_keeps (h : Keeps s₀ s) (lcn : Nat) :
    Keeps s₀ (State.flushFlags s lcn) := by
  unfold State.flushFlags
  repeat' first
    | with_reducible assumption
    | with_reducible apply State.updTowerAt_keeps
    | with_reducible apply State.updCoreAt_keeps

end Sys2Proof.Machine
end

