-- ==== Sys2Proof/Laws/Keeps/System.lean ====
section
/-!
SUPPORT. Every function of Machine/System.lean that answers a state keeps the focus and the canonical form of memory
(`Keeps`, Laws/Keeps.lean), and every meaning there answers a next state.
-/

namespace Sys2Proof.Machine
variable {s₀ s : State}

theorem State.srRefused_keeps (h : Keeps s₀ s) (i : Instr) (f : SrFail) :
    Keeps s₀ (State.srRefused s i f) := by
  unfold State.srRefused
  repeat' first
    | with_reducible assumption
    | with_reducible apply State.trapWord_keeps
    | split

theorem State.shown_keeps (h : Keeps s₀ s) (n : Nat) :
    Keeps s₀ (State.shown s n) := by
  unfold State.shown
  repeat' first
    | with_reducible assumption
    | split
    | fail_if_no_progress with_reducible apply Keeps.same

theorem execGets_keeps (h : Keeps s₀ s) (d : BitVec 5) (n : BitVec 12) :
    OutKeeps s₀ (execGets d n s) := by
  unfold execGets
  (try dsimp only)
  repeat' first
    | with_reducible assumption
    | with_reducible apply issue_keeps
    | with_reducible apply State.srRefused_keeps
    | with_reducible apply State.stall_keeps
    | with_reducible apply State.retire_keeps
    | with_reducible apply State.setG_keeps
    | with_reducible apply State.shown_keeps
    | split
    | intro _ _

theorem execSets_keeps (h : Keeps s₀ s) (d : BitVec 5) (n : BitVec 12) :
    OutKeeps s₀ (execSets d n s) := by
  unfold execSets
  (try dsimp only)
  repeat' first
    | with_reducible assumption
    | with_reducible apply OptKeeps.getD
    | with_reducible apply issue_keeps
    | with_reducible apply State.srRefused_keeps
    | with_reducible apply State.stall_keeps
    | with_reducible refine OptKeeps.get (State.srWrite_keeps ?_ _ _ _ _ _) (by assumption)
    | with_reducible apply State.retire_keeps
    | with_reducible apply State.trapWord_keeps
    | split
    | intro _ _

theorem execCapmint_keeps (h : Keeps s₀ s) (d : BitVec 5) (a : BitVec 5) :
    OutKeeps s₀ (execCapmint d a s) := by
  unfold execCapmint
  (try dsimp only)
  repeat' first
    | with_reducible assumption
    | with_reducible apply issue_keeps
    | with_reducible apply State.trap_keeps
    | with_reducible apply State.retire_keeps
    | with_reducible apply State.setG_keeps
    | split
    | intro _ _

theorem execFlaguUpdate_keeps (h : Keeps s₀ s) (lcn : Nat) :
    OutKeeps s₀ (execFlaguUpdate lcn s) := by
  unfold execFlaguUpdate
  repeat' first
    | with_reducible assumption
    | with_reducible apply OutKeeps.next
    | with_reducible apply State.flushFlags_keeps

end Sys2Proof.Machine
end

