-- ==== Sys2Proof/Laws/Keeps/Debug.lean ====
section
/-!
SUPPORT. Every function of Machine/Debug.lean that answers a state keeps the focus and the canonical form of memory
(`Keeps`, Laws/Keeps.lean), and every meaning there answers a next state.
-/

namespace Sys2Proof.Machine
variable {s₀ s : State}

theorem State.broadcast_keeps (h : Keeps s₀ s) (targets : List Nat) (scope : Nat) (tlcn : Nat) (ss : Option Word) :
    Keeps s₀ (State.broadcast s targets scope tlcn ss) := by
  unfold State.broadcast
  (try dsimp only)
  repeat' first
    | with_reducible assumption
    | with_reducible apply Keeps.foldl
    | with_reducible apply State.setCoreAt_keeps
    | split
    | intro _ _ _

theorem State.stopBy_keeps (h : Keeps s₀ s) (lcn : Nat) (t : Trigger) :
    Keeps s₀ (State.stopBy s lcn t) := by
  unfold State.stopBy
  repeat' first
    | with_reducible assumption
    | with_reducible apply State.broadcast_keeps

theorem execStopTrigger_keeps (h : Keeps s₀ s) (lcn : Nat) :
    OutKeeps s₀ (execStopTrigger lcn s) := by
  unfold execStopTrigger
  repeat' first
    | with_reducible assumption
    | with_reducible apply OutKeeps.next
    | with_reducible apply State.updCoreAt_keeps
    | with_reducible apply State.stopBy_keeps
    | split

theorem State.park_keeps (h : Keeps s₀ s) (key : DomKey) :
    Keeps s₀ (State.park s key) := by
  unfold State.park
  repeat' first
    | with_reducible assumption
    | with_reducible apply State.windowCheck_keeps
    | with_reducible apply State.updDom_keeps
    | split

theorem execDebugHalt_keeps (h : Keeps s₀ s) (lcn : Nat) :
    OutKeeps s₀ (execDebugHalt lcn s) := by
  unfold execDebugHalt
  (try dsimp only)
  repeat' first
    | with_reducible assumption
    | with_reducible apply OutKeeps.next
    | with_reducible apply State.haltCore_keeps
    | with_reducible apply State.park_keeps
    | split

theorem State.freeCore_keeps (h : Keeps s₀ s) (lcn : Nat) :
    Keeps s₀ (State.freeCore s lcn) := by
  unfold State.freeCore
  repeat' first
    | with_reducible assumption
    | with_reducible apply State.updCoreAt_keeps

theorem State.unpark_keeps (h : Keeps s₀ s) (key : DomKey) :
    Keeps s₀ (State.unpark s key) := by
  unfold State.unpark
  (try dsimp only)
  repeat' first
    | with_reducible assumption
    | with_reducible apply State.updDom_keeps
    | split

theorem State.resumeCores_keeps (h : Keeps s₀ s) (cores : List Nat) :
    Keeps s₀ (State.resumeCores s cores) := by
  unfold State.resumeCores
  repeat' first
    | with_reducible assumption
    | with_reducible apply Keeps.foldl
    | with_reducible apply State.freeCore_keeps
    | with_reducible apply State.windowCheck_keeps
    | with_reducible apply State.unpark_keeps
    | intro _ _ _

theorem State.resume_keeps (h : Keeps s₀ s) (lcn : Nat) :
    Keeps s₀ (State.resume s lcn) := by
  unfold State.resume
  (try dsimp only)
  repeat' first
    | with_reducible assumption
    | with_reducible apply State.resumeCores_keeps
    | split

theorem execResume_keeps (h : Keeps s₀ s) (lcn : Nat) :
    OutKeeps s₀ (execResume lcn s) := by
  unfold execResume
  repeat' first
    | with_reducible assumption
    | with_reducible apply OutKeeps.next
    | with_reducible apply State.resume_keeps

theorem execStopDomainRequest_keeps (h : Keeps s₀ s) (lcn : Nat) :
    OutKeeps s₀ (execStopDomainRequest lcn s) := by
  unfold execStopDomainRequest
  repeat' first
    | with_reducible assumption
    | with_reducible apply OutKeeps.next
    | with_reducible apply State.supWrite_keeps

theorem execStopGangRequest_keeps (h : Keeps s₀ s) (lcn : Nat) :
    OutKeeps s₀ (execStopGangRequest lcn s) := by
  unfold execStopGangRequest
  repeat' first
    | with_reducible assumption
    | with_reducible apply OutKeeps.next
    | with_reducible apply State.supWrite_keeps

theorem execPreciseStopRequest_keeps (h : Keeps s₀ s) (lcn : Nat) (on : Bool) :
    OutKeeps s₀ (execPreciseStopRequest lcn on s) := by
  unfold execPreciseStopRequest
  repeat' first
    | with_reducible assumption
    | with_reducible apply OutKeeps.next
    | with_reducible apply State.supWrite_keeps

theorem execModuleStop_keeps (h : Keeps s₀ s)  :
    OutKeeps s₀ (execModuleStop s) := by
  unfold execModuleStop
  repeat' first
    | with_reducible assumption
    | with_reducible apply OutKeeps.next
    | with_reducible apply State.broadcast_keeps
    | split
    | fail_if_no_progress with_reducible apply Keeps.same

theorem execModuleStopEnd_keeps (h : Keeps s₀ s)  :
    OutKeeps s₀ (execModuleStopEnd s) := by
  unfold execModuleStopEnd
  repeat' first
    | with_reducible assumption
    | with_reducible apply OutKeeps.next
    | with_reducible apply State.resumeCores_keeps
    | split
    | fail_if_no_progress with_reducible apply Keeps.same

theorem State.stepCore_keeps (h : Keeps s₀ s) (lcn : Nat) :
    Keeps s₀ (State.stepCore s lcn) := by
  unfold State.stepCore
  (try dsimp only)
  repeat' first
    | with_reducible assumption
    | with_reducible apply State.setCoreAt_keeps
    | split

theorem execSingleStep_keeps (h : Keeps s₀ s) (lcn : Nat) (smsk : BitVec 11) (scnt : BitVec 16) :
    OutKeeps s₀ (execSingleStep lcn smsk scnt s) := by
  unfold execSingleStep
  repeat' first
    | with_reducible assumption
    | with_reducible apply OutKeeps.next
    | with_reducible apply State.stepCore_keeps
    | with_reducible apply State.supWrite_keeps

theorem execStepEnd_keeps (h : Keeps s₀ s) (lcn : Nat) :
    OutKeeps s₀ (execStepEnd lcn s) := by
  unfold execStepEnd
  (try dsimp only)
  repeat' first
    | with_reducible assumption
    | with_reducible apply OutKeeps.next
    | with_reducible apply State.haltCore_keeps
    | with_reducible apply State.stopBy_keeps
    | split

theorem State.answer_keeps (h : Keeps s₀ s) (status : Nat) (bytes : Tab Byte) :
    Keeps s₀ (State.answer s status bytes) := by
  unfold State.answer
  repeat' first
    | with_reducible assumption
    | fail_if_no_progress with_reducible apply Keeps.same

theorem execRegisterWrite_keeps (h : Keeps s₀ s) (lcn : Nat) (k : Nat) (num : BitVec 12) (v : BitVec 64) (who : PortAccess) :
    OutKeeps s₀ (execRegisterWrite lcn k num v who s) := by
  unfold execRegisterWrite
  (try dsimp only)
  repeat' first
    | with_reducible assumption
    | with_reducible apply OutKeeps.next
    | with_reducible apply State.answer_keeps
    | with_reducible refine OptKeeps.get (State.srWrite_keeps ?_ _ _ _ _ _) (by assumption)
    | with_reducible apply State.resume_keeps
    | with_reducible apply State.stepCore_keeps
    | split

theorem execPreemptRequest_keeps (h : Keeps s₀ s) (lcn : Nat) (v : BitVec 64) :
    OutKeeps s₀ (execPreemptRequest lcn v s) := by
  unfold execPreemptRequest
  repeat' first
    | with_reducible assumption
    | with_reducible apply OutKeeps.next
    | with_reducible apply State.supWrite_keeps

theorem State.portRecord_keeps (h : Keeps s₀ s) (who : PortAccess) (lcn : Nat) :
    Keeps s₀ (State.portRecord s who lcn) := by
  unfold State.portRecord
  repeat' first
    | with_reducible assumption
    | with_reducible apply State.answer_keeps
    | split

theorem State.answerWord_keeps (h : Keeps s₀ s) (w : Word) :
    Keeps s₀ (State.answerWord s w) := by
  unfold State.answerWord
  repeat' first
    | with_reducible assumption
    | with_reducible apply State.answer_keeps

theorem State.portRegister_keeps (h : Keeps s₀ s) (who : PortAccess) (lcn : Nat) (k : Nat) (n : Nat) :
    Keeps s₀ (State.portRegister s who lcn k n) := by
  unfold State.portRegister
  repeat' first
    | with_reducible assumption
    | with_reducible apply State.answer_keeps
    | with_reducible apply State.answerWord_keeps
    | split
    | fail_if_no_progress with_reducible apply Keeps.same

theorem State.portSite_keeps (h : Keeps s₀ s) (who : PortAccess) (n : Nat) (num : Nat) :
    Keeps s₀ (State.portSite s who n num) := by
  unfold State.portSite
  repeat' first
    | with_reducible assumption
    | with_reducible apply State.answer_keeps
    | with_reducible apply State.answerWord_keeps
    | split
    | fail_if_no_progress with_reducible apply Keeps.same

theorem execDump_keeps (h : Keeps s₀ s) (lcn : Nat) (read : PortRead) :
    OutKeeps s₀ (execDump lcn read s) := by
  unfold execDump
  repeat' first
    | with_reducible assumption
    | with_reducible apply OutKeeps.next
    | with_reducible apply State.portRecord_keeps
    | with_reducible apply State.portRegister_keeps
    | with_reducible apply State.portSite_keeps
    | split

theorem State.tracePlace_keeps (h : Keeps s₀ s) (lcn : Nat) (i : Nat) :
    Keeps s₀ (State.tracePlace s lcn i).2 := by
  unfold State.tracePlace
  (try dsimp only)
  repeat' first
    | with_reducible assumption
    | with_reducible refine State.translate_pair ?_ (by assumption)
    | split

theorem State.tracePlace_pair  {lcn : Nat} {i : Nat} {a0 : _} {u₀ : State} (h : Keeps s₀ s)  (heq : State.tracePlace s lcn i = (a0, u₀)) :
    Keeps s₀ u₀ := by
  have g := State.tracePlace_keeps h lcn i 
  rw [heq] at g
  exact g

theorem State.tryRecord_keeps (h : Keeps s₀ s) (lcn : Nat) (r : List Byte) :
    Keeps s₀ (State.tryRecord s lcn r).2 := by
  unfold State.tryRecord
  (try dsimp only)
  repeat' first
    | with_reducible assumption
    | with_reducible refine State.tracePlace_pair ?_ (by assumption)
    | with_reducible apply State.updCoreAt_keeps
    | with_reducible apply State.placeBytes_keeps
    | split

theorem State.tryRecord_pair  {lcn : Nat} {r : List Byte} {a0 : _} {u₀ : State} (h : Keeps s₀ s)  (heq : State.tryRecord s lcn r = (a0, u₀)) :
    Keeps s₀ u₀ := by
  have g := State.tryRecord_keeps h lcn r 
  rw [heq] at g
  exact g

theorem State.putRecord_keeps (h : Keeps s₀ s) (lcn : Nat) (r : List Byte) :
    Keeps s₀ (State.putRecord s lcn r) := by
  unfold State.putRecord
  repeat' first
    | with_reducible assumption
    | with_reducible refine State.tryRecord_pair ?_ (by assumption)
    | with_reducible apply State.updCoreAt_keeps
    | split

theorem State.writeRecord_keeps (h : Keeps s₀ s) (lcn : Nat) (r : List Byte) :
    Keeps s₀ (State.writeRecord s lcn r) := by
  unfold State.writeRecord
  (try dsimp only)
  repeat' first
    | with_reducible assumption
    | with_reducible refine State.tryRecord_pair ?_ (by assumption)
    | with_reducible apply State.putRecord_keeps
    | with_reducible apply State.updCoreAt_keeps
    | split

theorem State.flushTrace_keeps (h : Keeps s₀ s) (lcn : Nat) :
    Keeps s₀ (State.flushTrace s lcn) := by
  unfold State.flushTrace
  repeat' first
    | with_reducible assumption
    | with_reducible apply Keeps.foldl
    | with_reducible apply State.updCoreAt_keeps
    | with_reducible apply State.writeRecord_keeps
    | intro _ _ _

theorem State.flushTraces_keeps (h : Keeps s₀ s)  :
    Keeps s₀ (State.flushTraces s) := by
  unfold State.flushTraces
  repeat' first
    | with_reducible assumption
    | with_reducible apply Keeps.foldl
    | with_reducible apply State.flushTrace_keeps
    | intro _ _ _

theorem execCounterSample_keeps (h : Keeps s₀ s) (lcn : Nat) :
    OutKeeps s₀ (execCounterSample lcn s) := by
  unfold execCounterSample
  repeat' first
    | with_reducible assumption
    | with_reducible apply OutKeeps.next
    | with_reducible apply State.updCoreAt_keeps
    | with_reducible apply State.flushTrace_keeps
    | with_reducible apply State.trace_keeps
    | split

end Sys2Proof.Machine
end

