-- ==== Sys2Proof/Laws/Keeps/Fabric.lean ====
section
/-!
SUPPORT. Every function of Machine/Fabric.lean that answers a state keeps the focus and the canonical form of memory
(`Keeps`, Laws/Keeps.lean), and every meaning there answers a next state.
-/

namespace Sys2Proof.Machine
variable {s₀ s : State}

theorem State.bringUp_keeps (h : Keeps s₀ s) (n : Nat) (bs : Nat) (f : State → Nat → State) (hf : ∀ u0 u1, Keeps s₀ u0 → Keeps s₀ (f u0 u1)) :
    OutKeeps s₀ (State.bringUp s n bs f) := by
  unfold State.bringUp
  repeat' first
    | with_reducible assumption
    | with_reducible apply hf
    | with_reducible apply OutKeeps.next
    | split
    | fail_if_no_progress with_reducible apply Keeps.same

theorem State.sendWave_keeps (h : Keeps s₀ s) (n : Nat) (t : Nat) (side : Nat) (turret : Nat) :
    Keeps s₀ (State.sendWave s n t side turret) := by
  unfold State.sendWave
  repeat' first
    | with_reducible assumption
    | with_reducible apply State.updSite_keeps
    | split

theorem execTurretSeedStart_keeps (h : Keeps s₀ s) (turret : Nat) :
    OutKeeps s₀ (execTurretSeedStart turret s) := by
  unfold execTurretSeedStart
  repeat' first
    | with_reducible assumption
    | with_reducible apply OutKeeps.next
    | with_reducible apply Keeps.foldl
    | with_reducible apply State.sendWave_keeps
    | intro _ _ _

theorem execWavefrontArrival_keeps (h : Keeps s₀ s) (site : Nat) :
    OutKeeps s₀ (execWavefrontArrival site s) := by
  unfold execWavefrontArrival
  (try dsimp only)
  repeat' first
    | with_reducible assumption
    | with_reducible apply State.bringUp_keeps
    | with_reducible apply State.updSite_keeps
    | split
    | intro _ _ _

theorem State.failSite_keeps (h : Keeps s₀ s) (n : Nat) (t : Nat) :
    Keeps s₀ (State.failSite s n t) := by
  unfold State.failSite
  repeat' first
    | with_reducible assumption
    | with_reducible apply State.dropBonds_keeps
    | with_reducible apply State.updSite_keeps

theorem execClockLock_keeps (h : Keeps s₀ s) (site : Nat) (ok : Bool) :
    OutKeeps s₀ (execClockLock site ok s) := by
  unfold execClockLock
  repeat' first
    | with_reducible assumption
    | with_reducible apply Keeps.foldl
    | with_reducible apply State.bringUp_keeps
    | with_reducible apply State.failSite_keeps
    | with_reducible apply State.sendWave_keeps
    | with_reducible apply State.updSite_keeps
    | split
    | intro _ _ _

theorem execConfigurationArrival_keeps (h : Keeps s₀ s) (site : Nat) :
    OutKeeps s₀ (execConfigurationArrival site s) := by
  unfold execConfigurationArrival
  repeat' first
    | with_reducible apply State.bringUp_keeps
    | (intros; assumption)

theorem execSelfTestEnd_keeps (h : Keeps s₀ s) (site : Nat) (ok : Bool) :
    OutKeeps s₀ (execSelfTestEnd site ok s) := by
  unfold execSelfTestEnd
  (try dsimp only)
  repeat' first
    | with_reducible assumption
    | with_reducible apply State.bringUp_keeps
    | with_reducible apply State.failSite_keeps
    | with_reducible apply State.updSite_keeps
    | with_reducible apply State.emptyTower_keeps
    | split
    | intro _ _ _

theorem execBondDecision_keeps (h : Keeps s₀ s) (site : Nat) (side : Nat) (ok : Bool) :
    OutKeeps s₀ (execBondDecision site side ok s) := by
  unfold execBondDecision
  (try dsimp only)
  repeat' first
    | with_reducible assumption
    | with_reducible apply OutKeeps.next
    | with_reducible apply State.bringUp_keeps
    | with_reducible apply State.decideBond_keeps
    | split
    | intro _ _ _

theorem execBondTimeout_keeps (h : Keeps s₀ s) (site : Nat) (side : Nat) :
    OutKeeps s₀ (execBondTimeout site side s) := by
  unfold execBondTimeout
  (try dsimp only)
  repeat' first
    | with_reducible assumption
    | with_reducible apply OutKeeps.next
    | with_reducible apply State.bringUp_keeps
    | with_reducible apply State.decideBond_keeps
    | split
    | intro _ _ _

theorem execEnterLinked_keeps (h : Keeps s₀ s) (site : Nat) :
    OutKeeps s₀ (execEnterLinked site s) := by
  unfold execEnterLinked
  repeat' first
    | with_reducible assumption
    | with_reducible apply OutKeeps.next
    | with_reducible apply State.bringUp_keeps
    | with_reducible apply State.failSite_keeps
    | with_reducible apply State.updSite_keeps
    | split
    | intro _ _ _

theorem State.bootLayout_keeps (h : Keeps s₀ s)  :
    Keeps s₀ (State.bootLayout s) := by
  unfold State.bootLayout
  repeat' first
    | with_reducible assumption
    | split
    | fail_if_no_progress with_reducible apply Keeps.same

theorem execEnterServingReduced_keeps (h : Keeps s₀ s) (site : Nat) :
    OutKeeps s₀ (execEnterServingReduced site s) := by
  unfold execEnterServingReduced
  repeat' first
    | with_reducible assumption
    | with_reducible apply State.bringUp_keeps
    | with_reducible apply State.bootLayout_keeps
    | with_reducible apply State.updSite_keeps
    | intro _ _ _

theorem execFullServiceDecision_keeps (h : Keeps s₀ s)  :
    OutKeeps s₀ (execFullServiceDecision s) := by
  unfold execFullServiceDecision
  repeat' first
    | with_reducible assumption
    | with_reducible apply OutKeeps.next
    | split
    | fail_if_no_progress with_reducible apply Keeps.same

theorem execFullServiceRaise_keeps (h : Keeps s₀ s)  :
    OutKeeps s₀ (execFullServiceRaise s) := by
  unfold execFullServiceRaise
  repeat' first
    | with_reducible assumption
    | with_reducible apply OutKeeps.next
    | split
    | fail_if_no_progress with_reducible apply Keeps.same

theorem execModuleReset_keeps (h : Keeps s₀ s)  :
    OutKeeps s₀ (execModuleReset s) := by
  unfold execModuleReset
  repeat' first
    | with_reducible assumption
    | with_reducible apply OutKeeps.next
    | with_reducible apply Keeps.foldl
    | with_reducible apply State.dropBonds_keeps
    | split
    | fail_if_no_progress with_reducible apply Keeps.same
    | intro _ _ _

theorem State.formed_keeps (h : Keeps s₀ s)  :
    Keeps s₀ (State.formed s) := by
  unfold State.formed
  repeat' first
    | with_reducible apply Keeps.foldl
    | (intros; assumption)

theorem execMapGenerationIssue_keeps (h : Keeps s₀ s) (changes : List SiteChange) :
    OutKeeps s₀ (execMapGenerationIssue changes s) := by
  unfold execMapGenerationIssue
  repeat' first
    | with_reducible assumption
    | with_reducible apply OutKeeps.next
    | split
    | fail_if_no_progress with_reducible apply Keeps.same

theorem State.postFatal_keeps (h : Keeps s₀ s) (src : Nat) (pa : Nat) (lcn : Nat) :
    Keeps s₀ (State.postFatal s src pa lcn) := by
  unfold State.postFatal
  repeat' first
    | with_reducible assumption
    | with_reducible apply State.postCause_keeps

theorem State.failSave_keeps (h : Keeps s₀ s) (id : Nat) (err : BitVec 4) :
    Keeps s₀ (State.failSave s id err) := by
  unfold State.failSave
  repeat' first
    | with_reducible assumption
    | with_reducible apply State.updGang_keeps
    | with_reducible apply State.windowCheck_keeps
    | with_reducible apply State.updDom_keeps

theorem State.loseTower_keeps (h : Keeps s₀ s) (tower : Nat) (g : Gang) :
    Keeps s₀ (State.loseTower s tower g) := by
  unfold State.loseTower
  repeat' first
    | with_reducible apply Keeps.foldl
    | with_reducible apply State.updGang_keeps
    | with_reducible apply State.failSave_keeps
    | split
    | (intros; assumption)

theorem execTowerRetire_keeps (h : Keeps s₀ s) (tower : Nat) :
    OutKeeps s₀ (execTowerRetire tower s) := by
  unfold execTowerRetire
  split
  · exact OutKeeps.next h
  · split
    · exact OutKeeps.next h
    · refine OutKeeps.next (Keeps.foldl (fun _ l hu => State.settleCore_keeps hu l) _ ?_)
      refine Keeps.foldl (fun _ g hu => State.loseTower_keeps hu tower g) _ (Keeps.same (Keeps.same ?_ _ _ _ _ _ _ _ _) _ _ _ _ _ _ _ _)
      refine State.updSite_keeps ?_ _ _
      exact Keeps.foldl (fun _ l hu => State.updCoreAt_keeps (State.stopCore_keeps hu l) _ _) _ h

theorem execTestPackage_keeps (h : Keeps s₀ s) (pkg : TestPackage) :
    OutKeeps s₀ (execTestPackage pkg s) := by
  unfold execTestPackage
  repeat' first
    | with_reducible assumption
    | with_reducible apply OutKeeps.next
    | with_reducible apply State.updSite_keeps
    | with_reducible apply State.answer_keeps
    | split

theorem execNsvalWrite_keeps (h : Keeps s₀ s) (lcn : Nat) (group : Bool) (v : BitVec 64) :
    OutKeeps s₀ (execNsvalWrite lcn group v s) := by
  unfold execNsvalWrite
  repeat' first
    | with_reducible assumption
    | with_reducible apply OutKeeps.next
    | with_reducible apply OptKeeps.getD
    | with_reducible apply State.srWrite_keeps
    | split

theorem execRingTestInject_keeps (h : Keeps s₀ s) (lcn : Nat) (v : BitVec 64) :
    OutKeeps s₀ (execRingTestInject lcn v s) := by
  unfold execRingTestInject
  repeat' first
    | with_reducible assumption
    | with_reducible apply OutKeeps.next
    | with_reducible apply State.supWrite_keeps

theorem execRingTestFlitDelivery_keeps (h : Keeps s₀ s) (lcn : Nat) :
    OutKeeps s₀ (execRingTestFlitDelivery lcn s) := by
  unfold execRingTestFlitDelivery
  (try dsimp only)
  repeat' first
    | with_reducible assumption
    | with_reducible apply OutKeeps.next
    | with_reducible apply State.updCoreAt_keeps
    | with_reducible apply State.updTowerAt_keeps
    | split

theorem execPowerCapSet_keeps (h : Keeps s₀ s) (watts : Nat) :
    OutKeeps s₀ (execPowerCapSet watts s) := by
  unfold execPowerCapSet
  repeat' first
    | with_reducible assumption
    | with_reducible apply OutKeeps.next
    | fail_if_no_progress with_reducible apply Keeps.same

theorem execRateLowering_keeps (h : Keeps s₀ s) (lcn : Nat) (rate : BitVec 24) :
    OutKeeps s₀ (execRateLowering lcn rate s) := by
  unfold execRateLowering
  repeat' first
    | with_reducible assumption
    | with_reducible apply OutKeeps.next
    | with_reducible apply State.updCoreAt_keeps
    | split

theorem execThermalThrottle_keeps (h : Keeps s₀ s) (tower : Nat) (hot : Bool) (rate : BitVec 24) :
    OutKeeps s₀ (execThermalThrottle tower hot rate s) := by
  unfold execThermalThrottle
  repeat' first
    | with_reducible apply OutKeeps.next
    | with_reducible apply Keeps.foldl
    | (intros; assumption)

theorem execModuleLinkDown_keeps (h : Keeps s₀ s) (module : Nat) :
    OutKeeps s₀ (execModuleLinkDown module s) := by
  unfold execModuleLinkDown
  repeat' first
    | with_reducible assumption
    | with_reducible apply OutKeeps.next
    | with_reducible apply State.sendTokens_keeps
    | split
    | fail_if_no_progress with_reducible apply Keeps.same

theorem execWindowGroupToken_keeps (h : Keeps s₀ s) (round : Nat) :
    OutKeeps s₀ (execWindowGroupToken round s) := by
  unfold execWindowGroupToken
  repeat' first
    | with_reducible assumption
    | with_reducible apply OutKeeps.next
    | with_reducible apply State.sendTokens_keeps
    | split
    | fail_if_no_progress with_reducible apply Keeps.same

theorem execGroupMemberRemove_keeps (h : Keeps s₀ s) (gsz : Nat) (gpos : Nat) :
    OutKeeps s₀ (execGroupMemberRemove gsz gpos s) := by
  unfold execGroupMemberRemove
  (try dsimp only)
  repeat' first
    | with_reducible assumption
    | with_reducible apply OutKeeps.next
    | split
    | fail_if_no_progress with_reducible apply Keeps.same

theorem execLinkWindowSetup_keeps (h : Keeps s₀ s) (part : Nat) (module : Nat) (base : BitVec 52) (len : Nat) :
    OutKeeps s₀ (execLinkWindowSetup part module base len s) := by
  unfold execLinkWindowSetup
  repeat' first
    | with_reducible assumption
    | with_reducible apply OutKeeps.next
    | split
    | fail_if_no_progress with_reducible apply Keeps.same

end Sys2Proof.Machine
end

