-- ==== Sys2Proof/Laws/Keeps/Vector.lean ====
section
/-!
SUPPORT. Every function of Machine/Vector.lean that answers a state keeps the focus and the canonical form of memory
(`Keeps`, Laws/Keeps.lean), and every meaning there answers a next state.
-/

namespace Sys2Proof.Machine
variable {s₀ s : State}

theorem State.pop_keeps (h : Keeps s₀ s) (x : BitVec 6) :
    Keeps s₀ (State.pop s x) := by
  unfold State.pop
  repeat' first
    | with_reducible assumption
    | with_reducible apply State.updCore_keeps
    | with_reducible apply State.updCx_keeps
    | split

theorem State.pops_keeps (h : Keeps s₀ s) (fs : List (BitVec 6)) :
    Keeps s₀ (State.pops s fs) := by
  unfold State.pops
  repeat' first
    | with_reducible assumption
    | with_reducible apply Keeps.foldl
    | with_reducible apply State.pop_keeps
    | intro _ _ _

theorem State.fillSlot_keeps (h : Keeps s₀ s) (k : Nat) (y2 : Nat) (y3 : Nat) :
    Keeps s₀ (State.fillSlot s k y2 y3).2 := by
  induction y2 generalizing s with
  | zero => exact h
  | succ n ih =>
    unfold State.fillSlot
    split
    · exact h
    · split
      · exact h
      · rename_i t _ _
        have g := State.streamNext_keeps h s.lcn k t
        split
        · rename_i heq
          rw [heq] at g
          exact ih g
        · exact g

theorem State.fillSlot_pair  {k : Nat} {y2 : Nat} {y3 : Nat} {a0 : _} {u₀ : State} (h : Keeps s₀ s)  (heq : State.fillSlot s k y2 y3 = (a0, u₀)) :
    Keeps s₀ u₀ := by
  have g := State.fillSlot_keeps h k y2 y3 
  rw [heq] at g
  exact g

theorem State.withStreams_keeps (h : Keeps s₀ s) (i : Instr) (done : List (BitVec 6)) (fs : List (BitVec 6)) (f : State → State) (hf : ∀ u0, Keeps s₀ u0 → Keeps s₀ (f u0)) :
    Keeps s₀ (State.withStreams s i done fs f) := by
  induction fs generalizing s done with
  | nil => exact hf _ h
  | cons x t ih =>
    unfold State.withStreams
    split
    · exact ih h _
    · split
      · exact State.stall_keeps (State.streamBegin_pair h (by assumption)) _
      · refine State.underMail_keeps (State.streamBegin_pair h (by assumption)) _ _ (fun _ hu => hu) fun _ hu => ?_
        split
        · exact ih (State.fillSlot_pair hu (by assumption)) _
        · exact State.trap_keeps (State.fillSlot_pair hu (by assumption)) _ _
        · exact State.loadFault_keeps (State.fillSlot_pair hu (by assumption)) _ _ _
        · exact State.stall_keeps (State.postAbsent_keeps (State.fillSlot_pair hu (by assumption)) _ _ _ _ _ _) _

theorem State.vector_keeps (h : Keeps s₀ s) (i : Instr) (fs : List (BitVec 6)) (g : Tags) (linear : Bool) (zero : Bool) (t : BitVec 2) (f : State → List VReg → Flags → State) (hf : ∀ u0 u1 u2, Keeps s₀ u0 → Keeps s₀ (f u0 u1 u2)) :
    Keeps s₀ (State.vector s i fs g linear zero t f) := by
  unfold State.vector
  repeat' first
    | with_reducible assumption
    | with_reducible apply hf
    | with_reducible apply State.trapWord_keeps
    | with_reducible apply State.trap_keeps
    | with_reducible apply State.withStreams_keeps
    | split
    | intro _ _

theorem State.vdone_keeps (h : Keeps s₀ s) (fs : List (BitVec 6)) (lk : Nat) (g : List (BitVec 5 × Word)) (v : List (BitVec 6 × VReg)) (fl : Flags) (src : optParam (Option LoadSrc) none) :
    Keeps s₀ (State.vdone s fs lk g v fl src) := by
  unfold State.vdone
  repeat' first
    | with_reducible assumption
    | with_reducible apply State.unlessTrapped_keeps
    | with_reducible apply State.retire_keeps
    | with_reducible apply State.results_keeps
    | with_reducible apply State.pops_keeps
    | intro _ _

theorem State.vput_keeps (h : Keeps s₀ s) (fs : List (BitVec 6)) (lk : Nat) (d : BitVec 6) (m : BitVec 3) (w : Nat) (z : Bool) (t : BitVec 2) (pf : Flags) (res : Nat → FRes) :
    Keeps s₀ (State.vput s fs lk d m w z t pf res) := by
  unfold State.vput
  repeat' first
    | with_reducible assumption
    | with_reducible apply State.vdone_keeps

theorem vecN1_keeps (h : Keeps s₀ s) (i : Instr) (d : BitVec 6) (a : BitVec 6) (m : BitVec 3) (z : Bool) (w : Nat) (lk : Nat) (op : State → Nat → FRes) :
    OutKeeps s₀ (vecN1 i d a m z w lk op s) := by
  unfold vecN1
  repeat' first
    | with_reducible assumption
    | with_reducible apply issue_keeps
    | with_reducible apply State.vector_keeps
    | with_reducible apply State.vput_keeps
    | intro _ _

theorem vecN2_keeps (h : Keeps s₀ s) (i : Instr) (d : BitVec 6) (a : BitVec 6) (b : BitVec 6) (m : BitVec 3) (z : Bool) (w : Nat) (op : State → Nat → Nat → FRes) :
    OutKeeps s₀ (vecN2 i d a b m z w op s) := by
  unfold vecN2
  repeat' first
    | with_reducible assumption
    | with_reducible apply issue_keeps
    | with_reducible apply State.vector_keeps
    | with_reducible apply State.vput_keeps
    | intro _ _

theorem vecN3_keeps (h : Keeps s₀ s) (i : Instr) (d : BitVec 6) (a : BitVec 6) (b : BitVec 6) (m : BitVec 3) (z : Bool) (w : Nat) (op : State → Nat → Nat → Nat → FRes) :
    OutKeeps s₀ (vecN3 i d a b m z w op s) := by
  unfold vecN3
  repeat' first
    | with_reducible assumption
    | with_reducible apply issue_keeps
    | with_reducible apply State.vector_keeps
    | with_reducible apply State.vput_keeps
    | intro _ _

theorem vecL1_keeps (h : Keeps s₀ s) (i : Instr) (d : BitVec 6) (a : BitVec 6) (m : BitVec 3) (z : Bool) (w : Nat) (op : State → Nat → FRes) :
    OutKeeps s₀ (vecL1 i d a m z w op s) := by
  unfold vecL1
  repeat' first
    | with_reducible assumption
    | with_reducible apply issue_keeps
    | with_reducible apply State.vector_keeps
    | with_reducible apply State.vput_keeps
    | intro _ _

theorem vecL2_keeps (h : Keeps s₀ s) (i : Instr) (d : BitVec 6) (a : BitVec 6) (b : BitVec 6) (m : BitVec 3) (z : Bool) (w : Nat) (op : State → Nat → Nat → FRes) :
    OutKeeps s₀ (vecL2 i d a b m z w op s) := by
  unfold vecL2
  repeat' first
    | with_reducible assumption
    | with_reducible apply issue_keeps
    | with_reducible apply State.vector_keeps
    | with_reducible apply State.vput_keeps
    | intro _ _

end Sys2Proof.Machine
end

