-- ==== Sys2Proof/Laws/Keeps/Matrix.lean ====
section
/-!
SUPPORT. Every function of Machine/Matrix.lean that answers a state keeps the focus and the canonical form of memory
(`Keeps`, Laws/Keeps.lean), and every meaning there answers a next state.
-/

namespace Sys2Proof.Machine
variable {s₀ s : State}

theorem State.matPerform_keeps (h : Keeps s₀ s) (lcn : Nat) (o : MatOp) :
    Keeps s₀ (State.matPerform s lcn o).1 := by
  unfold State.matPerform
  repeat' first
    | with_reducible assumption
    | with_reducible apply State.updCoreAt_keeps
    | with_reducible apply State.performWrite_keeps
    | split

theorem State.matPerform_pair  {lcn : Nat} {o : MatOp} {a0 : _} {u₀ : State} (h : Keeps s₀ s)  (heq : State.matPerform s lcn o = (u₀, a0)) :
    Keeps s₀ u₀ := by
  have g := State.matPerform_keeps h lcn o 
  rw [heq] at g
  exact g

theorem State.govern_keeps (h : Keeps s₀ s) (lcn : Nat) (o : MatOp) :
    Keeps s₀ (State.govern s lcn o).2.2 := by
  unfold State.govern
  (try dsimp only)
  repeat' first
    | with_reducible assumption
    | with_reducible apply State.updCoreAt_keeps
    | split

theorem State.govern_pair  {lcn : Nat} {o : MatOp} {a0 : _} {a1 : _} {u₀ : State} (h : Keeps s₀ s)  (heq : State.govern s lcn o = (a0, a1, u₀)) :
    Keeps s₀ u₀ := by
  have g := State.govern_keeps h lcn o 
  rw [heq] at g
  exact g

theorem State.noteHeld_keeps (h : Keeps s₀ s) (lcn : Nat) :
    Keeps s₀ (State.noteHeld s lcn) := by
  unfold State.noteHeld
  repeat' first
    | with_reducible assumption
    | with_reducible apply State.updCoreAt_keeps
    | with_reducible apply State.fresh_keeps

theorem State.matEnter_keeps (h : Keeps s₀ s) (lk : BitVec 4) (f : State → State) (hf : ∀ u0, Keeps s₀ u0 → Keeps s₀ (f u0)) :
    Keeps s₀ (State.matEnter s lk f) := by
  unfold State.matEnter
  (try dsimp only)
  repeat' first
    | with_reducible assumption
    | with_reducible apply hf
    | with_reducible apply State.stall_keeps
    | split

theorem State.enqueue_keeps (h : Keeps s₀ s) (o : MatOp) :
    Keeps s₀ (State.enqueue s o) := by
  unfold State.enqueue
  repeat' first
    | with_reducible assumption
    | with_reducible apply State.retire_keeps
    | with_reducible apply State.updCore_keeps

theorem State.matAccept_keeps (h : Keeps s₀ s) (lk : BitVec 4) (o : MatOp) (write : Bool) (oor : List (List Nat)) :
    Keeps s₀ (State.matAccept s lk o write oor) := by
  unfold State.matAccept
  (try dsimp only)
  repeat' first
    | with_reducible assumption
    | with_reducible apply State.stall_keeps
    | with_reducible apply State.enqueue_keeps
    | with_reducible apply State.updCx_keeps
    | with_reducible apply State.govern_keeps
    | with_reducible apply State.matPerform_keeps
    | with_reducible apply State.unlessTrapped_keeps
    | with_reducible apply State.retire_keeps
    | with_reducible apply State.raise_keeps
    | with_reducible apply State.noteHeld_keeps
    | split
    | intro _ _

theorem matMultiply_keeps (h : Keeps s₀ s) (i : Instr) (fresh : Bool) (l : BitVec 4) (k : BitVec 2) (a : BitVec 5) (b : BitVec 5) (g : BitVec 1) (h1 : BitVec 1) (e : BitVec 4) (f : BitVec 4) :
    OutKeeps s₀ (matMultiply i fresh l k a b g h1 e f s) := by
  unfold matMultiply
  repeat' first
    | with_reducible assumption
    | with_reducible apply issue_keeps
    | with_reducible apply State.matEnter_keeps
    | with_reducible apply State.trap_keeps
    | with_reducible apply State.readOperands_keeps
    | with_reducible apply State.matAccept_keeps
    | split
    | intro _ _ _
    | intro _ _

theorem execMma_keeps (h : Keeps s₀ s) (l : BitVec 4) (c : BitVec 2) (a : BitVec 5) (b : BitVec 5) (g : BitVec 1) (h1 : BitVec 1) (e : BitVec 4) (f : BitVec 4) :
    OutKeeps s₀ (execMma l c a b g h1 e f s) := by
  unfold execMma
  repeat' first
    | with_reducible assumption
    | with_reducible apply matMultiply_keeps

theorem execMmaz_keeps (h : Keeps s₀ s) (l : BitVec 4) (c : BitVec 2) (a : BitVec 5) (b : BitVec 5) (g : BitVec 1) (h1 : BitVec 1) (e : BitVec 4) (f : BitVec 4) :
    OutKeeps s₀ (execMmaz l c a b g h1 e f s) := by
  unfold execMmaz
  repeat' first
    | with_reducible assumption
    | with_reducible apply matMultiply_keeps

theorem execMsca_keeps (h : Keeps s₀ s) (l : BitVec 4) (c : BitVec 2) (a : BitVec 5) (b : BitVec 5) (k : BitVec 2) (src : BitVec 2) :
    OutKeeps s₀ (execMsca l c a b k src s) := by
  unfold execMsca
  (try dsimp only)
  repeat' first
    | with_reducible assumption
    | with_reducible apply issue_keeps
    | with_reducible apply State.matEnter_keeps
    | with_reducible apply State.trap_keeps
    | with_reducible apply State.matAccept_keeps
    | split
    | intro _ _

theorem execMdrain_keeps (h : Keeps s₀ s) (l : BitVec 4) (c : BitVec 2) (a : BitVec 5) (b : BitVec 5) (x : BitVec 1) :
    OutKeeps s₀ (execMdrain l c a b x s) := by
  unfold execMdrain
  (try dsimp only)
  repeat' first
    | with_reducible apply issue_keeps
    | with_reducible apply State.matEnter_keeps
    | with_reducible apply State.trap_keeps
    | with_reducible apply State.reach_keeps
    | with_reducible apply State.matAccept_keeps
    | split
    | (intros; assumption)
    | intro _ _ _
    | intro _ _

theorem execMldacc_keeps (h : Keeps s₀ s) (l : BitVec 4) (c : BitVec 2) (a : BitVec 5) :
    OutKeeps s₀ (execMldacc l c a s) := by
  unfold execMldacc
  (try dsimp only)
  repeat' first
    | with_reducible assumption
    | with_reducible apply issue_keeps
    | with_reducible apply State.matEnter_keeps
    | with_reducible apply State.trap_keeps
    | with_reducible apply State.readOperands_keeps
    | with_reducible apply State.matAccept_keeps
    | split
    | intro _ _ _
    | intro _ _

theorem execMzero_keeps (h : Keeps s₀ s) (l : BitVec 4) (c : BitVec 2) :
    OutKeeps s₀ (execMzero l c s) := by
  unfold execMzero
  repeat' first
    | with_reducible assumption
    | with_reducible apply issue_keeps
    | with_reducible apply State.matEnter_keeps
    | with_reducible apply State.matAccept_keeps
    | intro _ _

theorem execMmovvToV_keeps (h : Keeps s₀ s) (l : BitVec 4) (c : BitVec 2) (a : BitVec 5) (b : BitVec 5) :
    OutKeeps s₀ (execMmovvToV l c a b s) := by
  unfold execMmovvToV
  repeat' first
    | with_reducible assumption
    | with_reducible apply issue_keeps
    | with_reducible apply State.stall_keeps
    | with_reducible apply State.retire_keeps
    | with_reducible apply State.results_keeps
    | split
    | intro _ _

theorem execMmovvToAcc_keeps (h : Keeps s₀ s) (l : BitVec 4) (c : BitVec 2) (a : BitVec 5) (b : BitVec 5) :
    OutKeeps s₀ (execMmovvToAcc l c a b s) := by
  unfold execMmovvToAcc
  (try dsimp only)
  repeat' first
    | with_reducible assumption
    | with_reducible apply issue_keeps
    | with_reducible apply State.matEnter_keeps
    | with_reducible apply State.trap_keeps
    | with_reducible apply State.matAccept_keeps
    | split
    | intro _ _

theorem execMtag_keeps (h : Keeps s₀ s) (l : BitVec 4) (c : BitVec 2) (a : BitVec 5) :
    OutKeeps s₀ (execMtag l c a s) := by
  unfold execMtag
  (try dsimp only)
  repeat' first
    | with_reducible assumption
    | with_reducible apply issue_keeps
    | with_reducible apply State.matEnter_keeps
    | with_reducible apply State.trap_keeps
    | with_reducible apply State.matAccept_keeps
    | split
    | intro _ _

theorem execCbload_keeps (h : Keeps s₀ s) (l : BitVec 4) (a : BitVec 5) (f : BitVec 1) (n : BitVec 3) :
    OutKeeps s₀ (execCbload l a f n s) := by
  unfold execCbload
  (try dsimp only)
  repeat' first
    | with_reducible assumption
    | with_reducible apply issue_keeps
    | with_reducible apply State.matEnter_keeps
    | with_reducible apply State.trap_keeps
    | with_reducible apply State.readOperands_keeps
    | with_reducible apply State.matAccept_keeps
    | split
    | intro _ _ _
    | intro _ _

theorem State.drainSplits_keeps (h : Keeps s₀ s) (lcn : Nat) (o : MatOp) :
    OptKeeps s₀ (State.drainSplits s lcn o) := by
  unfold State.drainSplits
  repeat' first
    | with_reducible assumption
    | with_reducible exact OptKeeps.none
    | with_reducible apply OptKeeps.some
    | with_reducible apply State.performWrite_keeps
    | with_reducible apply State.updCoreAt_keeps
    | split

theorem execMatrixQueuePerform_keeps (h : Keeps s₀ s) (lcn : Nat) :
    OutKeeps s₀ (execMatrixQueuePerform lcn s) := by
  unfold execMatrixQueuePerform
  split
  · exact OutKeeps.next h
  · split
    · exact OutKeeps.next h
    · split
      · exact OutKeeps.next (State.noteHeld_keeps (State.updCoreAt_keeps (State.govern_pair h (by assumption)) _ _) _)
      · rename_i o _ _ _ _ _ v heq
        have h := State.govern_pair h heq
        clear heq
        split
        · exact OutKeeps.next ((State.drainSplits_keeps h lcn o).get (by assumption))
        · refine OutKeeps.next ⟨h.1, h.2.1, fun w => ?_⟩
          have g := (State.matPerform_keeps (Keeps.refl v) lcn o).2.2 (h.2.2 w)
          exact (State.raise_keeps (State.updCore_keeps (Keeps.refl { (v.matPerform lcn o).1 with lcn := lcn, k := 0 }) _) _).2.2 g

theorem execGovernorWindowStart_keeps (h : Keeps s₀ s) (lcn : Nat) :
    OutKeeps s₀ (execGovernorWindowStart lcn s) := by
  unfold execGovernorWindowStart
  repeat' first
    | with_reducible assumption
    | with_reducible apply OutKeeps.next
    | with_reducible apply State.updCoreAt_keeps
    | split

theorem execMgovWrite_keeps (h : Keeps s₀ s) (lcn : Nat) (v : BitVec 64) :
    OutKeeps s₀ (execMgovWrite lcn v s) := by
  unfold execMgovWrite
  repeat' first
    | with_reducible assumption
    | with_reducible apply OutKeeps.next
    | with_reducible apply State.supWrite_keeps

end Sys2Proof.Machine
end

