-- ==== Sys2Proof/Laws/Keeps/HostSide.lean ====
section
/-!
SUPPORT. Every function of Machine/HostSide.lean that answers a state keeps the focus and the canonical form of memory
(`Keeps`, Laws/Keeps.lean), and every meaning there answers a next state.
-/

namespace Sys2Proof.Machine
variable {s₀ s : State}

theorem State.hostWrite_keeps (h : Keeps s₀ s) (h1 : Nat) (bs : List Byte) :
    Keeps s₀ (State.hostWrite s h1 bs).2 := by
  unfold State.hostWrite
  repeat' first
    | with_reducible assumption
    | with_reducible refine State.fresh_pair ?_ (by assumption)
    | with_reducible apply State.performWrite_keeps
    | split

theorem State.hostWrite_pair  {h1 : Nat} {bs : List Byte} {a0 : _} {u₀ : State} (h : Keeps s₀ s)  (heq : State.hostWrite s h1 bs = (a0, u₀)) :
    Keeps s₀ u₀ := by
  have g := State.hostWrite_keeps h h1 bs 
  rw [heq] at g
  exact g

theorem State.hostRead_keeps (h : Keeps s₀ s) (h1 : Nat) (n : Nat) :
    Keeps s₀ (State.hostRead s h1 n).2 := by
  unfold State.hostRead
  repeat' first
    | with_reducible assumption
    | with_reducible refine State.fresh_pair ?_ (by assumption)
    | with_reducible apply State.performRead_keeps
    | split

theorem State.hostRead_pair  {h1 : Nat} {n : Nat} {a0 : _} {u₀ : State} (h : Keeps s₀ s)  (heq : State.hostRead s h1 n = (a0, u₀)) :
    Keeps s₀ u₀ := by
  have g := State.hostRead_keeps h h1 n 
  rw [heq] at g
  exact g

theorem State.updQueue_keeps (h : Keeps s₀ s) (q : Nat) (f : HQueue → HQueue) :
    Keeps s₀ (State.updQueue s q f) := by
  unfold State.updQueue
  repeat' first
    | with_reducible assumption
    | fail_if_no_progress with_reducible apply Keeps.same

theorem State.updEvent_keeps (h : Keeps s₀ s) (v : Nat) (f : EventQ → EventQ) :
    Keeps s₀ (State.updEvent s v f) := by
  unfold State.updEvent
  repeat' first
    | with_reducible assumption
    | fail_if_no_progress with_reducible apply Keeps.same

theorem execDoorbellTailWrite_keeps (h : Keeps s₀ s) (q : Nat) (tail : BitVec 32) :
    OutKeeps s₀ (execDoorbellTailWrite q tail s) := by
  unfold execDoorbellTailWrite
  repeat' first
    | with_reducible assumption
    | with_reducible apply OutKeeps.next
    | with_reducible apply State.updEvent_keeps
    | with_reducible apply State.updQueue_keeps
    | split

theorem execDoorbellSizeWrite_keeps (h : Keeps s₀ s) (q : Nat) (size : BitVec 8) (base : BitVec 64) :
    OutKeeps s₀ (execDoorbellSizeWrite q size base s) := by
  unfold execDoorbellSizeWrite
  repeat' first
    | with_reducible assumption
    | with_reducible apply OutKeeps.next
    | with_reducible apply State.updEvent_keeps
    | with_reducible apply State.updQueue_keeps
    | split

theorem execQueueEntryAccept_keeps (h : Keeps s₀ s) (q : Nat) :
    OutKeeps s₀ (execQueueEntryAccept q s) := by
  unfold execQueueEntryAccept
  (try dsimp only)
  repeat' first
    | with_reducible assumption
    | with_reducible apply OutKeeps.next
    | with_reducible apply State.updQueue_keeps
    | with_reducible refine State.hostRead_pair ?_ (by assumption)
    | split

theorem State.complete_keeps (h : Keeps s₀ s) (q : Nat) (seq : Word) (cpl : Word) (flags : Nat) (status : Nat) (killed : Nat) (sfs : Nat) (x : Word) :
    Keeps s₀ (State.complete s q seq cpl flags status killed sfs x) := by
  unfold State.complete
  repeat' first
    | with_reducible assumption
    | with_reducible apply State.hostWrite_keeps
    | split

theorem State.passHead_keeps (h : Keeps s₀ s) (q : Nat) :
    Keeps s₀ (State.passHead s q) := by
  unfold State.passHead
  repeat' first
    | with_reducible assumption
    | with_reducible apply State.updQueue_keeps

theorem State.popHead_keeps (h : Keeps s₀ s) (q : Nat) :
    Keeps s₀ (State.popHead s q) := by
  unfold State.popHead
  repeat' first
    | with_reducible assumption
    | with_reducible apply State.updQueue_keeps

theorem State.finishHead_keeps (h : Keeps s₀ s) (q : Nat) (r : List Byte) (status : Nat) (x : Word) :
    Keeps s₀ (State.finishHead s q r status x) := by
  unfold State.finishHead
  repeat' first
    | with_reducible assumption
    | with_reducible apply State.popHead_keeps
    | with_reducible apply State.complete_keeps
    | split

theorem State.purge_keeps (h : Keeps s₀ s)  :
    Keeps s₀ (State.purge s) := by
  unfold State.purge
  repeat' first
    | with_reducible assumption
    | fail_if_no_progress with_reducible apply Keeps.same

theorem State.choose_keeps (h : Keeps s₀ s) {α : Type} (dflt : α) (xs : List α) :
    Keeps s₀ (State.choose s dflt xs).2 := by
  unfold State.choose
  repeat' first
    | with_reducible assumption
    | with_reducible apply State.fresh_keeps

theorem State.choose_pair {α : Type} {dflt : α} {xs : List α} {a0 : _} {u₀ : State} (h : Keeps s₀ s)  (heq : State.choose s dflt xs = (a0, u₀)) :
    Keeps s₀ u₀ := by
  have g := State.choose_keeps h dflt xs 
  rw [heq] at g
  exact g

theorem State.enterCore_keeps (h : Keeps s₀ s) (id : Nat) (lcn : Nat) (primary : Nat) (p : Part) (pc : Nat) :
    Keeps s₀ (State.enterCore s id lcn primary p pc) := by
  unfold State.enterCore
  repeat' first
    | with_reducible assumption
    | with_reducible apply State.updCoreAt_keeps
    | with_reducible apply State.updTowerAt_keeps

theorem State.addGang_keeps (h : Keeps s₀ s) (g : Gang) :
    Keeps s₀ (State.addGang s g) := by
  unfold State.addGang
  repeat' first
    | with_reducible assumption
    | with_reducible apply Keeps.foldl
    | with_reducible apply State.enterCore_keeps
    | with_reducible apply State.purge_keeps
    | with_reducible apply State.updDom_keeps
    | split
    | fail_if_no_progress with_reducible apply Keeps.same
    | intro _ _ _

theorem State.pickShadow_keeps (h : Keeps s₀ s) (part : Nat) (r : List Byte) :
    Keeps s₀ (State.pickShadow s part r).2 := by
  unfold State.pickShadow
  repeat' first
    | with_reducible assumption
    | with_reducible apply State.choose_keeps
    | split

theorem State.pickShadow_pair  {part : Nat} {r : List Byte} {a0 : _} {u₀ : State} (h : Keeps s₀ s)  (heq : State.pickShadow s part r = (a0, u₀)) :
    Keeps s₀ u₀ := by
  have g := State.pickShadow_keeps h part r 
  rw [heq] at g
  exact g

theorem State.placeCells_keeps (h : Keeps s₀ s) (base : Nat) (cells : List (Nat × Byte)) :
    Keeps s₀ (State.placeCells s base cells) := by
  unfold State.placeCells
  repeat' first
    | with_reducible assumption
    | with_reducible apply State.performWrite_keeps
    | split

theorem State.loadImage_keeps (h : Keeps s₀ s) (g : Gang) (args : List Byte) (image : List Byte) :
    Keeps s₀ (State.loadImage s g args image) := by
  unfold State.loadImage
  repeat' first
    | with_reducible assumption
    | with_reducible apply Keeps.foldl
    | with_reducible apply State.placeCells_keeps
    | intro _ _ _

theorem State.launch_keeps (h : Keeps s₀ s) (q : Nat) (part : Nat) (r : List Byte) (i : Image) :
    Keeps s₀ (State.launch s q part r i) := by
  unfold State.launch
  (try dsimp only)
  repeat' first
    | with_reducible assumption
    | with_reducible apply State.finishHead_keeps
    | with_reducible apply State.pickShadow_keeps
    | with_reducible apply State.choose_keeps
    | with_reducible apply State.loadImage_keeps
    | with_reducible apply State.popHead_keeps
    | with_reducible apply State.addGang_keeps
    | with_reducible apply State.complete_keeps
    | with_reducible apply State.beginCompute_keeps
    | split

theorem State.launchPassed_keeps (h : Keeps s₀ s) (q : Nat) (part : Nat) (r : List Byte) :
    Keeps s₀ (State.launchPassed s q part r) := by
  unfold State.launchPassed
  repeat' first
    | with_reducible assumption
    | with_reducible apply State.finishHead_keeps
    | with_reducible apply State.launch_keeps
    | split

theorem execLaunchStart_keeps (h : Keeps s₀ s) (q : Nat) :
    OutKeeps s₀ (execLaunchStart q s) := by
  unfold execLaunchStart
  (try dsimp only)
  repeat' first
    | with_reducible assumption
    | with_reducible apply OutKeeps.next
    | with_reducible apply State.finishHead_keeps
    | with_reducible apply State.launchPassed_keeps
    | with_reducible apply State.passHead_keeps
    | split

theorem State.freePhasers_keeps (h : Keeps s₀ s) (g : Gang) :
    Keeps s₀ (State.freePhasers s g) := by
  unfold State.freePhasers
  repeat' first
    | with_reducible apply Keeps.foldl
    | (intros; assumption)

theorem State.gangCounts_keeps (h : Keeps s₀ s) (g : Gang) :
    Keeps s₀ (State.gangCounts s g) := by
  unfold State.gangCounts
  (try dsimp only)
  repeat' first
    | with_reducible apply Keeps.foldl
    | with_reducible apply State.updCoreAt_keeps
    | split
    | (intros; assumption)

theorem execGangEnd_keeps (h : Keeps s₀ s) (gang : Nat) :
    OutKeeps s₀ (execGangEnd gang s) := by
  unfold execGangEnd
  repeat' first
    | with_reducible apply OutKeeps.next
    | with_reducible apply Keeps.foldl
    | with_reducible apply State.freePhasers_keeps
    | with_reducible apply State.gangCounts_keeps
    | with_reducible apply State.complete_keeps
    | with_reducible apply State.updGang_keeps
    | with_reducible apply State.windowCheck_keeps
    | split
    | fail_if_no_progress with_reducible apply Keeps.same
    | (intros; assumption)

theorem State.hostMove_keeps (h : Keeps s₀ s) (ps : List (Nat × Nat)) :
    Keeps s₀ (State.hostMove s ps) := by
  unfold State.hostMove
  repeat' first
    | with_reducible assumption
    | with_reducible apply State.performRead_keeps
    | with_reducible apply State.performWrite_keeps

theorem execHostCopy_keeps (h : Keeps s₀ s) (q : Nat) :
    OutKeeps s₀ (execHostCopy q s) := by
  unfold execHostCopy
  (try dsimp only)
  repeat' first
    | with_reducible assumption
    | with_reducible apply OutKeeps.next
    | with_reducible apply State.finishHead_keeps
    | with_reducible apply State.hostMove_keeps
    | split
    | fail_if_no_progress with_reducible apply Keeps.same

theorem State.gcb_keeps (h : Keeps s₀ s) (q : Nat) (op : Nat) (act : State → Nat → List Byte → State) (hact : ∀ u0 u1 u2, Keeps s₀ u0 → Keeps s₀ (act u0 u1 u2)) :
    OutKeeps s₀ (State.gcb s q op act) := by
  unfold State.gcb
  repeat' first
    | with_reducible assumption
    | with_reducible apply hact
    | with_reducible apply OutKeeps.next
    | with_reducible apply State.finishHead_keeps
    | split

theorem execGcbPreempt_keeps (h : Keeps s₀ s) (q : Nat) :
    OutKeeps s₀ (execGcbPreempt q s) := by
  unfold execGcbPreempt
  repeat' first
    | with_reducible assumption
    | with_reducible apply State.gcb_keeps
    | with_reducible apply State.finishHead_keeps
    | with_reducible apply State.updGang_keeps
    | split
    | intro _ _ _ _

theorem State.stopGang_keeps (h : Keeps s₀ s) (g : Gang) (status : Nat) :
    Keeps s₀ (State.stopGang s g status) := by
  unfold State.stopGang
  refine Keeps.foldl (fun u l hu => State.settleCore_keeps hu l) _ ?_
  exact Keeps.foldl (fun u l hu => State.endCore_keeps hu l) _ (State.updGang_keeps h _ _)

theorem execGcbKill_keeps (h : Keeps s₀ s) (q : Nat) :
    OutKeeps s₀ (execGcbKill q s) := by
  unfold execGcbKill
  repeat' first
    | with_reducible assumption
    | with_reducible apply State.gcb_keeps
    | with_reducible apply State.finishHead_keeps
    | with_reducible apply State.stopGang_keeps
    | split
    | intro _ _ _ _

theorem execGcbRestore_keeps (h : Keeps s₀ s) (q : Nat) :
    OutKeeps s₀ (execGcbRestore q s) := by
  unfold execGcbRestore
  (try dsimp only)
  repeat' first
    | with_reducible apply Keeps.foldl
    | with_reducible apply State.gcb_keeps
    | with_reducible apply State.finishHead_keeps
    | with_reducible apply State.pickShadow_keeps
    | with_reducible apply State.choose_keeps
    | with_reducible apply State.addGang_keeps
    | with_reducible apply State.popHead_keeps
    | split
    | (intros; assumption)
    | intro _ _ _ _

theorem State.writeEvent_keeps (h : Keeps s₀ s) (vf : Option Nat) (r : List Byte) :
    Keeps s₀ (State.writeEvent s vf r).2 := by
  unfold State.writeEvent
  (try dsimp only)
  repeat' first
    | with_reducible assumption
    | with_reducible refine State.hostWrite_pair ?_ (by assumption)
    | with_reducible apply State.updEvent_keeps
    | split

theorem State.writeEvent_pair  {vf : Option Nat} {r : List Byte} {a0 : _} {u₀ : State} (h : Keeps s₀ s)  (heq : State.writeEvent s vf r = (a0, u₀)) :
    Keeps s₀ u₀ := by
  have g := State.writeEvent_keeps h vf r 
  rw [heq] at g
  exact g

theorem State.answerMail_keeps (h : Keeps s₀ s) (lcn : Nat) (slot : Nat) (seq : Nat) (kill : Bool) :
    Keeps s₀ (State.answerMail s lcn slot seq kill) := by
  unfold State.answerMail
  repeat' first
    | with_reducible assumption
    | with_reducible apply State.updCoreAt_keeps
    | split

theorem State.askHost_keeps (h : Keeps s₀ s) (lcn : Nat) (slot : Nat) (seq : Nat) :
    Keeps s₀ (State.askHost s lcn slot seq) := by
  unfold State.askHost
  repeat' first
    | with_reducible assumption
    | with_reducible apply State.updCoreAt_keeps

theorem execFaultAgentMessage_keeps (h : Keeps s₀ s) (tower : Nat) :
    OutKeeps s₀ (execFaultAgentMessage tower s) := by
  unfold execFaultAgentMessage
  (try dsimp only)
  repeat' first
    | with_reducible assumption
    | with_reducible apply OutKeeps.next
    | with_reducible apply State.updTowerAt_keeps
    | with_reducible apply State.writeEvent_keeps
    | with_reducible apply State.askHost_keeps
    | with_reducible apply State.answerMail_keeps
    | with_reducible apply State.stopGang_keeps
    | split

theorem execEventAnswer_keeps (h : Keeps s₀ s) (vf : Nat) (ans : BitVec 64) (seq : BitVec 64) :
    OutKeeps s₀ (execEventAnswer vf ans seq s) := by
  unfold execEventAnswer
  (try dsimp only)
  repeat' first
    | with_reducible assumption
    | with_reducible apply OutKeeps.next
    | with_reducible apply State.updEvent_keeps
    | with_reducible apply State.answerMail_keeps
    | split

theorem execFaultTimeout_keeps (h : Keeps s₀ s) (lcn : Nat) (slot : Nat) :
    OutKeeps s₀ (execFaultTimeout lcn slot s) := by
  unfold execFaultTimeout
  repeat' first
    | with_reducible assumption
    | with_reducible apply OutKeeps.next
    | with_reducible apply State.answerMail_keeps
    | split

theorem State.refuse_keeps (h : Keeps s₀ s)  :
    OutKeeps s₀ (State.refuse s) := by
  unfold State.refuse
  repeat' first
    | with_reducible assumption
    | with_reducible apply OutKeeps.next
    | with_reducible apply State.answer_keeps

theorem execPartitionCreate_keeps (h : Keeps s₀ s) (req : CreateRequest) :
    OutKeeps s₀ (execPartitionCreate req s) := by
  unfold execPartitionCreate
  repeat' first
    | with_reducible apply OutKeeps.next
    | with_reducible apply Keeps.foldl
    | with_reducible apply State.refuse_keeps
    | with_reducible apply State.answer_keeps
    | split
    | fail_if_no_progress with_reducible apply Keeps.same
    | (intros; assumption)

theorem execPartitionDestroy_keeps (h : Keeps s₀ s) (part : Nat) :
    OutKeeps s₀ (execPartitionDestroy part s) := by
  unfold execPartitionDestroy
  repeat' first
    | with_reducible apply OutKeeps.next
    | with_reducible apply Keeps.foldl
    | with_reducible apply State.refuse_keeps
    | with_reducible apply State.answer_keeps
    | split
    | fail_if_no_progress with_reducible apply Keeps.same
    | (intros; assumption)

theorem execTowerAssign_keeps (h : Keeps s₀ s) (part : Nat) (tower : Nat) (give : Bool) :
    OutKeeps s₀ (execTowerAssign part tower give s) := by
  unfold execTowerAssign
  (try dsimp only)
  repeat' first
    | with_reducible assumption
    | with_reducible apply OutKeeps.next
    | with_reducible apply State.refuse_keeps
    | with_reducible apply State.answer_keeps
    | with_reducible apply State.updTowerAt_keeps
    | split

theorem execImageRegister_keeps (h : Keeps s₀ s) (part : Nat) (addr : BitVec 43) (len : Nat) :
    OutKeeps s₀ (execImageRegister part addr len s) := by
  unfold execImageRegister
  (try dsimp only)
  repeat' first
    | with_reducible assumption
    | with_reducible apply OutKeeps.next
    | with_reducible refine State.hostRead_pair ?_ (by assumption)
    | with_reducible apply State.refuse_keeps
    | with_reducible apply State.answer_keeps
    | with_reducible apply State.updPartAt_keeps
    | split

theorem execAttest_keeps (h : Keeps s₀ s) (nonce : BitVec 256) (part : Option Nat) :
    OutKeeps s₀ (execAttest nonce part s) := by
  unfold execAttest
  repeat' first
    | with_reducible assumption
    | with_reducible apply OutKeeps.next
    | with_reducible apply State.refuse_keeps
    | with_reducible apply State.answer_keeps
    | split

end Sys2Proof.Machine
end

