-- ==== Sys2Proof/Laws/Keeps/Recovery.lean ====
section
/-!
SUPPORT. Every function of Machine/Recovery.lean that answers a state keeps the focus and the canonical form of memory
(`Keeps`, Laws/Keeps.lean), and every meaning there answers a next state.
-/

namespace Sys2Proof.Machine
variable {s₀ s : State}

theorem execUncorrectableErrorConsumed_keeps (h : Keeps s₀ s) (lcn : Nat) (k : Nat) (src : BitVec 3) (pa : BitVec 56) :
    OutKeeps s₀ (execUncorrectableErrorConsumed lcn k src pa s) := by
  unfold execUncorrectableErrorConsumed
  (try dsimp only)
  repeat' first
    | with_reducible assumption
    | with_reducible apply OutKeeps.next
    | with_reducible apply State.reportError_keeps
    | with_reducible apply State.updFp_keeps
    | with_reducible apply State.partTransfer_keeps
    | with_reducible apply State.twinMismatch_keeps
    | with_reducible apply State.nonRollbackable_keeps
    | with_reducible apply State.placeBytes_keeps
    | split

theorem State.abandon_keeps (h : Keeps s₀ s) (lcn : Nat) :
    Keeps s₀ (State.abandon s lcn) := by
  unfold State.abandon
  repeat' first
    | with_reducible assumption
    | with_reducible apply State.forsake_keeps
    | with_reducible apply State.updCoreAt_keeps
    | fail_if_no_progress with_reducible apply Keeps.same

theorem State.undo_keeps (h : Keeps s₀ s) (lcn : Nat) (y2 : Nat) :
    Keeps s₀ (State.undo s lcn y2).2 := by
  induction y2 generalizing s with
  | zero => exact h
  | succ e ih =>
    unfold State.undo
    generalize s.viewPA lcn _ = o
    cases o with
    | none => exact h
    | some a =>
      dsimp only
      generalize bit (s.wordAt (a + 0x10)) 0 = b
      cases b with
      | true => exact h
      | false =>
        generalize s.viewPA lcn _ = o
        cases o with
        | none => exact ih h
        | some pa => exact ih (State.placeBytes_keeps h _ _)

theorem State.undo_pair  {lcn : Nat} {y2 : Nat} {a0 : _} {u₀ : State} (h : Keeps s₀ s)  (heq : State.undo s lcn y2 = (a0, u₀)) :
    Keeps s₀ u₀ := by
  have g := State.undo_keeps h lcn y2 
  rw [heq] at g
  exact g

theorem State.undoAll_keeps (h : Keeps s₀ s) (y1 : List Nat) :
    Keeps s₀ (State.undoAll s y1).2 := by
  induction y1 generalizing s with
  | nil => exact h
  | cons l t ih =>
    unfold State.undoAll
    split
    · exact ih (State.undo_pair h (by assumption))
    · exact State.undo_pair h (by assumption)

theorem State.undoAll_pair  {y1 : List Nat} {a0 : _} {u₀ : State} (h : Keeps s₀ s)  (heq : State.undoAll s y1 = (a0, u₀)) :
    Keeps s₀ u₀ := by
  have g := State.undoAll_keeps h y1 
  rw [heq] at g
  exact g

theorem State.reload_keeps (h : Keeps s₀ s) (gang : Nat) (lcn : Nat) :
    Keeps s₀ (State.reload s gang lcn) := by
  unfold State.reload
  dsimp only
  generalize s.viewPA lcn _ = o
  cases o with
  | none => exact h
  | some pa => exact State.updCoreAt_keeps (State.loadPhasers_keeps (State.loadRecord_keeps h _ _ _ _) _ _ _ _) _ _

theorem State.reenter_keeps (h : Keeps s₀ s) (gang : Nat) :
    Keeps s₀ (State.reenter s gang) := by
  unfold State.reenter
  (try dsimp only)
  repeat' first
    | with_reducible assumption
    | with_reducible apply State.windowCheck_keeps
    | with_reducible apply State.beginDone_keeps
    | split
    | fail_if_no_progress with_reducible apply Keeps.same

theorem State.fatalError_keeps (h : Keeps s₀ s) (g : Gang) (at' : Option (Nat × BitVec 48)) (lcn : Nat) (src : Nat) (pa : Nat) :
    Keeps s₀ (State.fatalError s g at' lcn src pa) := by
  unfold State.fatalError
  (try dsimp only)
  repeat' first
    | with_reducible apply Keeps.foldl
    | with_reducible apply State.updCoreAt_keeps
    | with_reducible apply State.trapAt_keeps
    | split
    | (intros; assumption)

theorem execRollback_keeps (h : Keeps s₀ s) (gang : Nat) :
    OutKeeps s₀ (execRollback gang s) := by
  unfold execRollback
  (try dsimp only)
  repeat' first
    | with_reducible assumption
    | with_reducible apply OutKeeps.next
    | with_reducible apply Keeps.foldl
    | with_reducible apply State.failSave_keeps
    | with_reducible apply State.postFatal_keeps
    | with_reducible apply State.updGang_keeps
    | with_reducible apply State.fatalError_keeps
    | with_reducible apply State.abandon_keeps
    | with_reducible refine State.undoAll_pair ?_ (by assumption)
    | with_reducible apply State.reload_keeps
    | with_reducible apply State.reenter_keeps
    | split
    | intro _ _ _

theorem State.putSegment_keeps (h : Keeps s₀ s) (frames : List Nat) (va : Nat) (len : Nat) (cells : Tab Byte) :
    Keeps s₀ (State.putSegment s frames va len cells) := by
  unfold State.putSegment
  repeat' first
    | with_reducible assumption
    | with_reducible apply Keeps.foldl
    | with_reducible apply State.putSparse_keeps
    | intro _ _ _

theorem State.saveAll_keeps (h : Keeps s₀ s) (part : Nat) (asid : BitVec 10) (root : Nat) (y4 : List (Nat × Nat × Nat × Tab Byte)) :
    ExcKeeps s₀ (State.saveAll s part asid root y4) := by
  induction y4 generalizing s with
  | nil => exact ExcKeeps.ok h
  | cons e t ih =>
    obtain ⟨src, va, len, cells⟩ := e
    unfold State.saveAll
    generalize s.saveFrames part asid root src va _ = o
    cases o with
    | error e => exact ExcKeeps.error _
    | ok fs => exact ih (State.putSegment_keeps h _ _ _ _)

theorem State.keepStreams_keeps (h : Keeps s₀ s) (g : Gang) :
    Keeps s₀ (State.keepStreams s g) := by
  unfold State.keepStreams
  repeat' first
    | with_reducible assumption
    | fail_if_no_progress with_reducible apply Keeps.same

theorem State.saved_keeps (h : Keeps s₀ s) (g : Gang) :
    Keeps s₀ (State.saved s g) := by
  unfold State.saved
  refine State.windowCheck_keeps (Keeps.foldl (fun _ l hu => ?_) _ (State.updGang_keeps (State.keepStreams_keeps h g) _ _))
  exact State.updCoreAt_keeps (State.updTowerAt_keeps (State.stopCore_keeps hu l) _ _) _ _

theorem State.saveArea_keeps (h : Keeps s₀ s) (g : Gang) (asid : BitVec 10) (root : Nat) (segs : List (Nat × Nat × Nat × Tab Byte)) :
    Keeps s₀ (State.saveArea s g asid root segs) := by
  unfold State.saveArea
  split
  · exact State.failSave_keeps h _ _
  · exact State.saved_keeps ((State.saveAll_keeps h _ _ _ _).get (by assumption)) g

theorem execPreemptSave_keeps (h : Keeps s₀ s) (gang : Nat) :
    OutKeeps s₀ (execPreemptSave gang s) := by
  unfold execPreemptSave
  (try dsimp only)
  repeat' first
    | with_reducible assumption
    | with_reducible apply OutKeeps.next
    | with_reducible apply State.failSave_keeps
    | with_reducible apply State.saveArea_keeps
    | split

theorem State.restoreOne_keeps (h : Keeps s₀ s) (gang : Nat) (r : List Byte) (m : List Byte) (kept : Tab Stream) (l : Nat) :
    Keeps s₀ (State.restoreOne s gang r m kept l) := by
  unfold State.restoreOne
  repeat' first
    | with_reducible assumption
    | with_reducible apply State.updCoreAt_keeps
    | with_reducible apply State.putSparse_keeps
    | with_reducible apply State.loadPhasers_keeps
    | with_reducible apply State.loadRecord_keeps

theorem State.restorePair_keeps (h : Keeps s₀ s) (g : Gang) (lcn : Nat) (r : List Byte) (m : List Byte) :
    Keeps s₀ (State.restorePair s g lcn r m) := by
  unfold State.restorePair
  repeat' first
    | with_reducible assumption
    | with_reducible apply State.restoreOne_keeps
    | split

theorem State.restoreCore_keeps (h : Keeps s₀ s) (g : Gang) (area : Nat) (nu : Nat) (lcn : Nat) :
    OptKeeps s₀ (State.restoreCore s g area nu lcn) := by
  unfold State.restoreCore
  (try dsimp only)
  repeat' first
    | with_reducible assumption
    | with_reducible exact OptKeeps.none
    | with_reducible apply OptKeeps.some
    | with_reducible apply State.restorePair_keeps
    | split

theorem State.restoreDome_keeps (h : Keeps s₀ s) (g : Gang) (area : Nat) (su : Nat) (nu : Nat) (tower : Nat) :
    OptKeeps s₀ (State.restoreDome s g area su nu tower) := by
  unfold State.restoreDome
  repeat' first
    | with_reducible assumption
    | with_reducible exact OptKeeps.none
    | with_reducible apply OptKeeps.some
    | with_reducible apply State.putSparse_keeps
    | split

theorem State.restoreAll_keeps (h : Keeps s₀ s) (g : Gang) (area : Nat) (su : Nat) (nu : Nat) :
    OptKeeps s₀ (State.restoreAll s g area su nu) := by
  unfold State.restoreAll
  refine OptKeeps.foldl (fun o t ho => ho.bind fun u hu => State.restoreDome_keeps hu g area su nu t) _ ?_
  exact OptKeeps.foldl (fun o l ho => ho.bind fun u hu => State.restoreCore_keeps hu g area nu l) _ (OptKeeps.some h)

theorem execPreemptRestore_keeps (h : Keeps s₀ s) (gang : Nat) :
    OutKeeps s₀ (execPreemptRestore gang s) := by
  unfold execPreemptRestore
  (try dsimp only)
  repeat' first
    | with_reducible assumption
    | with_reducible apply OutKeeps.next
    | with_reducible apply State.updGang_keeps
    | with_reducible refine OptKeeps.get (State.restoreAll_keeps ?_ _ _ _ _) (by assumption)
    | with_reducible apply State.updDom_keeps
    | with_reducible apply State.windowCheck_keeps
    | split
    | fail_if_no_progress with_reducible apply Keeps.same

end Sys2Proof.Machine
end

