-- ==== Sys2Proof/Laws/Keeps/Scalar.lean ====
section
/-!
SUPPORT. Every function of Machine/Scalar.lean that answers a state keeps the focus and the canonical form of memory
(`Keeps`, Laws/Keeps.lean), and every meaning there answers a next state.
-/

namespace Sys2Proof.Machine
variable {s₀ s : State}

theorem State.give_keeps (h : Keeps s₀ s) (d : BitVec 5) (v : Word) :
    Keeps s₀ (State.give s d v) := by
  unfold State.give
  repeat' first
    | with_reducible assumption
    | with_reducible apply State.retire_keeps
    | with_reducible apply State.setG_keeps

theorem scalar3_keeps (h : Keeps s₀ s) (i : Instr) (d : BitVec 5) (a : BitVec 5) (b : BitVec 5) (op : Word → Word → Word) :
    OutKeeps s₀ (scalar3 i d a b op s) := by
  unfold scalar3
  repeat' first
    | with_reducible apply issue_keeps
    | (intros; assumption)

theorem scalarImmS_keeps (h : Keeps s₀ s) (i : Instr) (d : BitVec 5) (a : BitVec 5) (n : BitVec 16) (op : Word → Word → Word) :
    OutKeeps s₀ (scalarImmS i d a n op s) := by
  unfold scalarImmS
  repeat' first
    | with_reducible apply issue_keeps
    | (intros; assumption)

theorem scalarImmZ_keeps (h : Keeps s₀ s) (i : Instr) (d : BitVec 5) (a : BitVec 5) (n : BitVec 16) (op : Word → Word → Word) :
    OutKeeps s₀ (scalarImmZ i d a n op s) := by
  unfold scalarImmZ
  repeat' first
    | with_reducible apply issue_keeps
    | (intros; assumption)

theorem scalarShift_keeps (h : Keeps s₀ s) (i : Instr) (d : BitVec 5) (a : BitVec 5) (n : BitVec 6) (op : Word → Word → Word) :
    OutKeeps s₀ (scalarShift i d a n op s) := by
  unfold scalarShift
  repeat' first
    | with_reducible apply issue_keeps
    | (intros; assumption)

theorem scalarCount_keeps (h : Keeps s₀ s) (i : Instr) (d : BitVec 5) (a : BitVec 5) (w : BitVec 2) (op : Nat → Nat → Nat) :
    OutKeeps s₀ (scalarCount i d a w op s) := by
  unfold scalarCount
  repeat' first
    | with_reducible apply issue_keeps
    | (intros; assumption)

theorem scalarDivide_keeps (h : Keeps s₀ s) (i : Instr) (rem : Bool) (d : BitVec 5) (a : BitVec 5) (b : BitVec 5) (l : BitVec 4) (w : BitVec 1) (u : BitVec 1) :
    OutKeeps s₀ (scalarDivide i rem d a b l w u s) := by
  unfold scalarDivide
  repeat' first
    | with_reducible assumption
    | with_reducible apply issue_keeps
    | with_reducible apply State.retire_keeps
    | with_reducible apply State.results_keeps
    | intro _ _

theorem execAdd_keeps (h : Keeps s₀ s) (d : BitVec 5) (a : BitVec 5) (b : BitVec 5) :
    OutKeeps s₀ (execAdd d a b s) := by
  unfold execAdd
  repeat' first
    | with_reducible assumption
    | with_reducible apply scalar3_keeps

theorem execSub_keeps (h : Keeps s₀ s) (d : BitVec 5) (a : BitVec 5) (b : BitVec 5) :
    OutKeeps s₀ (execSub d a b s) := by
  unfold execSub
  repeat' first
    | with_reducible assumption
    | with_reducible apply scalar3_keeps

theorem execMul_keeps (h : Keeps s₀ s) (d : BitVec 5) (a : BitVec 5) (b : BitVec 5) :
    OutKeeps s₀ (execMul d a b s) := by
  unfold execMul
  repeat' first
    | with_reducible assumption
    | with_reducible apply scalar3_keeps

theorem execMulhS64_keeps (h : Keeps s₀ s) (d : BitVec 5) (a : BitVec 5) (b : BitVec 5) :
    OutKeeps s₀ (execMulhS64 d a b s) := by
  unfold execMulhS64
  repeat' first
    | with_reducible assumption
    | with_reducible apply scalar3_keeps

theorem execMulhB64_keeps (h : Keeps s₀ s) (d : BitVec 5) (a : BitVec 5) (b : BitVec 5) :
    OutKeeps s₀ (execMulhB64 d a b s) := by
  unfold execMulhB64
  repeat' first
    | with_reducible assumption
    | with_reducible apply scalar3_keeps

theorem execAnd_keeps (h : Keeps s₀ s) (d : BitVec 5) (a : BitVec 5) (b : BitVec 5) :
    OutKeeps s₀ (execAnd d a b s) := by
  unfold execAnd
  repeat' first
    | with_reducible assumption
    | with_reducible apply scalar3_keeps

theorem execOr_keeps (h : Keeps s₀ s) (d : BitVec 5) (a : BitVec 5) (b : BitVec 5) :
    OutKeeps s₀ (execOr d a b s) := by
  unfold execOr
  repeat' first
    | with_reducible assumption
    | with_reducible apply scalar3_keeps

theorem execXor_keeps (h : Keeps s₀ s) (d : BitVec 5) (a : BitVec 5) (b : BitVec 5) :
    OutKeeps s₀ (execXor d a b s) := by
  unfold execXor
  repeat' first
    | with_reducible assumption
    | with_reducible apply scalar3_keeps

theorem execAndn_keeps (h : Keeps s₀ s) (d : BitVec 5) (a : BitVec 5) (b : BitVec 5) :
    OutKeeps s₀ (execAndn d a b s) := by
  unfold execAndn
  repeat' first
    | with_reducible assumption
    | with_reducible apply scalar3_keeps

theorem execShl_keeps (h : Keeps s₀ s) (d : BitVec 5) (a : BitVec 5) (b : BitVec 5) :
    OutKeeps s₀ (execShl d a b s) := by
  unfold execShl
  repeat' first
    | with_reducible assumption
    | with_reducible apply scalar3_keeps

theorem execShr_keeps (h : Keeps s₀ s) (d : BitVec 5) (a : BitVec 5) (b : BitVec 5) :
    OutKeeps s₀ (execShr d a b s) := by
  unfold execShr
  repeat' first
    | with_reducible assumption
    | with_reducible apply scalar3_keeps

theorem execSar_keeps (h : Keeps s₀ s) (d : BitVec 5) (a : BitVec 5) (b : BitVec 5) :
    OutKeeps s₀ (execSar d a b s) := by
  unfold execSar
  repeat' first
    | with_reducible assumption
    | with_reducible apply scalar3_keeps

theorem execSlt_keeps (h : Keeps s₀ s) (d : BitVec 5) (a : BitVec 5) (b : BitVec 5) :
    OutKeeps s₀ (execSlt d a b s) := by
  unfold execSlt
  repeat' first
    | with_reducible assumption
    | with_reducible apply scalar3_keeps

theorem execSltb_keeps (h : Keeps s₀ s) (d : BitVec 5) (a : BitVec 5) (b : BitVec 5) :
    OutKeeps s₀ (execSltb d a b s) := by
  unfold execSltb
  repeat' first
    | with_reducible assumption
    | with_reducible apply scalar3_keeps

theorem execMinS64_keeps (h : Keeps s₀ s) (d : BitVec 5) (a : BitVec 5) (b : BitVec 5) :
    OutKeeps s₀ (execMinS64 d a b s) := by
  unfold execMinS64
  repeat' first
    | with_reducible assumption
    | with_reducible apply scalar3_keeps

theorem execMinB64_keeps (h : Keeps s₀ s) (d : BitVec 5) (a : BitVec 5) (b : BitVec 5) :
    OutKeeps s₀ (execMinB64 d a b s) := by
  unfold execMinB64
  repeat' first
    | with_reducible assumption
    | with_reducible apply scalar3_keeps

theorem execMaxS64_keeps (h : Keeps s₀ s) (d : BitVec 5) (a : BitVec 5) (b : BitVec 5) :
    OutKeeps s₀ (execMaxS64 d a b s) := by
  unfold execMaxS64
  repeat' first
    | with_reducible assumption
    | with_reducible apply scalar3_keeps

theorem execMaxB64_keeps (h : Keeps s₀ s) (d : BitVec 5) (a : BitVec 5) (b : BitVec 5) :
    OutKeeps s₀ (execMaxB64 d a b s) := by
  unfold execMaxB64
  repeat' first
    | with_reducible assumption
    | with_reducible apply scalar3_keeps

theorem execClz_keeps (h : Keeps s₀ s) (d : BitVec 5) (a : BitVec 5) (w : BitVec 2) :
    OutKeeps s₀ (execClz d a w s) := by
  unfold execClz
  repeat' first
    | with_reducible assumption
    | with_reducible apply scalarCount_keeps

theorem execFfs_keeps (h : Keeps s₀ s) (d : BitVec 5) (a : BitVec 5) (w : BitVec 2) :
    OutKeeps s₀ (execFfs d a w s) := by
  unfold execFfs
  repeat' first
    | with_reducible assumption
    | with_reducible apply scalarCount_keeps

theorem execPopcnt_keeps (h : Keeps s₀ s) (d : BitVec 5) (a : BitVec 5) (w : BitVec 2) :
    OutKeeps s₀ (execPopcnt d a w s) := by
  unfold execPopcnt
  repeat' first
    | with_reducible assumption
    | with_reducible apply scalarCount_keeps

theorem execSel_keeps (h : Keeps s₀ s) (d : BitVec 5) (a : BitVec 5) (b : BitVec 5) (c : BitVec 5) :
    OutKeeps s₀ (execSel d a b c s) := by
  unfold execSel
  repeat' first
    | with_reducible apply issue_keeps
    | (intros; assumption)

theorem execDiv_keeps (h : Keeps s₀ s) (d : BitVec 5) (a : BitVec 5) (b : BitVec 5) (l : BitVec 4) (w : BitVec 1) (u : BitVec 1) :
    OutKeeps s₀ (execDiv d a b l w u s) := by
  unfold execDiv
  repeat' first
    | with_reducible assumption
    | with_reducible apply scalarDivide_keeps

theorem execRem_keeps (h : Keeps s₀ s) (d : BitVec 5) (a : BitVec 5) (b : BitVec 5) (l : BitVec 4) (w : BitVec 1) (u : BitVec 1) :
    OutKeeps s₀ (execRem d a b l w u s) := by
  unfold execRem
  repeat' first
    | with_reducible assumption
    | with_reducible apply scalarDivide_keeps

theorem execAddi_keeps (h : Keeps s₀ s) (d : BitVec 5) (a : BitVec 5) (n : BitVec 16) :
    OutKeeps s₀ (execAddi d a n s) := by
  unfold execAddi
  repeat' first
    | with_reducible assumption
    | with_reducible apply scalarImmS_keeps

theorem execAndi_keeps (h : Keeps s₀ s) (d : BitVec 5) (a : BitVec 5) (n : BitVec 16) :
    OutKeeps s₀ (execAndi d a n s) := by
  unfold execAndi
  repeat' first
    | with_reducible assumption
    | with_reducible apply scalarImmZ_keeps

theorem execOri_keeps (h : Keeps s₀ s) (d : BitVec 5) (a : BitVec 5) (n : BitVec 16) :
    OutKeeps s₀ (execOri d a n s) := by
  unfold execOri
  repeat' first
    | with_reducible assumption
    | with_reducible apply scalarImmZ_keeps

theorem execXori_keeps (h : Keeps s₀ s) (d : BitVec 5) (a : BitVec 5) (n : BitVec 16) :
    OutKeeps s₀ (execXori d a n s) := by
  unfold execXori
  repeat' first
    | with_reducible assumption
    | with_reducible apply scalarImmZ_keeps

theorem execSlti_keeps (h : Keeps s₀ s) (d : BitVec 5) (a : BitVec 5) (n : BitVec 16) :
    OutKeeps s₀ (execSlti d a n s) := by
  unfold execSlti
  repeat' first
    | with_reducible assumption
    | with_reducible apply scalarImmS_keeps

theorem execSltbi_keeps (h : Keeps s₀ s) (d : BitVec 5) (a : BitVec 5) (n : BitVec 16) :
    OutKeeps s₀ (execSltbi d a n s) := by
  unfold execSltbi
  repeat' first
    | with_reducible assumption
    | with_reducible apply scalarImmS_keeps

theorem execLdhi_keeps (h : Keeps s₀ s) (d : BitVec 5) (a : BitVec 5) (n : BitVec 16) :
    OutKeeps s₀ (execLdhi d a n s) := by
  unfold execLdhi
  repeat' first
    | with_reducible assumption
    | with_reducible apply scalarImmS_keeps

theorem execShli_keeps (h : Keeps s₀ s) (d : BitVec 5) (a : BitVec 5) (n : BitVec 6) :
    OutKeeps s₀ (execShli d a n s) := by
  unfold execShli
  repeat' first
    | with_reducible assumption
    | with_reducible apply scalarShift_keeps

theorem execShri_keeps (h : Keeps s₀ s) (d : BitVec 5) (a : BitVec 5) (n : BitVec 6) :
    OutKeeps s₀ (execShri d a n s) := by
  unfold execShri
  repeat' first
    | with_reducible assumption
    | with_reducible apply scalarShift_keeps

theorem execSari_keeps (h : Keeps s₀ s) (d : BitVec 5) (a : BitVec 5) (n : BitVec 6) :
    OutKeeps s₀ (execSari d a n s) := by
  unfold execSari
  repeat' first
    | with_reducible assumption
    | with_reducible apply scalarShift_keeps

end Sys2Proof.Machine
end

