-- ==== Sys2Proof/Laws/Keeps/VectorInt.lean ====
section
/-!
SUPPORT. Every function of Machine/VectorInt.lean that answers a state keeps the focus and the canonical form of memory
(`Keeps`, Laws/Keeps.lean), and every meaning there answers a next state.
-/

namespace Sys2Proof.Machine
variable {s₀ s : State}

theorem vecDivide_keeps (h : Keeps s₀ s) (i : Instr) (rem : Bool) (signed : Bool) (d : BitVec 6) (a : BitVec 6) (l : BitVec 4) (t : BitVec 2) (m : BitVec 3) (z : BitVec 1) :
    OutKeeps s₀ (vecDivide i rem signed d a l t m z s) := by
  unfold vecDivide
  repeat' first
    | with_reducible assumption
    | with_reducible apply issue_keeps
    | with_reducible apply State.vector_keeps
    | with_reducible apply State.vput_keeps
    | intro _ _

theorem execVaddInt_keeps (h : Keeps s₀ s) (d : BitVec 6) (a : BitVec 6) (b : BitVec 6) (m : BitVec 3) (z : BitVec 1) (t : BitVec 2) :
    OutKeeps s₀ (execVaddInt d a b m z t s) := by
  unfold execVaddInt
  repeat' first
    | with_reducible assumption
    | with_reducible apply vecL2_keeps

theorem execVsubInt_keeps (h : Keeps s₀ s) (d : BitVec 6) (a : BitVec 6) (b : BitVec 6) (m : BitVec 3) (z : BitVec 1) (t : BitVec 2) :
    OutKeeps s₀ (execVsubInt d a b m z t s) := by
  unfold execVsubInt
  repeat' first
    | with_reducible assumption
    | with_reducible apply vecL2_keeps

theorem execVmulInt_keeps (h : Keeps s₀ s) (d : BitVec 6) (a : BitVec 6) (b : BitVec 6) (m : BitVec 3) (z : BitVec 1) (t : BitVec 2) :
    OutKeeps s₀ (execVmulInt d a b m z t s) := by
  unfold execVmulInt
  repeat' first
    | with_reducible assumption
    | with_reducible apply vecN2_keeps

theorem execVnegInt_keeps (h : Keeps s₀ s) (d : BitVec 6) (a : BitVec 6) (m : BitVec 3) (z : BitVec 1) (t : BitVec 2) :
    OutKeeps s₀ (execVnegInt d a m z t s) := by
  unfold execVnegInt
  repeat' first
    | with_reducible assumption
    | with_reducible apply vecL1_keeps

theorem execVminS_keeps (h : Keeps s₀ s) (d : BitVec 6) (a : BitVec 6) (b : BitVec 6) (m : BitVec 3) (z : BitVec 1) (t : BitVec 2) :
    OutKeeps s₀ (execVminS d a b m z t s) := by
  unfold execVminS
  repeat' first
    | with_reducible assumption
    | with_reducible apply vecN2_keeps

theorem execVminB_keeps (h : Keeps s₀ s) (d : BitVec 6) (a : BitVec 6) (b : BitVec 6) (m : BitVec 3) (z : BitVec 1) (t : BitVec 2) :
    OutKeeps s₀ (execVminB d a b m z t s) := by
  unfold execVminB
  repeat' first
    | with_reducible assumption
    | with_reducible apply vecN2_keeps

theorem execVmaxS_keeps (h : Keeps s₀ s) (d : BitVec 6) (a : BitVec 6) (b : BitVec 6) (m : BitVec 3) (z : BitVec 1) (t : BitVec 2) :
    OutKeeps s₀ (execVmaxS d a b m z t s) := by
  unfold execVmaxS
  repeat' first
    | with_reducible assumption
    | with_reducible apply vecN2_keeps

theorem execVmaxB_keeps (h : Keeps s₀ s) (d : BitVec 6) (a : BitVec 6) (b : BitVec 6) (m : BitVec 3) (z : BitVec 1) (t : BitVec 2) :
    OutKeeps s₀ (execVmaxB d a b m z t s) := by
  unfold execVmaxB
  repeat' first
    | with_reducible assumption
    | with_reducible apply vecN2_keeps

theorem execVabsInt_keeps (h : Keeps s₀ s) (d : BitVec 6) (a : BitVec 6) (m : BitVec 3) (z : BitVec 1) (t : BitVec 2) :
    OutKeeps s₀ (execVabsInt d a m z t s) := by
  unfold execVabsInt
  repeat' first
    | with_reducible assumption
    | with_reducible apply vecN1_keeps

theorem execVshl_keeps (h : Keeps s₀ s) (d : BitVec 6) (a : BitVec 6) (b : BitVec 6) (m : BitVec 3) (z : BitVec 1) (t : BitVec 2) :
    OutKeeps s₀ (execVshl d a b m z t s) := by
  unfold execVshl
  repeat' first
    | with_reducible assumption
    | with_reducible apply vecN2_keeps

theorem execVshr_keeps (h : Keeps s₀ s) (d : BitVec 6) (a : BitVec 6) (b : BitVec 6) (m : BitVec 3) (z : BitVec 1) (t : BitVec 2) :
    OutKeeps s₀ (execVshr d a b m z t s) := by
  unfold execVshr
  repeat' first
    | with_reducible assumption
    | with_reducible apply vecN2_keeps

theorem execVsar_keeps (h : Keeps s₀ s) (d : BitVec 6) (a : BitVec 6) (b : BitVec 6) (m : BitVec 3) (z : BitVec 1) (t : BitVec 2) :
    OutKeeps s₀ (execVsar d a b m z t s) := by
  unfold execVsar
  repeat' first
    | with_reducible assumption
    | with_reducible apply vecN2_keeps

theorem execVclz_keeps (h : Keeps s₀ s) (d : BitVec 6) (a : BitVec 6) (m : BitVec 3) (z : BitVec 1) (t : BitVec 2) :
    OutKeeps s₀ (execVclz d a m z t s) := by
  unfold execVclz
  repeat' first
    | with_reducible assumption
    | with_reducible apply vecN1_keeps

theorem execVffs_keeps (h : Keeps s₀ s) (d : BitVec 6) (a : BitVec 6) (m : BitVec 3) (z : BitVec 1) (t : BitVec 2) :
    OutKeeps s₀ (execVffs d a m z t s) := by
  unfold execVffs
  repeat' first
    | with_reducible assumption
    | with_reducible apply vecN1_keeps

theorem execVpop_keeps (h : Keeps s₀ s) (d : BitVec 6) (a : BitVec 6) (m : BitVec 3) (z : BitVec 1) (t : BitVec 2) :
    OutKeeps s₀ (execVpop d a m z t s) := by
  unfold execVpop
  repeat' first
    | with_reducible assumption
    | with_reducible apply vecN1_keeps

theorem execVand_keeps (h : Keeps s₀ s) (d : BitVec 6) (a : BitVec 6) (b : BitVec 6) (m : BitVec 3) (z : BitVec 1) :
    OutKeeps s₀ (execVand d a b m z s) := by
  unfold execVand
  repeat' first
    | with_reducible assumption
    | with_reducible apply vecN2_keeps

theorem execVor_keeps (h : Keeps s₀ s) (d : BitVec 6) (a : BitVec 6) (b : BitVec 6) (m : BitVec 3) (z : BitVec 1) :
    OutKeeps s₀ (execVor d a b m z s) := by
  unfold execVor
  repeat' first
    | with_reducible assumption
    | with_reducible apply vecN2_keeps

theorem execVxor_keeps (h : Keeps s₀ s) (d : BitVec 6) (a : BitVec 6) (b : BitVec 6) (m : BitVec 3) (z : BitVec 1) :
    OutKeeps s₀ (execVxor d a b m z s) := by
  unfold execVxor
  repeat' first
    | with_reducible assumption
    | with_reducible apply vecN2_keeps

theorem execVandn_keeps (h : Keeps s₀ s) (d : BitVec 6) (a : BitVec 6) (b : BitVec 6) (m : BitVec 3) (z : BitVec 1) :
    OutKeeps s₀ (execVandn d a b m z s) := by
  unfold execVandn
  repeat' first
    | with_reducible assumption
    | with_reducible apply vecN2_keeps

theorem execVdivS_keeps (h : Keeps s₀ s) (d : BitVec 6) (a : BitVec 6) (l : BitVec 4) (t : BitVec 2) (m : BitVec 3) (z : BitVec 1) :
    OutKeeps s₀ (execVdivS d a l t m z s) := by
  unfold execVdivS
  repeat' first
    | with_reducible assumption
    | with_reducible apply vecDivide_keeps

theorem execVdivB_keeps (h : Keeps s₀ s) (d : BitVec 6) (a : BitVec 6) (l : BitVec 4) (t : BitVec 2) (m : BitVec 3) (z : BitVec 1) :
    OutKeeps s₀ (execVdivB d a l t m z s) := by
  unfold execVdivB
  repeat' first
    | with_reducible assumption
    | with_reducible apply vecDivide_keeps

theorem execVremS_keeps (h : Keeps s₀ s) (d : BitVec 6) (a : BitVec 6) (l : BitVec 4) (t : BitVec 2) (m : BitVec 3) (z : BitVec 1) :
    OutKeeps s₀ (execVremS d a l t m z s) := by
  unfold execVremS
  repeat' first
    | with_reducible assumption
    | with_reducible apply vecDivide_keeps

theorem execVremB_keeps (h : Keeps s₀ s) (d : BitVec 6) (a : BitVec 6) (l : BitVec 4) (t : BitVec 2) (m : BitVec 3) (z : BitVec 1) :
    OutKeeps s₀ (execVremB d a l t m z s) := by
  unfold execVremB
  repeat' first
    | with_reducible assumption
    | with_reducible apply vecDivide_keeps

theorem State.setPred_keeps (h : Keeps s₀ s) (k : BitVec 3) (v : BitVec 256) :
    Keeps s₀ (State.setPred s k v) := by
  unfold State.setPred
  repeat' first
    | with_reducible assumption
    | with_reducible apply State.updCore_keeps

theorem compare_keeps (h : Keeps s₀ s) (i : Instr) (p : BitVec 3) (a : BitVec 6) (b : BitVec 6) (m : BitVec 3) (z : Bool) (w : Nat) (op : Nat → Nat → Bool × Flags) :
    OutKeeps s₀ (compare i p a b m z w op s) := by
  unfold compare
  repeat' first
    | with_reducible assumption
    | with_reducible apply issue_keeps
    | with_reducible apply State.vector_keeps
    | with_reducible apply State.unlessTrapped_keeps
    | with_reducible apply State.retire_keeps
    | with_reducible apply State.raise_keeps
    | with_reducible apply State.setPred_keeps
    | with_reducible apply State.pops_keeps
    | intro _ _

theorem execVcmpS_keeps (h : Keeps s₀ s) (c : BitVec 3) (p : BitVec 3) (a : BitVec 6) (b : BitVec 6) (m : BitVec 3) (z : BitVec 1) (t : BitVec 2) :
    OutKeeps s₀ (execVcmpS c p a b m z t s) := by
  unfold execVcmpS
  repeat' first
    | with_reducible assumption
    | with_reducible apply compare_keeps

theorem execVcmpB_keeps (h : Keeps s₀ s) (c : BitVec 3) (p : BitVec 3) (a : BitVec 6) (b : BitVec 6) (m : BitVec 3) (z : BitVec 1) (t : BitVec 2) :
    OutKeeps s₀ (execVcmpB c p a b m z t s) := by
  unfold execVcmpB
  repeat' first
    | with_reducible assumption
    | with_reducible apply compare_keeps

theorem execVcmpF_keeps (h : Keeps s₀ s) (c : BitVec 3) (p : BitVec 3) (a : BitVec 6) (b : BitVec 6) (m : BitVec 3) (z : BitVec 1) (t : BitVec 2) :
    OutKeeps s₀ (execVcmpF c p a b m z t s) := by
  unfold execVcmpF
  repeat' first
    | with_reducible assumption
    | with_reducible apply compare_keeps

theorem State.vwhole_keeps (h : Keeps s₀ s) (fs : List (BitVec 6)) (d : BitVec 6) (x : BitVec 2048) (t : BitVec 2) (fl : Flags) :
    Keeps s₀ (State.vwhole s fs d x t fl) := by
  unfold State.vwhole
  repeat' first
    | with_reducible assumption
    | with_reducible apply State.vdone_keeps

theorem execVsel_keeps (h : Keeps s₀ s) (d : BitVec 6) (a : BitVec 6) (b : BitVec 6) (m : BitVec 3) :
    OutKeeps s₀ (execVsel d a b m s) := by
  unfold execVsel
  repeat' first
    | with_reducible assumption
    | with_reducible apply issue_keeps
    | with_reducible apply State.vector_keeps
    | with_reducible apply State.vwhole_keeps
    | intro _ _

theorem execVperm_keeps (h : Keeps s₀ s) (d : BitVec 6) (a : BitVec 6) (b : BitVec 6) (m : BitVec 3) (w : BitVec 2) :
    OutKeeps s₀ (execVperm d a b m w s) := by
  unfold execVperm
  repeat' first
    | with_reducible assumption
    | with_reducible apply issue_keeps
    | with_reducible apply State.vector_keeps
    | with_reducible apply State.vput_keeps
    | intro _ _

theorem execVbcast_keeps (h : Keeps s₀ s) (d : BitVec 6) (a : BitVec 6) (t : BitVec 2) (m : BitVec 3) :
    OutKeeps s₀ (execVbcast d a t m s) := by
  unfold execVbcast
  repeat' first
    | with_reducible assumption
    | with_reducible apply issue_keeps
    | with_reducible apply State.vector_keeps
    | with_reducible apply State.vput_keeps
    | intro _ _

theorem execVext_keeps (h : Keeps s₀ s) (d : BitVec 6) (a : BitVec 6) (t : BitVec 2) :
    OutKeeps s₀ (execVext d a t s) := by
  unfold execVext
  repeat' first
    | with_reducible assumption
    | with_reducible apply issue_keeps
    | with_reducible apply State.vector_keeps
    | with_reducible apply State.vdone_keeps
    | intro _ _

theorem vecMatch_keeps (h : Keeps s₀ s) (i : Instr) (d : BitVec 6) (a : BitVec 6) (m : BitVec 3) (w : Nat) :
    OutKeeps s₀ (vecMatch i d a m w s) := by
  unfold vecMatch
  repeat' first
    | with_reducible assumption
    | with_reducible apply issue_keeps
    | with_reducible apply State.vector_keeps
    | with_reducible apply State.vwhole_keeps
    | intro _ _

theorem execVmatchB32_keeps (h : Keeps s₀ s) (d : BitVec 6) (a : BitVec 6) (m : BitVec 3) :
    OutKeeps s₀ (execVmatchB32 d a m s) := by
  unfold execVmatchB32
  repeat' first
    | with_reducible assumption
    | with_reducible apply vecMatch_keeps

theorem execVmatchB64_keeps (h : Keeps s₀ s) (d : BitVec 6) (a : BitVec 6) (m : BitVec 3) :
    OutKeeps s₀ (execVmatchB64 d a m s) := by
  unfold execVmatchB64
  repeat' first
    | with_reducible assumption
    | with_reducible apply vecMatch_keeps

theorem execVtag_keeps (h : Keeps s₀ s) (d : BitVec 6) (a : BitVec 6) (c : BitVec 2) :
    OutKeeps s₀ (execVtag d a c s) := by
  unfold execVtag
  repeat' first
    | with_reducible assumption
    | with_reducible apply issue_keeps
    | with_reducible apply State.vector_keeps
    | with_reducible apply State.vwhole_keeps
    | intro _ _

theorem execVwhile_keeps (h : Keeps s₀ s) (p : BitVec 3) (a : BitVec 6) (b : BitVec 6) (w : BitVec 2) :
    OutKeeps s₀ (execVwhile p a b w s) := by
  unfold execVwhile
  repeat' first
    | with_reducible apply issue_keeps
    | (intros; assumption)

theorem execVlq_keeps (h : Keeps s₀ s) (d : BitVec 6) :
    OutKeeps s₀ (execVlq d s) := by
  unfold execVlq
  repeat' first
    | with_reducible apply issue_keeps
    | (intros; assumption)

end Sys2Proof.Machine
end

