-- ==== Sys2Proof/Laws/Keeps/VectorFloat.lean ====
section
/-!
SUPPORT. Every function of Machine/VectorFloat.lean that answers a state keeps the focus and the canonical form of memory
(`Keeps`, Laws/Keeps.lean), and every meaning there answers a next state.
-/

namespace Sys2Proof.Machine
variable {s₀ s : State}

theorem execVaddF_keeps (h : Keeps s₀ s) (d : BitVec 6) (a : BitVec 6) (b : BitVec 6) (m : BitVec 3) (z : BitVec 1) (t : BitVec 2) :
    OutKeeps s₀ (execVaddF d a b m z t s) := by
  unfold execVaddF
  repeat' first
    | with_reducible assumption
    | with_reducible apply vecL2_keeps

theorem execVsubF_keeps (h : Keeps s₀ s) (d : BitVec 6) (a : BitVec 6) (b : BitVec 6) (m : BitVec 3) (z : BitVec 1) (t : BitVec 2) :
    OutKeeps s₀ (execVsubF d a b m z t s) := by
  unfold execVsubF
  repeat' first
    | with_reducible assumption
    | with_reducible apply vecL2_keeps

theorem execVmulF_keeps (h : Keeps s₀ s) (d : BitVec 6) (a : BitVec 6) (b : BitVec 6) (m : BitVec 3) (z : BitVec 1) (t : BitVec 2) :
    OutKeeps s₀ (execVmulF d a b m z t s) := by
  unfold execVmulF
  repeat' first
    | with_reducible assumption
    | with_reducible apply vecN2_keeps

theorem execVfma_keeps (h : Keeps s₀ s) (d : BitVec 6) (a : BitVec 6) (b : BitVec 6) (m : BitVec 3) (z : BitVec 1) (t : BitVec 2) :
    OutKeeps s₀ (execVfma d a b m z t s) := by
  unfold execVfma
  repeat' first
    | with_reducible assumption
    | with_reducible apply vecN3_keeps

theorem execVminF_keeps (h : Keeps s₀ s) (d : BitVec 6) (a : BitVec 6) (b : BitVec 6) (m : BitVec 3) (z : BitVec 1) (t : BitVec 2) :
    OutKeeps s₀ (execVminF d a b m z t s) := by
  unfold execVminF
  repeat' first
    | with_reducible assumption
    | with_reducible apply vecN2_keeps

theorem execVmaxF_keeps (h : Keeps s₀ s) (d : BitVec 6) (a : BitVec 6) (b : BitVec 6) (m : BitVec 3) (z : BitVec 1) (t : BitVec 2) :
    OutKeeps s₀ (execVmaxF d a b m z t s) := by
  unfold execVmaxF
  repeat' first
    | with_reducible assumption
    | with_reducible apply vecN2_keeps

theorem execVabsF_keeps (h : Keeps s₀ s) (d : BitVec 6) (a : BitVec 6) (m : BitVec 3) (z : BitVec 1) (t : BitVec 2) :
    OutKeeps s₀ (execVabsF d a m z t s) := by
  unfold execVabsF
  repeat' first
    | with_reducible assumption
    | with_reducible apply vecN1_keeps

theorem execVnegF_keeps (h : Keeps s₀ s) (d : BitVec 6) (a : BitVec 6) (m : BitVec 3) (z : BitVec 1) (t : BitVec 2) :
    OutKeeps s₀ (execVnegF d a m z t s) := by
  unfold execVnegF
  repeat' first
    | with_reducible assumption
    | with_reducible apply vecL1_keeps

theorem execVexp2_keeps (h : Keeps s₀ s) (d : BitVec 6) (a : BitVec 6) (l : BitVec 4) (t : BitVec 2) (m : BitVec 3) (z : BitVec 1) :
    OutKeeps s₀ (execVexp2 d a l t m z s) := by
  unfold execVexp2
  repeat' first
    | with_reducible assumption
    | with_reducible apply vecN1_keeps

theorem execVlog2_keeps (h : Keeps s₀ s) (d : BitVec 6) (a : BitVec 6) (l : BitVec 4) (t : BitVec 2) (m : BitVec 3) (z : BitVec 1) :
    OutKeeps s₀ (execVlog2 d a l t m z s) := by
  unfold execVlog2
  repeat' first
    | with_reducible assumption
    | with_reducible apply vecN1_keeps

theorem execVrcp_keeps (h : Keeps s₀ s) (d : BitVec 6) (a : BitVec 6) (l : BitVec 4) (t : BitVec 2) (m : BitVec 3) (z : BitVec 1) :
    OutKeeps s₀ (execVrcp d a l t m z s) := by
  unfold execVrcp
  repeat' first
    | with_reducible assumption
    | with_reducible apply vecN1_keeps

theorem execVrsq_keeps (h : Keeps s₀ s) (d : BitVec 6) (a : BitVec 6) (l : BitVec 4) (t : BitVec 2) (m : BitVec 3) (z : BitVec 1) :
    OutKeeps s₀ (execVrsq d a l t m z s) := by
  unfold execVrsq
  repeat' first
    | with_reducible assumption
    | with_reducible apply vecN1_keeps

theorem execVtanh_keeps (h : Keeps s₀ s) (d : BitVec 6) (a : BitVec 6) (l : BitVec 4) (t : BitVec 2) (m : BitVec 3) (z : BitVec 1) :
    OutKeeps s₀ (execVtanh d a l t m z s) := by
  unfold execVtanh
  repeat' first
    | with_reducible assumption
    | with_reducible apply vecN1_keeps

theorem execVgelu_keeps (h : Keeps s₀ s) (d : BitVec 6) (a : BitVec 6) (l : BitVec 4) (t : BitVec 2) (m : BitVec 3) (z : BitVec 1) :
    OutKeeps s₀ (execVgelu d a l t m z s) := by
  unfold execVgelu
  repeat' first
    | with_reducible assumption
    | with_reducible apply vecN1_keeps

theorem execVcvt_keeps (h : Keeps s₀ s) (d : BitVec 6) (a : BitVec 6) (e : BitVec 4) (c : BitVec 2) (m : BitVec 3) (z : BitVec 1) (u : BitVec 2) :
    OutKeeps s₀ (execVcvt d a e c m z u s) := by
  unfold execVcvt
  repeat' first
    | with_reducible assumption
    | with_reducible apply issue_keeps
    | with_reducible apply State.vector_keeps
    | with_reducible apply State.vwhole_keeps
    | intro _ _

theorem execVpack_keeps (h : Keeps s₀ s) (d : BitVec 6) (a : BitVec 6) (f : BitVec 2) :
    OutKeeps s₀ (execVpack d a f s) := by
  unfold execVpack
  repeat' first
    | with_reducible assumption
    | with_reducible apply issue_keeps
    | with_reducible apply State.vector_keeps
    | with_reducible apply State.vwhole_keeps
    | intro _ _

theorem execVunpack_keeps (h : Keeps s₀ s) (d : BitVec 6) (a : BitVec 6) (f : BitVec 2) :
    OutKeeps s₀ (execVunpack d a f s) := by
  unfold execVunpack
  repeat' first
    | with_reducible assumption
    | with_reducible apply issue_keeps
    | with_reducible apply State.vector_keeps
    | with_reducible apply State.vwhole_keeps
    | intro _ _

theorem execVdot_keeps (h : Keeps s₀ s) (d : BitVec 6) (a : BitVec 6) (b : BitVec 6) (m : BitVec 3) (z : BitVec 1) (f : BitVec 2) :
    OutKeeps s₀ (execVdot d a b m z f s) := by
  unfold execVdot
  repeat' first
    | with_reducible assumption
    | with_reducible apply issue_keeps
    | with_reducible apply State.vector_keeps
    | with_reducible apply State.vput_keeps
    | intro _ _

theorem execVred_keeps (h : Keeps s₀ s) (d : BitVec 6) (a : BitVec 6) (o : BitVec 3) (t : BitVec 2) (m : BitVec 3) :
    OutKeeps s₀ (execVred d a o t m s) := by
  unfold execVred
  repeat' first
    | with_reducible assumption
    | with_reducible apply issue_keeps
    | with_reducible apply State.vector_keeps
    | with_reducible apply State.vwhole_keeps
    | intro _ _

theorem haarPair_keeps (h : Keeps s₀ s) (i : Instr) (fwd : Bool) (d : BitVec 6) (a : BitVec 6) (b : BitVec 6) (m : BitVec 3) :
    OutKeeps s₀ (haarPair i fwd d a b m s) := by
  unfold haarPair
  repeat' first
    | with_reducible assumption
    | with_reducible apply issue_keeps
    | with_reducible apply State.vector_keeps
    | with_reducible apply State.vdone_keeps
    | intro _ _

theorem execVhaarF_keeps (h : Keeps s₀ s) (d : BitVec 6) (a : BitVec 6) (b : BitVec 6) (m : BitVec 3) :
    OutKeeps s₀ (execVhaarF d a b m s) := by
  unfold execVhaarF
  repeat' first
    | with_reducible assumption
    | with_reducible apply haarPair_keeps

theorem execVhaarI_keeps (h : Keeps s₀ s) (d : BitVec 6) (a : BitVec 6) (b : BitVec 6) (m : BitVec 3) :
    OutKeeps s₀ (execVhaarI d a b m s) := by
  unfold execVhaarI
  repeat' first
    | with_reducible assumption
    | with_reducible apply haarPair_keeps

theorem haarLane_keeps (h : Keeps s₀ s) (i : Instr) (fwd : Bool) (d : BitVec 6) (a : BitVec 6) (n : BitVec 3) :
    OutKeeps s₀ (haarLane i fwd d a n s) := by
  unfold haarLane
  repeat' first
    | with_reducible assumption
    | with_reducible apply issue_keeps
    | with_reducible apply State.vector_keeps
    | with_reducible apply State.vwhole_keeps
    | intro _ _

theorem execVhaarFL_keeps (h : Keeps s₀ s) (d : BitVec 6) (a : BitVec 6) (n : BitVec 3) :
    OutKeeps s₀ (execVhaarFL d a n s) := by
  unfold execVhaarFL
  repeat' first
    | with_reducible assumption
    | with_reducible apply haarLane_keeps

theorem execVhaarIL_keeps (h : Keeps s₀ s) (d : BitVec 6) (a : BitVec 6) (n : BitVec 3) :
    OutKeeps s₀ (execVhaarIL d a n s) := by
  unfold execVhaarIL
  repeat' first
    | with_reducible assumption
    | with_reducible apply haarLane_keeps

theorem execVsca_keeps (h : Keeps s₀ s) (d : BitVec 6) (a : BitVec 6) (b : BitVec 6) (m : BitVec 3) :
    OutKeeps s₀ (execVsca d a b m s) := by
  unfold execVsca
  repeat' first
    | with_reducible assumption
    | with_reducible apply issue_keeps
    | with_reducible apply State.vector_keeps
    | with_reducible apply State.vput_keeps
    | intro _ _

end Sys2Proof.Machine
end

