-- ==== Sys2Proof/Laws/Keeps/VectorMem.lean ====
section
/-!
SUPPORT. Every function of Machine/VectorMem.lean that answers a state keeps the focus and the canonical form of memory
(`Keeps`, Laws/Keeps.lean), and every meaning there answers a next state.
-/

namespace Sys2Proof.Machine
variable {s₀ s : State}

theorem State.vload_keeps (h : Keeps s₀ s) (fs : List (BitVec 6)) (d : BitVec 6) (m : BitVec 3) (z : Bool) (w : Nat) (lk : Nat) (pf : Flags) (accs : List (List Nat)) :
    Keeps s₀ (State.vload s fs d m z w lk pf accs) := by
  unfold State.vload
  repeat' first
    | with_reducible assumption
    | with_reducible apply State.loadReady_keeps
    | with_reducible apply State.unlessTrapped_keeps
    | with_reducible apply State.loadPerform_keeps
    | with_reducible apply State.vdone_keeps
    | intro _ _ _
    | intro _ _

theorem execVld_keeps (h : Keeps s₀ s) (d : BitVec 6) (a : BitVec 6) (b : BitVec 6) (m : BitVec 3) (z : BitVec 1) (l : BitVec 4) :
    OutKeeps s₀ (execVld d a b m z l s) := by
  unfold execVld
  repeat' first
    | with_reducible assumption
    | with_reducible apply issue_keeps
    | with_reducible apply State.vector_keeps
    | with_reducible apply State.trap_keeps
    | with_reducible apply State.vload_keeps
    | split
    | intro _ _

theorem execVst_keeps (h : Keeps s₀ s) (d : BitVec 6) (a : BitVec 6) (b : BitVec 6) (m : BitVec 3) :
    OutKeeps s₀ (execVst d a b m s) := by
  unfold execVst
  (try dsimp only)
  repeat' first
    | with_reducible assumption
    | with_reducible apply issue_keeps
    | with_reducible apply State.vector_keeps
    | with_reducible apply State.trap_keeps
    | with_reducible apply State.stall_keeps
    | with_reducible apply State.unlessTrapped_keeps
    | with_reducible apply State.updCx_keeps
    | with_reducible apply State.appendStore_keeps
    | with_reducible apply State.retire_keeps
    | with_reducible apply State.raise_keeps
    | with_reducible apply State.pops_keeps
    | split
    | intro _ _

theorem execVlds_keeps (h : Keeps s₀ s) (d : BitVec 6) (a : BitVec 6) (b : BitVec 6) (m : BitVec 3) (z : BitVec 1) (w : BitVec 2) (l : BitVec 2) :
    OutKeeps s₀ (execVlds d a b m z w l s) := by
  unfold execVlds
  (try dsimp only)
  repeat' first
    | with_reducible assumption
    | with_reducible apply issue_keeps
    | with_reducible apply State.vector_keeps
    | with_reducible apply State.trap_keeps
    | with_reducible apply State.vload_keeps
    | split
    | intro _ _

theorem execVgath_keeps (h : Keeps s₀ s) (d : BitVec 6) (a : BitVec 6) (b : BitVec 6) (m : BitVec 3) (z : BitVec 1) (w : BitVec 2) (l : BitVec 2) :
    OutKeeps s₀ (execVgath d a b m z w l s) := by
  unfold execVgath
  (try dsimp only)
  repeat' first
    | with_reducible assumption
    | with_reducible apply issue_keeps
    | with_reducible apply State.vector_keeps
    | with_reducible apply State.trap_keeps
    | with_reducible apply State.vload_keeps
    | split
    | intro _ _

theorem State.scatterOne_keeps (h : Keeps s₀ s) (n : Nat) (ea : Word) (v : Nat) :
    Keeps s₀ (State.scatterOne s n ea v) := by
  unfold State.scatterOne
  repeat' first
    | with_reducible assumption
    | with_reducible apply State.updCx_keeps
    | with_reducible apply State.appendStore_keeps
    | split

theorem State.scatter_keeps (h : Keeps s₀ s) (n : Nat) (go : State → State) (y3 : List (Word × Nat)) (hgo : ∀ u0, Keeps s₀ u0 → Keeps s₀ (go u0)) :
    Keeps s₀ (State.scatter s n go y3) := by
  induction y3 generalizing s with
  | nil => exact hgo _ h
  | cons e t ih =>
    obtain ⟨ea, v⟩ := e
    unfold State.scatter
    split
    · exact State.stall_keeps h _
    · exact ih (State.updCx_keeps (State.scatterOne_keeps h _ _ _) _)

theorem execVscat_keeps (h : Keeps s₀ s) (d : BitVec 6) (a : BitVec 6) (b : BitVec 6) (m : BitVec 3) (w : BitVec 2) :
    OutKeeps s₀ (execVscat d a b m w s) := by
  unfold execVscat
  (try dsimp only)
  repeat' first
    | with_reducible assumption
    | with_reducible apply issue_keeps
    | with_reducible apply State.vector_keeps
    | with_reducible apply State.trap_keeps
    | with_reducible apply State.unlessTrapped_keeps
    | with_reducible apply State.scatter_keeps
    | with_reducible apply State.retire_keeps
    | with_reducible apply State.raise_keeps
    | with_reducible apply State.pops_keeps
    | split
    | intro _ _

end Sys2Proof.Machine
end

