-- ==== Sys2Proof/Laws/Scalar.lean ====
section
/-!
SUPPORT. What the shared operations of the scalar instructions do when the instruction may issue at once: results of one register,
immediates, long-latency results, branches and jumps.
-/

namespace Sys2Proof.Machine

/-! ## One register result -/

/-- The state after issue goes on from where the state before it stood. -/
theorem State.advances_begin {s u : State} (pc : u.cx.pc = s.begin.cx.pc) (priv : u.cx.priv = s.begin.cx.priv)
    (ret : u.cx.retired = s.begin.cx.retired) (sr : u.cx.sr = s.begin.cx.sr) : State.advances s u.retire :=
  State.advances_of (pc.trans s.begin_near.cx.pc) (priv.trans s.begin_near.cx.priv) (ret.trans s.begin_near.cx.retired)
    fun n _ _ => by simp only [Ctx.reg, sr, s.begin_near.cx.sr]

theorem State.g_retire (s : State) (r : BitVec 5) : s.retire.g r = s.g r :=
  (State.retire_frame Frame.none s).2.2.2.2.2.2.2.2.2.1 r (by simp [Frame.none])

theorem State.g_jump (s : State) (a : BitVec 48) (r : BitVec 5) : (s.jump a).g r = s.g r := by
  simp only [State.g, State.cx_jump]; rfl

theorem State.g_setG (s : State) (r r' : BitVec 5) (v : Word) : (s.setG r v).g r' = if r' = r ∧ r ≠ 0 then v else s.g r' := by
  simp only [State.g, State.cx_setG, Ctx.gr_setGr]

theorem State.g_setG_same (s : State) (r : BitVec 5) (v : Word) : (s.setG r v).g r = if r = 0 then 0 else v := by
  rw [State.g_setG]
  by_cases h : r = 0
  · rw [if_neg fun e => e.2 h, h]
    rfl
  · rw [if_pos ⟨rfl, h⟩, if_neg h]

/-- What `give` leaves, seen from before the issue. -/
theorem State.gives_give (s : State) (d : BitVec 5) (v : Word) : s.gives (s.begin.give d v) d v :=
  ⟨(State.g_retire ..).trans (State.g_setG_same ..),
    State.advances_begin (by simp) (by simp) (by simp) (by simp),
    ((State.keeps_near _ s.begin_near).trans (State.keeps_setG (by simp))).trans (State.retire_frame ..)⟩

/-- A three-register operation that may issue completes with its result (R74). -/
theorem scalar3_next {s : State} {i : Instr} {d a b : BitVec 5} {op : Word → Word → Word} {v : Word} (h : s.ready i = true)
    (hv : v = op (s.g a) (s.g b)) : ∃ t, scalar3 i d a b op s = .next t ∧ s.gives t d v := by
  subst hv
  exact ⟨_, issue_ready h _, s.begin_near.g a ▸ s.begin_near.g b ▸ s.gives_give ..⟩

/-- A count that may issue completes with its result (R75). -/
theorem scalarCount_next {s : State} {i : Instr} {d a : BitVec 5} {w : BitVec 2} {op : Nat → Nat → Nat} {v : Nat}
    (h : s.ready i = true) (hv : v = op (8 * 2 ^ w.toNat) ((s.g a).toNat % 2 ^ (8 * 2 ^ w.toNat))) :
    ∃ t, scalarCount i d a w op s = .next t ∧ s.gives t d (BitVec.ofNat 64 v) := by
  subst hv
  exact ⟨_, issue_ready h _, s.begin_near.g a ▸ s.gives_give ..⟩

/-! ## Immediates (R48) -/

/-- The hint payload an instruction sees at its issue is that of a hint bound to it. -/
theorem State.begin_imm (s : State) : s.begin.cx.hint.imm = s.widening := by
  rw [State.begin_hint]
  unfold State.dropStaleHint State.widening
  split
  · rename_i h
    obtain h | h := h
    · rw [h]; split <;> rfl
    · rw [if_pos h]
  · rename_i h
    rw [if_neg fun e => h (.inr e), State.cx_updCx]
    rfl

/-- A sign-extended immediate form that may issue completes with its result (R76). -/
theorem scalarImmS_next {s : State} {i : Instr} {d a : BitVec 5} {n : BitVec 16} {op : Word → Word → Word} {v : Word}
    (h : s.ready i = true) (hv : v = op (s.g a) (s.begin.immS n)) :
    ∃ t, scalarImmS i d a n op s = .next t ∧ s.gives t d v := by
  subst hv
  exact ⟨_, issue_ready h _, s.begin_near.g a ▸ s.gives_give ..⟩

/-- A zero-extended immediate form that may issue completes with its result (R76). -/
theorem scalarImmZ_next {s : State} {i : Instr} {d a : BitVec 5} {n : BitVec 16} {op : Word → Word → Word} {v : Word}
    (h : s.ready i = true) (hv : v = op (s.g a) (s.begin.immZ n)) :
    ∃ t, scalarImmZ i d a n op s = .next t ∧ s.gives t d v := by
  subst hv
  exact ⟨_, issue_ready h _, s.begin_near.g a ▸ s.gives_give ..⟩

/-- A shift-immediate form that may issue completes with its result (R77). -/
theorem scalarShift_next {s : State} {i : Instr} {d a : BitVec 5} {n : BitVec 6} {op : Word → Word → Word} {v : Word}
    (h : s.ready i = true) (hv : v = op (s.g a) (n.setWidth 64)) :
    ∃ t, scalarShift i d a n op s = .next t ∧ s.gives t d v := by
  subst hv
  exact ⟨_, issue_ready h _, s.begin_near.g a ▸ s.gives_give ..⟩

/-! ## Long-latency results (R44, R46) -/

theorem State.begin_promptly (s : State) (lk : Nat) : (s.begin.late && (lk != 0 && s.begin.en == 0)) = !s.promptly lk := by
  simp only [State.promptly, Bool.not_not, s.begin_near.late, State.en, State.fpm, Ctx.reg, s.begin_near.cx.sr]

/-- A result without flags that does not come late is written at once. -/
theorem State.results_prompt {s : State} {lk : Nat} (h : s.promptly lk = true) (g : List (BitVec 5 × Word))
    (v : List (BitVec 6 × VReg)) (f : BitVec 5) : s.begin.results lk g v f = s.begin.land g v f := by
  simp only [State.results, State.begin_promptly, h, Bool.not_true, Bool.false_eq_true, ↓reduceIte]

/-- A result that comes late is pending. -/
theorem State.results_late {s : State} {lk : Nat} (h : s.promptly lk = false) (g : List (BitVec 5 × Word))
    (v : List (BitVec 6 × VReg)) (f : BitVec 5) :
    s.begin.results lk g v f = s.begin.updCx fun x =>
      { x with late := x.late ++ [{ id := x.retired, left := lk, gdest := g, vdest := v, flags := f, src := none }] } := by
  simp only [State.results, State.begin_promptly, h, Bool.not_false, ↓reduceIte]

/-- One general register without flags. -/
theorem State.land_one (s : State) (d : BitVec 5) (v : Word) : s.land [(d, v)] [] 0 = s.setG d v := by
  simp [State.land, State.raise]

/-- DIV or REM that may issue completes, its result at once or pending (R79). -/
theorem scalarDivide_next {s : State} {i : Instr} {rem : Bool} {d a b : BitVec 5} {l : BitVec 4} {w u : BitVec 1} {v : Word}
    (h : s.ready i = true) (hv : v = divide rem w u (s.g a) (s.g b)) :
    ∃ t, scalarDivide i rem d a b l w u s = .next t ∧
      if s.promptly l.toNat = true then s.gives t d v
      else s.advances t ∧ s.keeps Frame.none t ∧ ∃ p ∈ t.cx.late, p.left = l.toNat ∧ p.gdest = [(d, v)] := by
  subst hv
  refine ⟨_, issue_ready h _, ?_⟩
  rw [s.begin_near.g a, s.begin_near.g b]
  split
  · rename_i p
    rw [State.results_prompt p, State.land_one]
    exact s.gives_give ..
  · rename_i p
    rw [State.results_late (by simpa using p)]
    have n := s.begin_near
    generalize s.begin = u at n ⊢
    refine ⟨?_, ((State.keeps_near _ n).trans (State.keeps_updCx ⟨fun _ _ => rfl, fun _ _ _ => rfl, fun _ => rfl⟩)).trans
        (State.retire_frame ..), ?_⟩
    · refine State.advances_of ?_ ?_ ?_ fun m _ _ => ?_ <;> rw [State.cx_updCx]
      · exact n.cx.pc
      · exact n.cx.priv
      · exact n.cx.retired
      · exact congrArg (fun r => Tab.get 0 r m) n.cx.sr
    rw [State.cx_retire, State.cx_updCx]
    refine ⟨⟨u.cx.retired, l.toNat, [(d, _)], [], 0, none⟩, ?_, rfl, rfl⟩
    rw [Ctx.retire_pending]
    exact List.mem_append_right _ (List.mem_singleton.mpr rfl)

/-! ## Transfers of control -/

/-- A branch that may issue goes to its target or on (R80). -/
theorem branch_next {s : State} {i : Instr} {a b : BitVec 5} {o : BitVec 16} {cond : Word → Word → Bool} (h : s.ready i = true) :
    ∃ t, branch i a b o cond s = .next t ∧ s.keeps Frame.none t ∧
      (cond (s.g a) (s.g b) = true → t.cx.pc = s.begin.branchTarget o ∧ t.cx.retired = s.cx.retired + 1 ∧
        ∀ n, t.cx.reg n = s.cx.reg n) ∧
      (cond (s.g a) (s.g b) = false → s.advances t) := by
  refine ⟨_, issue_ready h _, ?_⟩
  rw [s.begin_near.g a, s.begin_near.g b]
  have n := s.begin_near
  by_cases c : cond (s.g a) (s.g b) = true
  · rw [if_pos c]
    refine ⟨(State.keeps_near _ n).trans (State.jump_frame ..), fun _ => ⟨by simp [Ctx.jump], ?_, ?_⟩,
      fun e => absurd (c.symm.trans e) (by simp)⟩
    · simp [Ctx.jump, n.cx.retired]
    · intro m; simp [Ctx.jump, Ctx.reg, n.cx.sr]
  · rw [if_neg c]
    exact ⟨(State.keeps_near _ n).trans (State.retire_frame ..), fun e => absurd e c,
      fun _ => State.advances_begin rfl rfl rfl rfl⟩

end Sys2Proof.Machine
end

