-- ==== Sys2Proof/Laws/Trap.lean ====
section
/-!
SUPPORT. What taking an exception leaves (R31, R33, R127), and when an instruction's trap is taken at once.
-/

namespace Sys2Proof.Machine

/-! ## Trace records -/

/-- Forming a trace record changes the trace unit of its core alone. -/
theorem State.trace_core {α : Type} (F : Core → α) (hF : ∀ (c : Core) t, F { c with trace := t } = F c) (s : State)
    (lcn k kind : Nat) (p : List Word) (l : Nat) : F ((s.trace lcn k kind p).coreAt l) = F (s.coreAt l) := by
  unfold State.trace
  dsimp only
  split
  · rw [State.coreAt_setCoreAt]
    split
    · rename_i h; rw [hF, h]
    · rfl
  · rfl

theorem State.trace_state {α : Type} (F : State → α) (hF : ∀ (s : State) l c, F (s.setCoreAt l c) = F s) (s : State)
    (lcn k kind : Nat) (p : List Word) : F (s.trace lcn k kind p) = F s := by
  unfold State.trace
  dsimp only
  split
  · exact hF ..
  · rfl

/-- Another core is as it was. -/
theorem State.trace_other (s : State) (lcn k kind : Nat) (p : List Word) {l : Nat} (h : l ≠ lcn) :
    (s.trace lcn k kind p).coreAt l = s.coreAt l := by
  unfold State.trace
  dsimp only
  split
  · exact State.coreAt_setCoreAt_ne _ _ h
  · rfl

/-! ## Trap entry (R31) -/

/-- The address held in bits 47 to 2 of a trap register. -/
theorem bits_pc (p : BitVec 48) : bits (withBits (p.setWidth 64) 0 2 0) 2 46 = p.toNat / 4 := by
  have e : withBits (p.setWidth 64) 0 2 0 = BitVec.ofNat 64 (p.toNat / 4 * 4) := by
    apply BitVec.eq_of_getLsbD_eq
    intro i hi
    have h4 : p.toNat / 4 * 4 = p.toNat / 2 ^ 2 * 2 ^ 2 := by omega
    simp only [withBits, h4]
    simp only [BitVec.getLsbD_or, BitVec.getLsbD_and, BitVec.getLsbD_not, BitVec.getLsbD_ofNat, BitVec.getLsbD_setWidth,
      Nat.testBit_mul_two_pow, Nat.testBit_div_two_pow, hi, decide_true, Bool.true_and]
    by_cases h : 2 ≤ i
    · have h3 : Nat.testBit ((2 ^ 2 - 1) * 2 ^ 0) i = false := by
        apply Nat.testBit_lt_two_pow
        exact Nat.lt_of_lt_of_le (by decide) (Nat.pow_le_pow_right (n := 2) (by omega) h)
      have h3' : Nat.testBit 3 i = false := h3
      simp [h, BitVec.getLsbD, h3', Nat.sub_add_cancel h]
    · have : i = 0 ∨ i = 1 := by omega
      obtain rfl | rfl := this <;> simp [Nat.testBit]
  rw [e, bits, BitVec.toNat_ofNat]
  have := p.isLt
  omega

/-- What trap entry writes in the core it is taken on (R31): the four trap registers, TA, and in the control context the level,
the pc and no wait; the general registers and the other per-context registers stay. -/
theorem Core.enterTrap_spec (c : Core) (cause : BitVec 8) (info : Word) (n : Nat) (pp : BitVec 2) (imp : Bool) (ep : BitVec 48) :
    let d := c.enterTrap cause info n pp imp ep
    bits (d.reg 0x00A) 2 46 = ep.toNat / 4 ∧ d.reg 0x009 = cause.setWidth 64 ∧ d.reg 0x00B = info ∧
    d.reg 0x00C = BitVec.ofNat 64 (n % 16 * 4096 + pp.toNat * 256 + b2n imp) ∧ d.ta = true ∧
    (d.ctx 0).priv = 1 ∧ (d.ctx 0).pc = BitVec.ofNat 48 (bits (c.reg 0x008) 2 46 * 4) ∧
    (d.ctx 0).g = (c.ctx 0).g ∧ (d.ctx 0).sr = (c.ctx 0).sr ∧
    (∀ j, j ≠ 0 → d.ctx j = c.ctx j) ∧
    (∀ m, m < 0x009 ∨ 0x00C < m → d.reg m = c.reg m) := by
  refine ⟨?_, ?_, ?_, ?_, rfl, ?_, ?_, ?_, ?_, ?_, ?_⟩
  · simp only [Core.enterTrap, Core.updCtx, Core.setCtx]
    exact (congrArg (bits · 2 46) (by simp [Core.reg, Core.setReg, Tab.get_set])).trans (bits_pc ep)
  · simp [Core.enterTrap, Core.updCtx, Core.setCtx, Core.reg, Core.setReg, Tab.get_set]
  · simp [Core.enterTrap, Core.updCtx, Core.setCtx, Core.reg, Core.setReg, Tab.get_set]
  · simp [Core.enterTrap, Core.updCtx, Core.setCtx, Core.reg, Core.setReg]
  · simp [Core.enterTrap, Core.updCtx, Core.setCtx, Core.ctx, Core.setReg]
  · simp [Core.enterTrap, Core.updCtx, Core.setCtx, Core.ctx, Core.setReg]
  · simp [Core.enterTrap, Core.updCtx, Core.setCtx, Core.ctx, Core.setReg]
  · simp [Core.enterTrap, Core.updCtx, Core.setCtx, Core.ctx, Core.setReg]
  · intro j hj
    simp [Core.enterTrap, Core.updCtx, Core.setCtx, Core.ctx, Core.setReg, Tab.get_put, hj]
  · intro m hm
    simp only [Core.enterTrap, Core.updCtx, Core.setCtx, Core.reg, Core.setReg, Tab.get_set]
    rw [if_neg (by omega), if_neg (by omega), if_neg (by omega), if_neg (by omega)]

/-- The module after trap entry on a core (R31): its own core as `Core.enterTrap_spec` says, the rest as it was. -/
theorem State.enterControl_core {α : Type} (F : Core → α) (hF : ∀ (c : Core) t, F { c with trace := t } = F c) (s : State)
    (lcn : Nat) (cause : BitVec 8) (info : Word) (n : Nat) (pp : BitVec 2) (imp : Bool) (ep : BitVec 48) :
    F ((s.enterControl lcn cause info n pp imp ep).coreAt lcn) = F ((s.coreAt lcn).enterTrap cause info n pp imp ep) := by
  unfold State.enterControl
  dsimp only
  rw [State.trace_core F hF, State.coreAt_updCoreAt_same]

theorem State.enterControl_state {α : Type} (F : State → α) (hF : ∀ (s : State) l c, F (s.setCoreAt l c) = F s) (s : State)
    (lcn : Nat) (cause : BitVec 8) (info : Word) (n : Nat) (pp : BitVec 2) (imp : Bool) (ep : BitVec 48) :
    F (s.enterControl lcn cause info n pp imp ep) = F s := by
  unfold State.enterControl
  dsimp only
  exact (State.trace_state F hF ..).trans (hF ..)

theorem State.enterControl_other (s : State) (lcn : Nat) (cause : BitVec 8) (info : Word) (n : Nat) (pp : BitVec 2) (imp : Bool)
    (ep : BitVec 48) {l : Nat} (h : l ≠ lcn) : (s.enterControl lcn cause info n pp imp ep).coreAt l = s.coreAt l := by
  unfold State.enterControl
  dsimp only
  rw [State.trace_other _ _ _ _ _ h, State.coreAt_updCoreAt_ne _ _ h]

/-! ## Traps of an instruction -/

/-- The older instructions of the context have completed before its issue exactly where they have at its effect. -/
theorem State.olderPending_begin (s : State) : s.begin.olderPending = s.olderPending := by
  have n := s.begin_near
  have q : s.begin.core.mat.queue.isEmpty = s.core.mat.queue.isEmpty := by
    rw [Bool.eq_iff_iff, List.isEmpty_iff_length_eq_zero, List.isEmpty_iff_length_eq_zero, n.core.queue]
  simp only [State.olderPending, n.cx.late, n.k, q]

/-- A precise trap with no older instruction pending is taken at once. -/
theorem State.trap_now {s : State} (h : s.olderPending = false) (cause : BitVec 8) (info : Word) :
    s.trap cause info = s.trapAt s.lcn s.k cause info false s.cx.faultPc := by
  simp [State.trap, h]

/-- On the control context with TA = 0 a trap is an entry of R31. -/
theorem State.trapAt_control {s : State} {lcn : Nat} (h : (s.coreAt lcn).ta = false) (cause : BitVec 8) (info : Word)
    (imp : Bool) (ep : BitVec 48) : s.trapAt lcn 0 cause info imp ep =
      s.enterControl lcn cause info 0 ((s.coreAt lcn).ctx 0).priv imp ep := by
  simp [State.trapAt, h]

/-- The return address of a trap is that seen before the issue. -/
theorem State.begin_faultPc (s : State) : s.begin.cx.faultPc = s.replayPc := by
  unfold Ctx.faultPc Ctx.hinted State.replayPc
  rw [s.begin_hint, s.begin_near.cx.pc]
  unfold State.dropStaleHint
  by_cases h : s.cx.hint = Hint.none
  · simp [h]
  · by_cases e : s.cx.hint.next = s.cx.pc
    · simp [h, e]
    · simp [h, e]

/-- A trap at an instruction's effect, with nothing older pending, is taken as `State.traps` says. -/
theorem State.traps_now {s : State} (h : s.mayTrap) {u : State} (n : State.Near s u) (hf : u.cx.faultPc = s.replayPc)
    (ho : u.olderPending = false) (cause : BitVec 8) (info : Word) : s.traps (u.trap cause info) cause info s.replayPc := by
  obtain ⟨k0, ta, -⟩ := h
  have l0 := n.lcn
  have uk : u.k = 0 := n.k.trans k0
  have uta : (u.coreAt u.lcn).ta = false := n.core.ta.trans ta
  rw [State.trap_now ho, uk, State.trapAt_control uta, hf]
  have hcore : ∀ {α : Type} (F : Core → α), (∀ (c : Core) t, F { c with trace := t } = F c) →
      F (u.enterControl u.lcn cause info 0 ((u.coreAt u.lcn).ctx 0).priv false s.replayPc).core =
      F (u.core.enterTrap cause info 0 ((u.coreAt u.lcn).ctx 0).priv false s.replayPc) := by
    intro α F hF
    rw [State.core]
    rw [show State.lcn (u.enterControl ..) = u.lcn from State.enterControl_state State.lcn (fun _ _ _ => rfl) ..]
    exact State.enterControl_core F hF ..
  obtain ⟨a, b, c, d, e, f, g, x, y, z, w⟩ :=
    Core.enterTrap_spec u.core cause info 0 ((u.coreAt u.lcn).ctx 0).priv false s.replayPc
  have hst := fun {α : Type} (F : State → α) hF =>
    State.enterControl_state F hF u u.lcn cause info 0 ((u.coreAt u.lcn).ctx 0).priv false s.replayPc
  generalize ht : u.enterControl u.lcn cause info 0 ((u.coreAt u.lcn).ctx 0).priv false s.replayPc = t at hcore hst ⊢
  have tk : t.k = 0 := (hst State.k fun _ _ _ => rfl).trans uk
  have cx0 : ∀ s : State, s.k = 0 → s.cx = s.core.ctx 0 := fun s h => by rw [State.cx, h]
  have nc : Core.Near 0 s.core u.core := k0 ▸ n.core
  have sr : (t.core.ctx 0).sr = (s.core.ctx 0).sr := (hcore (fun c => (c.ctx 0).sr) fun _ _ => rfl).trans (y.trans nc.cx.sr)
  have hg : (t.core.ctx 0).g = (s.core.ctx 0).g := (hcore (fun c => (c.ctx 0).g) fun _ _ => rfl).trans (x.trans nc.cx.g)
  have reg : ∀ m, m < 0x009 ∨ 0x00C < m → m < 0x158 ∨ 0x15F < m → t.core.reg m = s.core.reg m := fun m hm hp =>
    (hcore (fun c => c.reg m) fun _ _ => rfl).trans ((w m hm).trans (nc.reg m hp))
  have pv : ((u.coreAt u.lcn).ctx 0).priv = s.cx.priv := (cx0 s k0).symm ▸ nc.cx.priv
  refine ⟨?_, ?_, ?_, ?_, ?_, ?_, ?_, ?_, ?_⟩
  · exact (hcore (fun c => bits (c.reg 0x00A) 2 46) fun _ _ => rfl).trans a
  · exact (hcore (fun c => c.reg 0x009) fun _ _ => rfl).trans b
  · exact (hcore (fun c => c.reg 0x00B) fun _ _ => rfl).trans c
  · refine (hcore (fun c => c.reg 0x00C) fun _ _ => rfl).trans (d.trans ?_)
    rw [pv]
    simp [b2n]
  · exact (hcore (fun c => c.ta) fun _ _ => rfl).trans e
  · rw [cx0 t tk]; exact (hcore (fun c => (c.ctx 0).priv) fun _ _ => rfl).trans f
  · rw [cx0 t tk]
    refine (hcore (fun c => (c.ctx 0).pc) fun _ _ => rfl).trans (g.trans ?_)
    rw [nc.reg 0x008 (.inl (by decide))]
  · intro m _ _
    rw [cx0 t tk, cx0 s k0, Ctx.reg, sr]; rfl
  · refine ⟨(hst State.lcn fun _ _ _ => rfl).trans l0, tk.trans k0.symm, fun _ pa => ?_, fun _ l hl => ?_,
      fun _ => (hst State.towers fun _ _ _ => rfl).trans n.towers, fun _ => (hst State.arb fun _ _ _ => rfl).trans n.arb,
      fun _ => (hst State.fab fun _ _ _ => rfl).trans n.fab, fun _ => (hst State.host fun _ _ _ => rfl).trans n.host, ?_, ?_⟩
    · exact (hst (fun s => s.byteAt pa) fun _ _ _ => rfl).trans (n.byteAt pa)
    · rw [← ht, State.enterControl_other _ _ _ _ _ _ _ _ (l0.symm ▸ hl)]
      exact n.cores l hl
    · have vec := (hcore (fun c => c.vec) fun _ _ => rfl).trans nc.vec
      refine ⟨fun m h1 h2 => reg m ?_ h2, fun _ => vec, fun _ =>
        ⟨(hcore (fun c => c.mat.el) fun _ _ => rfl).trans nc.el, (hcore (fun c => c.mat.tag) fun _ _ => rfl).trans nc.tag,
          (hcore (fun c => c.mat.kc) fun _ _ => rfl).trans nc.kc, (hcore (fun c => c.mat.code) fun _ _ => rfl).trans nc.code,
          (hcore (fun c => c.mat.codeFmt) fun _ _ => rfl).trans nc.codeFmt⟩,
        fun _ => (hcore (fun c => c.streams) fun _ _ => rfl).trans nc.streams,
        fun _ => ⟨(hcore (fun c => c.sb) fun _ _ => rfl).trans nc.sb, (hcore (fun c => c.hold) fun _ _ => rfl).trans nc.hold,
          (hcore (fun c => c.sfq) fun _ _ => rfl).trans nc.sfq⟩,
        fun _ => ⟨(hcore (fun c => c.fps) fun _ _ => rfl).trans nc.fps, (hcore (fun c => c.comb) fun _ _ => rfl).trans nc.comb⟩,
        fun h => absurd h (by simp), fun _ => (hcore (fun c => c.hq) fun _ _ => rfl).trans nc.hq,
        fun _ => (hcore (fun c => c.mem) fun _ _ => rfl).trans nc.mem, fun h => absurd h (by simp), fun _ j hj => ?_⟩
      · simp only [List.mem_cons, List.not_mem_nil, or_false, not_or] at h1
        omega
      · rw [k0] at hj
        exact (hcore (fun c => c.ctx j) fun _ _ => rfl).trans ((z j hj).trans (nc.ctx j hj))
    · rw [cx0 t tk, cx0 s k0]
      exact ⟨fun r _ => by simp only [Ctx.gr, hg], fun m _ _ => by simp only [Ctx.reg, sr], fun h => absurd h (by simp)⟩

end Sys2Proof.Machine
end

