-- ==== Sys2Proof/Laws/Memory.lean ====
section
/-!
SUPPORT. Memory: a byte read after writes, what translation leaves alone, and what an access brings with it where nothing waits
for its home, no watchpoint is enabled and no undo journal is kept.
-/

namespace Sys2Proof.Machine

/-! ## Bytes -/

/-- A byte read after a write, by homes. -/
theorem State.byteAt_putByte_home (s : State) (pa p : Nat) (b : Byte) :
    (s.putByte pa b).byteAt p = if s.homeOf p = s.homeOf pa then b else s.byteAt p := Tab.get_set ..

/-- With no page migrating every byte is its own home. -/
theorem State.homeOf_self {s : State} (h : s.fab.migs = []) (pa : Nat) : s.homeOf pa = pa := by
  simp [State.homeOf, h]

theorem State.byteAt_putByte {s : State} (h : s.fab.migs = []) (pa p : Nat) (b : Byte) :
    (s.putByte pa b).byteAt p = if p = pa then b else s.byteAt p := by
  rw [State.byteAt_putByte_home, s.homeOf_self h, s.homeOf_self h]

/-- Cells written one after another: the last one at an address counts. -/
theorem State.wrote_putCells {s : State} (h : s.fab.migs = []) (cells : List (Nat × Byte)) :
    s.wrote (s.putCells cells) cells := by
  induction cells generalizing s with
  | nil => intro pa; rfl
  | cons c t ih =>
    intro pa
    have e := ih (s := s.putByte c.1 c.2) h pa
    rw [show s.putCells (c :: t) = (s.putByte c.1 c.2).putCells t from rfl, e, State.byteAt_putByte h,
      List.reverse_cons, List.find?_append]
    cases t.reverse.find? (fun x => x.1 == pa) with
    | some x => rfl
    | none =>
      by_cases hp : pa = c.1
      · subst hp; simp
      · have hq : (c.1 == pa) = false := by simpa using fun e => hp e.symm
        simp [hp, hq]

/-- Writing bytes changes memory alone. -/
theorem State.putCells_eq (s : State) (cells : List (Nat × Byte)) :
    ∃ m, s.putCells cells = { s with mem := m } := by
  induction cells generalizing s with
  | nil => exact ⟨s.mem, rfl⟩
  | cons c t ih => exact ih (s.putByte c.1 c.2)

/-! ## Reading and writing where nothing else happens -/

theorem Tab.all_put {α : Type} (p : Nat × α → Bool) (t : Tab α) (k : Nat) (y : α) (h : t.all p = true)
    (hy : p (k, y) = true) : (Tab.put t k y).all p = true := by
  induction t with
  | nil => simp [Tab.put, hy]
  | cons e t ih =>
    simp only [List.all_cons, Bool.and_eq_true] at h
    obtain ⟨j, x⟩ := e
    simp only [Tab.put]
    split
    · simp [hy, h.2]
    · split
      · simp [hy, h.1, h.2]
      · simp [h.1, ih h.2]

theorem Tab.get_all {α : Type} (p : α → Bool) (d : α) (t : Tab α) (k : Nat) (h : t.all (fun e => p e.2) = true)
    (hd : p d = true) : p (Tab.get d t k) = true := by
  induction t with
  | nil => exact hd
  | cons e t ih =>
    simp only [List.all_cons, Bool.and_eq_true] at h
    obtain ⟨j, x⟩ := e
    simp only [Tab.get, Tab.find?]
    split
    · exact h.1
    · exact ih h.2

/-- Nothing waits for a home, so an access applies nothing before it. -/
theorem State.arrive_calm {s : State} (h : s.calm = true) (pas : List Nat) : s.arrive pas = s := by
  simp only [State.calm, Bool.and_eq_true] at h
  simp only [State.arrive, h.1, ↓reduceIte]

/-- No watchpoint sees an access. -/
theorem State.watch_calm {s : State} (h : s.calm = true) (p : Party) (rd wr : Bool) (xs : List Spot) :
    s.watch p rd wr xs = s := by
  simp only [State.calm, Bool.and_eq_true, List.all_eq_true, Bool.not_eq_true'] at h
  have e : s.cores.filter (fun e => e.2.watches) = [] := by
    rw [List.filter_eq_nil_iff]
    intro a ha
    rw [h.2 a ha]
    exact Bool.false_ne_true
  simp only [State.watch, e, List.foldl_nil]

theorem State.performRead_calm {s : State} (h : s.calm = true) (p : Party) (xs : List Spot) : s.performRead p xs = s := by
  rw [State.performRead, State.arrive_calm h, State.watch_calm h]

theorem State.unjournalled_at {s : State} (h : s.unjournalled = true) (l : Nat) : (s.coreAt l).journalOn = false := by
  have e := Tab.get_all (fun c : Core => !c.journalOn) Core.reset s.cores l h (by decide)
  simpa [State.coreAt] using e

/-- What a write may do beside its bytes to a core: its journal status, its journalled blocks, a pending cause. -/
structure Core.Soft (c d : Core) : Prop where
  ctxs : d.ctxs = c.ctxs
  ta : d.ta = c.ta
  vec : d.vec = c.vec
  mat : d.mat = c.mat
  streams : d.streams = c.streams
  hq : d.hq = c.hq
  sb : d.sb = c.sb
  hold : d.hold = c.hold
  sfq : d.sfq = c.sfq
  tlb : d.tlb = c.tlb
  mail : d.mail = c.mail
  fps : d.fps = c.fps
  comb : d.comb = c.comb
  mem : d.mem = c.mem
  dbg : d.dbg = c.dbg
  reg : ∀ n, n ≠ 0x185 → d.reg n = c.reg n

/-- What a write may do beside its bytes to the module. -/
structure State.Soft (s t : State) : Prop where
  lcn : t.lcn = s.lcn
  k : t.k = s.k
  late : t.late = s.late
  mem : t.mem = s.mem
  fab : t.fab = s.fab
  towers : t.towers = s.towers
  clock : t.arb.clock = s.arb.clock
  calm : s.calm = true → t.calm = true
  unj : s.unjournalled = true → t.unjournalled = true
  core : ∀ l, Core.Soft (s.coreAt l) (t.coreAt l)

theorem Core.Soft.refl (c : Core) : Core.Soft c c := by constructor <;> first | rfl | exact fun _ _ => rfl

theorem Core.Soft.trans {c d e : Core} (h : Core.Soft c d) (g : Core.Soft d e) : Core.Soft c e where
  ctxs := g.ctxs.trans h.ctxs
  ta := g.ta.trans h.ta
  vec := g.vec.trans h.vec
  mat := g.mat.trans h.mat
  streams := g.streams.trans h.streams
  hq := g.hq.trans h.hq
  sb := g.sb.trans h.sb
  hold := g.hold.trans h.hold
  sfq := g.sfq.trans h.sfq
  tlb := g.tlb.trans h.tlb
  mail := g.mail.trans h.mail
  fps := g.fps.trans h.fps
  comb := g.comb.trans h.comb
  mem := g.mem.trans h.mem
  dbg := g.dbg.trans h.dbg
  reg := fun n hn => (g.reg n hn).trans (h.reg n hn)

theorem State.Soft.refl (s : State) : State.Soft s s := by
  constructor <;> first | rfl | exact fun h => h | exact fun _ => Core.Soft.refl _

theorem State.Soft.trans {s t u : State} (h : State.Soft s t) (g : State.Soft t u) : State.Soft s u where
  lcn := g.lcn.trans h.lcn
  k := g.k.trans h.k
  late := g.late.trans h.late
  mem := g.mem.trans h.mem
  fab := g.fab.trans h.fab
  towers := g.towers.trans h.towers
  clock := g.clock.trans h.clock
  calm := fun c => g.calm (h.calm c)
  unj := fun c => g.unj (h.unj c)
  core := fun l => (h.core l).trans (g.core l)

theorem Core.Soft.watches {c d : Core} (h : Core.Soft c d) : d.watches = c.watches := by
  have e : ∀ k, k < 4 → bit (d.reg (0x150 + 2 * k)) 63 = bit (c.reg (0x150 + 2 * k)) 63 := fun k hk => by
    rw [h.reg _ (by omega)]
  simp only [Core.watches, show List.range 4 = [0, 1, 2, 3] from rfl, List.any_cons,
    List.any_nil, e 0 (by omega), e 1 (by omega), e 2 (by omega), e 3 (by omega)]

theorem Core.Soft.journalOn {c d : Core} (h : Core.Soft c d) : d.journalOn = c.journalOn := by
  simp only [Core.journalOn, Core.journalBase, Core.journalLen, h.reg jbaseNow (by decide), h.reg jlenNow (by decide)]
  rfl

/-- A change of one core that is soft. -/
theorem State.Soft.updCoreAt {s : State} {l : Nat} {f : Core → Core} (h : Core.Soft (s.coreAt l) (f (s.coreAt l))) :
    State.Soft s (s.updCoreAt l f) := by
  constructor
  case calm =>
    intro c
    simp only [State.calm, Bool.and_eq_true] at c ⊢
    refine ⟨c.1, Tab.all_put _ _ _ _ c.2 ?_⟩
    dsimp only
    rw [h.watches]
    exact Tab.get_all (fun c : Core => !c.watches) Core.reset s.cores l c.2 (by decide)
  case unj =>
    intro c
    refine Tab.all_put _ _ _ _ c ?_
    dsimp only
    rw [h.journalOn]
    exact Tab.get_all (fun c : Core => !c.journalOn) Core.reset s.cores l c (by decide)
  case core =>
    intro l'
    rw [State.coreAt_updCoreAt]
    split
    · rename_i e; subst e; exact h
    · exact .refl _
  all_goals rfl

theorem State.Soft.updGang (s : State) (g : Nat) (f : Gang → Gang) : State.Soft s (s.updGang g f) := by
  constructor
  case core => exact fun _ => .refl _
  all_goals first | rfl | exact fun h => h

theorem State.Soft.nonRollbackable (s : State) (l why : Nat) : State.Soft s (s.nonRollbackable l why) := by
  unfold State.nonRollbackable
  refine State.Soft.trans (.updCoreAt ?_) (.updGang ..)
  constructor
  case reg => exact fun n hn => Core.reg_setReg_ne _ _ hn
  all_goals rfl

/-- Where no journal is kept, what comes before a write to a home block is soft (R320, R323). -/
theorem State.Soft.journalBlock {s : State} (h : s.unjournalled = true) (p : Party) (blk : Nat) :
    State.Soft s (s.journalBlock p blk) := by
  unfold State.journalBlock
  extract_lets pa
  split
  · exact .refl s
  · rename_i o _
    extract_lets c gang foreign u
    clear_value foreign
    have step : State.Soft s u := by
      unfold u
      split
      · exact .nonRollbackable ..
      · exact .refl s
    clear_value u
    have off : c.journalOn = false := State.unjournalled_at h o
    split
    · exact step
    · rw [if_pos (by rw [off]; rfl)]
      exact step.trans (.nonRollbackable ..)

theorem State.Soft.journalBlocks {s : State} (h : s.unjournalled = true) (p : Party) (bs : List Nat) :
    State.Soft s (bs.foldl (fun s b => s.journalBlock p b) s) := by
  induction bs generalizing s with
  | nil => exact .refl s
  | cons b t ih =>
    have j := State.Soft.journalBlock h p b
    exact j.trans (ih (j.unj h))

theorem State.Soft.deregister (s : State) (pages : List Nat) : State.Soft s (s.deregister pages) := by
  unfold State.deregister
  generalize s.host.parts.filter _ = l
  induction l generalizing s with
  | nil => exact .refl s
  | cons e t ih =>
    refine State.Soft.trans ?_ (ih _)
    constructor
    case core => exact fun _ => .refl _
    all_goals first | rfl | exact fun h => h

/-- A write where nothing else happens: its cells, and what is soft. -/
theorem State.writeCells_calm {s : State} (hc : s.calm = true) (hj : s.unjournalled = true) (p : Party) (rd : Bool)
    (cells : List (Nat × Byte)) (xs : List Spot) :
    ∃ u, State.Soft s u ∧ s.writeCells p rd cells xs = u.putCells cells := by
  unfold State.writeCells
  dsimp only
  have h1 := State.Soft.journalBlocks hj p (distinct (cells.map fun c => c.1 / 256))
  have h2 := h1.trans (State.Soft.deregister _ (distinct (cells.map fun c => c.1 / 2 ^ 18)))
  refine ⟨_, h2, State.watch_calm ?_ ..⟩
  obtain ⟨m, e⟩ := State.putCells_eq (State.deregister (List.foldl (fun s b => s.journalBlock p b) s
    (distinct (cells.map fun c => c.1 / 256))) (distinct (cells.map fun c => c.1 / 2 ^ 18))) cells
  rw [e]
  exact h2.calm hc

/-- The bytes after such a write. -/
theorem State.wrote_writeCells {s : State} (hc : s.calm = true) (hj : s.unjournalled = true) (hm : s.fab.migs = [])
    (p : Party) (rd : Bool) (cells : List (Nat × Byte)) (xs : List Spot) : s.wrote (s.writeCells p rd cells xs) cells := by
  obtain ⟨u, h, e⟩ := State.writeCells_calm hc hj p rd cells xs
  rw [e]
  have w := State.wrote_putCells (s := u) (by rw [h.fab]; exact hm) cells
  intro pa
  rw [w pa]
  simp only [State.byteAt, State.homeOf, h.mem, h.fab]

/-- The cores after such a write. -/
theorem State.soft_writeCells {s : State} (hc : s.calm = true) (hj : s.unjournalled = true) (p : Party) (rd : Bool)
    (cells : List (Nat × Byte)) (xs : List Spot) (l : Nat) :
    Core.Soft (s.coreAt l) ((s.writeCells p rd cells xs).coreAt l) := by
  obtain ⟨u, h, e⟩ := State.writeCells_calm hc hj p rd cells xs
  obtain ⟨m, em⟩ := State.putCells_eq u cells
  rw [e, em]
  exact h.core l

/-- The focus and the fabric after such a write. -/
theorem State.same_writeCells {s : State} (hc : s.calm = true) (hj : s.unjournalled = true) (p : Party) (rd : Bool)
    (cells : List (Nat × Byte)) (xs : List Spot) :
    let t := s.writeCells p rd cells xs
    t.lcn = s.lcn ∧ t.k = s.k ∧ t.late = s.late ∧ t.fab = s.fab ∧ t.towers = s.towers := by
  obtain ⟨u, h, e⟩ := State.writeCells_calm hc hj p rd cells xs
  obtain ⟨m, em⟩ := State.putCells_eq u cells
  dsimp only
  rw [e, em]
  exact ⟨h.lcn, h.k, h.late, h.fab, h.towers⟩

/-! ## Translation -/

/-- What a translation for a core may move: the walk cache of towers, the core's TLB and its event counters. -/
structure State.Walked (l₀ : Nat) (s t : State) : Prop where
  lcn : t.lcn = s.lcn
  k : t.k = s.k
  late : t.late = s.late
  tick : t.tick = s.tick
  agenda : t.agenda = s.agenda
  mem : t.mem = s.mem
  arb : t.arb = s.arb
  fab : t.fab = s.fab
  host : t.host = s.host
  part : ∀ n, (t.towerAt n).part = (s.towerAt n).part
  calm : s.calm = true → t.calm = true
  unj : s.unjournalled = true → t.unjournalled = true
  cores : ∀ l, l ≠ l₀ → t.coreAt l = s.coreAt l
  core : ∃ tlb sr, t.coreAt l₀ = { s.coreAt l₀ with tlb := tlb, sr := sr }
  reg : ∀ n, n < 0x158 ∨ 0x15F < n → (t.coreAt l₀).reg n = (s.coreAt l₀).reg n

theorem State.Walked.refl (lcn : Nat) (s : State) : State.Walked lcn s s := by
  constructor <;> first | rfl | exact fun h => h | exact fun _ => rfl | exact fun _ _ => rfl | exact ⟨_, _, rfl⟩

theorem State.Walked.trans {lcn : Nat} {s t u : State} (h : State.Walked lcn s t) (g : State.Walked lcn t u) :
    State.Walked lcn s u where
  lcn := g.lcn.trans h.lcn
  k := g.k.trans h.k
  late := g.late.trans h.late
  tick := g.tick.trans h.tick
  agenda := g.agenda.trans h.agenda
  mem := g.mem.trans h.mem
  arb := g.arb.trans h.arb
  fab := g.fab.trans h.fab
  host := g.host.trans h.host
  part := fun n => (g.part n).trans (h.part n)
  calm := fun c => g.calm (h.calm c)
  unj := fun c => g.unj (h.unj c)
  cores := fun l hl => (g.cores l hl).trans (h.cores l hl)
  core := by
    obtain ⟨a, b, e⟩ := h.core
    obtain ⟨c, d, f⟩ := g.core
    exact ⟨c, d, by rw [f, e]⟩
  reg := fun n hn => (g.reg n hn).trans (h.reg n hn)

theorem State.Walked.updTowerAt (lcn : Nat) (s : State) (n : Nat) (f : Tower → Tower)
    (hf : ∀ t, (f t).part = t.part) : State.Walked lcn s (s.updTowerAt n f) := by
  constructor
  case part =>
    intro m
    rw [State.towerAt_updTowerAt]
    split
    · rename_i e; subst e; exact hf _
    · rfl
  case core => exact ⟨_, _, rfl⟩
  all_goals first | rfl | exact fun h => h | exact fun _ _ => rfl

theorem State.Walked.updCoreAt {lcn : Nat} {s : State} {f : Core → Core}
    (h : ∃ tlb sr, f (s.coreAt lcn) = { s.coreAt lcn with tlb := tlb, sr := sr })
    (hr : ∀ n, n < 0x158 ∨ 0x15F < n → (f (s.coreAt lcn)).reg n = (s.coreAt lcn).reg n) :
    State.Walked lcn s (s.updCoreAt lcn f) := by
  have w : (f (s.coreAt lcn)).watches = (s.coreAt lcn).watches := by
    have e : ∀ k, k < 4 → bit ((f (s.coreAt lcn)).reg (0x150 + 2 * k)) 63 = bit ((s.coreAt lcn).reg (0x150 + 2 * k)) 63 :=
      fun k hk => by rw [hr _ (by omega)]
    simp only [Core.watches, show List.range 4 = [0, 1, 2, 3] from rfl, List.any_cons, List.any_nil, e 0 (by omega),
      e 1 (by omega), e 2 (by omega), e 3 (by omega)]
  have j : (f (s.coreAt lcn)).journalOn = (s.coreAt lcn).journalOn := by
    simp only [Core.journalOn, Core.journalBase, Core.journalLen, hr jbaseNow (by decide), hr jlenNow (by decide)]
    rfl
  constructor
  case cores => exact fun l hl => State.coreAt_updCoreAt_ne _ _ hl
  case core => rw [State.coreAt_updCoreAt_same]; exact h
  case reg => rw [State.coreAt_updCoreAt_same]; exact hr
  case calm =>
    intro c
    simp only [State.calm, Bool.and_eq_true] at c ⊢
    refine ⟨c.1, Tab.all_put _ _ _ _ c.2 ?_⟩
    dsimp only
    rw [w]
    exact Tab.get_all (fun c : Core => !c.watches) Core.reset s.cores lcn c.2 (by decide)
  case unj =>
    intro c
    refine Tab.all_put _ _ _ _ c ?_
    dsimp only
    rw [j]
    exact Tab.get_all (fun c : Core => !c.journalOn) Core.reset s.cores lcn c (by decide)
  case part => exact fun _ => rfl
  all_goals rfl

theorem State.Walked.fill (lcn : Nat) (s : State) (e : TlbEnt) :
    State.Walked lcn s (s.updCoreAt lcn fun c => { c with tlb := tlbFill c.tlb e }) :=
  .updCoreAt ⟨_, _, rfl⟩ fun _ _ => rfl

theorem Core.countEvent_eq (c : Core) (e : Nat) (k : Option Nat) (n : Nat) : ∃ sr, c.countEvent e k n = { c with sr := sr } := by
  unfold Core.countEvent
  generalize List.range 8 = l
  induction l generalizing c with
  | nil => exact ⟨_, rfl⟩
  | cons j t ih =>
    obtain g | ⟨v, g⟩ := Core.countOne_cases e k n c j <;> rw [List.foldl_cons, g]
    · exact ih c
    · obtain ⟨sr, h⟩ := ih (c.setReg (0x158 + j) v)
      exact ⟨sr, h⟩

theorem State.Walked.count (lcn : Nat) (s : State) (e : Nat) (k : Option Nat) (n : Nat) :
    State.Walked lcn s (s.updCoreAt lcn fun c => c.countEvent e k n) := by
  refine .updCoreAt ?_ fun m hm => Core.reg_countEvent _ _ _ _ _ hm
  obtain ⟨sr, h⟩ := Core.countEvent_eq (s.coreAt lcn) e k n
  exact ⟨_, sr, h⟩

/-- A packet on the ring of a tower, and a core's probe of its neighbours. -/
theorem State.Walked.ringPacket (lcn : Nat) (s : State) (w : Nat) (kind : RingKind) (a b : Nat) :
    State.Walked lcn s (s.ringPacket w kind a b) := by
  unfold State.ringPacket
  split
  · exact .refl ..
  · exact State.Walked.updTowerAt _ _ _ _ fun _ => rfl

theorem State.Walked.ringProbe (lcn : Nat) (s : State) (l : Nat) : State.Walked lcn s (s.ringProbe l) := by
  unfold State.ringProbe
  generalize List.range 8 = ds
  induction ds generalizing s with
  | nil => exact .refl ..
  | cons d t ih => exact (State.Walked.ringPacket lcn s _ _ _ d).trans (ih _)

theorem State.Walked.nodeEntry (lcn : Nat) (s : State) (tw : Option Nat) (part : Nat) (asid : BitVec 10) (level index addr : Nat) :
    State.Walked lcn s (s.nodeEntry tw part asid level index addr).2 := by
  unfold State.nodeEntry
  cases tw with
  | none => exact .refl ..
  | some t =>
    dsimp only
    split
    · dsimp only
      refine State.Walked.updTowerAt _ _ _ _ ?_
      exact fun _ => rfl
    · split
      · dsimp only
        refine State.Walked.updTowerAt _ _ _ _ ?_
        exact fun _ => rfl
      · exact .refl ..

theorem State.Walked.leafAddr (lcn : Nat) (s : State) (tw : Option Nat) (part : Nat) (asid : BitVec 10) (root va : Nat) :
    State.Walked lcn s (s.leafAddr tw part asid root va).2 := by
  unfold State.leafAddr
  dsimp only
  split
  · exact .refl ..
  · have h := State.Walked.nodeEntry lcn s tw part asid 0 (va / 2 ^ 36) (root * 2 ^ 15 + 8 * (va / 2 ^ 36))
    split
    · exact h
    · split
      · exact h
      · split
        · exact h
        · split
          · exact h
          · generalize hn : State.nodeEntry _ _ _ _ 1 _ _ = r
            have g := hn ▸ State.Walked.nodeEntry lcn _ tw part asid 1 (va / 2 ^ 27) _
            split
            · exact h.trans g
            · split
              · exact h.trans g
              · exact h.trans g

theorem State.Walked.walk (lcn : Nat) (s : State) (tw : Option Nat) (part : Nat) (asid : BitVec 10) (root va : Nat) :
    State.Walked lcn s (s.walk tw part asid root va).2 := by
  have h := State.Walked.leafAddr lcn s tw part asid root va
  unfold State.walk
  split <;> (rename_i e; rw [e] at h; exact h)

theorem State.Walked.tlbFind (lcn : Nat) (s : State) (k part : Nat) (asid : BitVec 10) (root va : Nat) :
    State.Walked lcn s (s.tlbFind lcn k part asid root va).2 := by
  unfold State.tlbFind
  dsimp only
  split
  · exact .fill ..
  · have h1 := (State.Walked.count lcn s 8 (some k) 1).trans (State.Walked.ringProbe lcn _ lcn)
    split
    · exact (h1.trans (.count ..)).trans (.fill ..)
    · have h2 := h1.trans (State.Walked.count lcn _ 10 (some k) 1)
      have h3 := h2.trans (State.Walked.walk lcn _ (some (towerOf lcn)) part asid root va)
      split <;> (rename_i e; rw [e] at h3)
      · exact h3
      · exact h3
      · exact h3.trans (.fill ..)

theorem State.Walked.translate (lcn : Nat) (s : State) (k : Nat) (q : Query) (va : Nat) :
    State.Walked lcn s (s.translate lcn k q va).2 := by
  unfold State.translate
  dsimp only
  have page : State.Walked lcn s (match q.asid with
      | none => (Xl.fault 7, s)
      | some n =>
        match s.tlbFind lcn k q.part n q.root va with
        | (.error x, s) => (x, s)
        | (.ok e, s) => (s.checkRights lcn q (s.relocate lcn (e.ppn.toNat * 2 ^ 18 + va % 2 ^ 18)) e.leaf, s)).2 := by
    split
    · exact .refl ..
    · rename_i n _
      have h := State.Walked.tlbFind lcn s k q.part n q.root va
      split <;> (rename_i e; rw [e] at h; exact h)
  split
  · split
    · exact .refl ..
    · exact page
  · exact page

theorem State.Walked.locateGranules (lcn : Nat) (s : State) (k : Nat) (q : Query) (t acc : Tab Nat) :
    State.Walked lcn s (s.locateGranules lcn k q t acc).2 := by
  induction t generalizing s acc with
  | nil => exact .refl ..
  | cons e t ih =>
    obtain ⟨g, va⟩ := e
    unfold State.locateGranules
    have h := State.Walked.translate lcn s k q va
    split <;> (rename_i e; rw [e] at h)
    · exact h.trans (ih ..)
    · exact h
    · exact h

/-- Locating the bytes of an access moves only what a translation may move. -/
theorem State.Walked.locate (lcn : Nat) (s : State) (k : Nat) (q : Query) (eas : List Nat) :
    State.Walked lcn s (s.locate lcn k q eas).2 := State.Walked.locateGranules ..

theorem State.Walked.byteAt {lcn : Nat} {s t : State} (h : State.Walked lcn s t) (pa : Nat) : t.byteAt pa = s.byteAt pa := by
  simp only [State.byteAt, State.homeOf, h.mem, h.fab]

/-- Addresses outside the virtual space take no translation (R28). -/
theorem State.locate_local (s : State) (lcn k : Nat) (q : Query) (eas : List Nat) (h : ∀ ea ∈ eas, isVirtual ea = false) :
    s.locate lcn k q eas = (.ok [], s) := by
  have e : granules eas = [] := by
    induction eas with
    | nil => rfl
    | cons a t ih =>
      simp [granules, h a (List.mem_cons_self ..), ih fun x hx => h x (List.mem_cons_of_mem _ hx)]
  rw [State.locate, e, State.locateGranules]

end Sys2Proof.Machine
end

