-- ==== Sys2Proof/Laws/Vector.lean ====
section
/-!
SUPPORT. What the shared operations of the vector instructions do: elements of a register, pops, the frame of a vector
instruction whose streams are ready, and its end.
-/

namespace Sys2Proof.Machine

/-! ## Elements -/

theorem ofElems_sum_lt (w : Nat) (xs : List Nat) :
    xs.foldr (fun x acc => x % 2 ^ w + acc * 2 ^ w) 0 < 2 ^ (w * xs.length) := by
  induction xs with
  | nil => simp
  | cons x t ih =>
    simp only [List.foldr_cons, List.length_cons]
    have h : x % 2 ^ w < 2 ^ w := Nat.mod_lt _ (Nat.two_pow_pos w)
    rw [Nat.mul_add, Nat.mul_one, Nat.pow_add]
    have := Nat.mul_le_mul_right (2 ^ w) (Nat.succ_le_of_lt ih)
    rw [Nat.succ_mul] at this
    omega

theorem elem_sum (w : Nat) (xs : List Nat) (i : Nat) (h : i < xs.length) :
    elem w (xs.foldr (fun x acc => x % 2 ^ w + acc * 2 ^ w) 0) i = nth 0 xs i % 2 ^ w := by
  induction xs generalizing i with
  | nil => simp at h
  | cons x t ih =>
    simp only [List.foldr_cons]
    cases i with
    | zero => simp [elem, nth, Nat.add_mul_mod_self_right]
    | succ i =>
      have hx : x % 2 ^ w < 2 ^ w := Nat.mod_lt _ (Nat.two_pow_pos w)
      have e := ih i (by simpa using h)
      simp only [elem] at e ⊢
      rw [Nat.mul_add, Nat.mul_one, Nat.add_comm (w * i) w, Nat.pow_add, ← Nat.div_div_eq_div_mul,
        Nat.add_mul_div_right _ _ (Nat.two_pow_pos w), Nat.div_eq_of_lt hx, Nat.zero_add, e]
      rfl

/-- An element of a register that was put together from elements. -/
theorem elem_ofElems (w : Nat) (xs : List Nat) (i : Nat) (h : i < xs.length) (hl : w * xs.length ≤ 2048) :
    elem w (ofElems w xs).toNat i = nth 0 xs i % 2 ^ w := by
  have b := ofElems_sum_lt w xs
  have c : 2 ^ (w * xs.length) ≤ 2 ^ 2048 := Nat.pow_le_pow_right (by decide) hl
  rw [ofElems, BitVec.toNat_ofNat, Nat.mod_eq_of_lt (Nat.lt_of_lt_of_le b c), elem_sum w xs i h]

theorem nth_map_range (f : Nat → Nat) (n i : Nat) (h : i < n) : nth 0 ((List.range n).map f) i = f i := by
  have e : ∀ (l : List Nat) (i : Nat) (h : i < l.length), nth 0 l i = l[i] := by
    intro l
    induction l with
    | nil => intro i h; simp at h
    | cons x t ih =>
      intro i h
      cases i with
      | zero => rfl
      | succ i => exact ih i (by simpa using h)
  rw [e _ _ (by simpa using h)]
  simp

theorem elem_lt (w x i : Nat) : elem w x i < 2 ^ w := Nat.mod_lt _ (Nat.two_pow_pos w)

/-- The lanes of a result under a predicate (R163). -/
theorem elem_underMask (m : BitVec 256) (w : Nat) (z : Bool) (old : BitVec 2048) (res : Nat → FRes) (i : Nat)
    (h : i < 2048 / w) : elem w (underMask m w z old res).1.toNat i =
      if active m w i then (res i).1 % 2 ^ w else if z then 0 else elem w old.toNat i := by
  have hl : w * (2048 / w) ≤ 2048 := Nat.mul_div_le ..
  rw [underMask, elem_ofElems _ _ _ (by simpa using h) (by simpa using hl), List.map_map, nth_map_range _ _ _ h]
  simp only [Function.comp, choose]
  split
  · rfl
  · split
    · simp
    · exact Nat.mod_eq_of_lt (elem_lt ..)

/-! ## Pops (R293) -/

theorem Ctx.recordOor_eq (x : Ctx) (ea : Nat) (w : Bool) : ∃ v, x.recordOor ea w = x.setReg 0x002 v := by
  unfold Ctx.recordOor
  dsimp only
  split <;> exact ⟨_, rfl⟩

/-- What recording does depends on oorf alone. -/
theorem Ctx.recordOor_sr {x y : Ctx} (h : x.sr = y.sr) (ea : Nat) (w : Bool) : (x.recordOor ea w).sr = (y.recordOor ea w).sr := by
  have e : x.reg 0x002 = y.reg 0x002 := by rw [Ctx.reg, h]; rfl
  unfold Ctx.recordOor
  rw [e]
  dsimp only
  split <;> (unfold Ctx.setReg; rw [h])

theorem Ctx.recordOors_eq (x : Ctx) (w : Bool) (l : List (List Nat)) :
    ∃ sr, x.recordOors w l = { x with sr := sr } ∧ ∀ n, n ≠ 2 → Tab.get 0 sr n = x.reg n := by
  unfold Ctx.recordOors
  induction l generalizing x with
  | nil => exact ⟨x.sr, rfl, fun _ _ => rfl⟩
  | cons a t ih =>
    rw [List.foldl_cons]
    cases a.find? outOfRange with
    | none => exact ih x
    | some ea =>
      obtain ⟨v, e⟩ := x.recordOor_eq ea w
      obtain ⟨sr, e1, e2⟩ := ih (x.setReg 0x002 v)
      dsimp only
      rw [e]
      exact ⟨sr, e1, fun n hn => (e2 n hn).trans (Ctx.reg_setReg_ne _ _ hn)⟩

theorem Ctx.recordOors_sr {x y : Ctx} (h : x.sr = y.sr) (w : Bool) (l : List (List Nat)) :
    (x.recordOors w l).sr = (y.recordOors w l).sr := by
  unfold Ctx.recordOors
  induction l generalizing x y with
  | nil => exact h
  | cons a t ih =>
    rw [List.foldl_cons, List.foldl_cons]
    cases a.find? outOfRange with
    | none => exact ih h
    | some ea => exact ih (Ctx.recordOor_sr h ea w)

/-- What pops leave alone. -/
structure State.Popped (s t : State) : Prop where
  keeps : s.keeps { Frame.none with sr := [0x002], streams := true } t
  late : t.late = s.late
  pc : t.cx.pc = s.cx.pc
  priv : t.cx.priv = s.cx.priv
  retired : t.cx.retired = s.cx.retired
  pending : t.cx.late = s.cx.late
  reg : ∀ n, n ≠ 2 → t.cx.reg n = s.cx.reg n
  g : t.cx.g = s.cx.g

theorem State.Popped.refl (s : State) : State.Popped s s :=
  ⟨State.keeps.refl .., rfl, rfl, rfl, rfl, rfl, fun _ _ => rfl, rfl⟩

theorem State.Popped.trans {s t u : State} (h : State.Popped s t) (g : State.Popped t u) : State.Popped s u :=
  ⟨h.keeps.trans g.keeps, g.late.trans h.late, g.pc.trans h.pc, g.priv.trans h.priv, g.retired.trans h.retired,
    g.pending.trans h.pending, fun n hn => (g.reg n hn).trans (h.reg n hn), g.g.trans h.g⟩

theorem State.Popped.streams (s : State) (x : Tab Stream) :
    State.Popped s (s.updCore fun c => { c with streams := x }) := by
  have e : (s.updCore fun c => { c with streams := x }).cx = s.cx := by rw [State.cx_updCore]; rfl
  refine ⟨State.keeps_updCore ?_ ?_, rfl, ?_, ?_, ?_, ?_, fun _ _ => ?_, ?_⟩
  · exact ⟨fun _ _ _ => rfl, fun _ => rfl, fun _ => ⟨rfl, rfl, rfl, rfl, rfl⟩, fun h => by simp at h,
      fun _ => ⟨rfl, rfl, rfl⟩, fun _ => ⟨rfl, rfl⟩, fun _ => ⟨rfl, rfl⟩, fun _ => rfl, fun _ => rfl, fun _ => ⟨rfl, rfl⟩,
      fun _ _ _ => rfl⟩
  · exact ⟨fun _ _ => rfl, fun _ _ _ => rfl, fun _ => rfl⟩
  all_goals rw [e]

theorem State.Popped.recordOor (s : State) (ea : Nat) (w : Bool) : State.Popped s (s.updCx (·.recordOor ea w)) := by
  obtain ⟨v, e⟩ := s.cx.recordOor_eq ea w
  have c : (s.updCx (·.recordOor ea w)).cx = s.cx.setReg 0x002 v := by rw [State.cx_updCx]; exact e
  refine ⟨State.keeps_updCx ?_, rfl, ?_, ?_, ?_, ?_, fun n hn => ?_, ?_⟩
  · rw [e]
    exact ⟨fun r _ => by simp only [Ctx.gr, Ctx.setReg_g], fun n hn _ => Ctx.reg_setReg_ne _ _ fun h => hn (by simp [h]),
      fun _ => Ctx.setReg_priv ..⟩
  all_goals rw [c]
  · exact Ctx.setReg_pc ..
  · exact Ctx.setReg_priv ..
  · exact Ctx.setReg_retired ..
  · exact Ctx.setReg_late ..
  · exact Ctx.reg_setReg_ne _ _ hn
  · exact Ctx.setReg_g ..

theorem State.Popped.pop (s : State) (x : BitVec 6) : State.Popped s (s.pop x) := by
  unfold State.pop
  split
  · exact .refl s
  · split
    · exact .refl s
    · split
      · exact .streams ..
      · dsimp only
        split
        · exact (State.Popped.streams s _).trans (.recordOor ..)
        · exact .streams ..

theorem State.Popped.pops (s : State) (fs : List (BitVec 6)) : State.Popped s (s.pops fs) := by
  induction fs generalizing s with
  | nil => exact .refl s
  | cons x t ih => exact (State.Popped.pop s x).trans (ih _)

/-- Pops look at the streams and at oorf alone. -/
theorem State.pop_same {s t : State} (h : t.core.streams = s.core.streams) (g : t.cx.sr = s.cx.sr) (x : BitVec 6) :
    (t.pop x).core.streams = (s.pop x).core.streams ∧ (t.pop x).cx.sr = (s.pop x).cx.sr := by
  unfold State.pop
  cases smSlot x with
  | none => exact ⟨h, g⟩
  | some k =>
    dsimp only
    rw [h]
    cases Tab.find? s.core.streams k with
    | none => exact ⟨h, g⟩
    | some m =>
      dsimp only
      cases m.ready with
      | nil =>
        dsimp only
        constructor
        · simp only [State.core_updCore]; rw [h]
        · simp only [State.cx_updCore]; exact g
      | cons r rest =>
        dsimp only
        cases r.oor with
        | none =>
          dsimp only
          constructor
          · simp only [State.core_updCore]; rw [h]
          · simp only [State.cx_updCore]; exact g
        | some ea =>
          dsimp only
          constructor
          · simp only [State.core_updCx, Core.updCtx_streams, State.core_updCore]; rw [h]
          · simp only [State.cx_updCx]
            refine Ctx.recordOor_sr ?_ ..
            simp only [State.cx_updCore]; exact g

theorem State.pops_same {s t : State} (h : t.core.streams = s.core.streams) (g : t.cx.sr = s.cx.sr) (fs : List (BitVec 6)) :
    (t.pops fs).core.streams = (s.pops fs).core.streams ∧ (t.pops fs).cx.sr = (s.pops fs).cx.sr := by
  induction fs generalizing s t with
  | nil => exact ⟨h, g⟩
  | cons x r ih =>
    have e := State.pop_same h g x
    exact ih e.1 e.2

/-! ## The frame of a vector instruction -/

/-- Streams that are ready hold nothing up. -/
theorem State.withStreams_served {s : State} (i : Instr) (f : State → State) (done fs : List (BitVec 6))
    (h : s.served done fs = true) : s.withStreams i done fs f = f s := by
  induction fs generalizing done with
  | nil => rfl
  | cons x t ih =>
    simp only [State.served, Bool.and_eq_true] at h
    obtain ⟨h1, h2⟩ := h
    unfold State.withStreams
    cases e : smSlot x with
    | none => exact ih _ h2
    | some k =>
      rw [e] at h1
      dsimp only at h1 ⊢
      cases e2 : Tab.find? s.core.streams k with
      | none => rw [e2] at h1; exact absurd h1 Bool.false_ne_true
      | some m =>
        rw [e2] at h1
        simp only [Bool.and_eq_true, Option.isNone_iff_eq_none] at h1
        obtain ⟨hf, hm, hr⟩ := h1
        have hb : s.streamBegin s.lcn k = (true, s) := by
          unfold State.streamBegin
          change (match s.core.streamFp k with | some f => s.beginFp s.lcn f | none => (true, s)) = _
          cases ef : s.core.streamFp k with
          | none => rfl
          | some f =>
            rw [ef] at hf
            simp only [Option.all_some, decide_eq_true_eq] at hf
            dsimp only
            unfold State.beginFp
            cases hs : f.stage with
            | accepted => exact absurd hs hf
            | _ => rfl
        rw [hb]
        dsimp only
        unfold State.underMail
        rw [hm]
        dsimp only
        have hfill : s.fillSlot k 3 ((done.filter (· == x)).length + 1) = (.ok, s) := by
          unfold State.fillSlot
          rw [e2]
          dsimp only
          rw [if_pos (by simpa using hr)]
        rw [hfill]
        exact ih _ h2

theorem State.served_bound {s : State} (done fs : List (BitVec 6)) (h : s.served done fs = true) :
    s.core.unbound fs = false := by
  induction fs generalizing done with
  | nil => rfl
  | cons x t ih =>
    simp only [State.served, Bool.and_eq_true] at h
    have := ih _ h.2
    simp only [Core.unbound, List.any_cons] at this ⊢
    rw [this, Bool.or_false]
    cases e : smSlot x with
    | none => rfl
    | some k =>
      have h1 := h.1
      rw [e] at h1
      dsimp only at h1 ⊢
      cases e2 : Tab.find? s.core.streams k with
      | none => rw [e2] at h1; exact absurd h1 Bool.false_ne_true
      | some m => rfl

theorem State.Near.served {s t : State} (n : State.Near s t) (done fs : List (BitVec 6)) :
    t.served done fs = s.served done fs := by
  induction fs generalizing done with
  | nil => rfl
  | cons x r ih =>
    unfold State.served Core.streamFp
    rw [ih, n.core.streams, n.core.fps, n.core.mail, n.k]

theorem Core.sources_same {c d : Core} (v : d.vec = c.vec) (h : d.streams = c.streams) (done fs : List (BitVec 6)) :
    d.sources done fs = c.sources done fs := by
  induction fs generalizing done with
  | nil => rfl
  | cons x t ih =>
    unfold Core.sources Core.peek
    rw [ih, v, h]

theorem Core.tagOf_same {c d : Core} (v : d.vec = c.vec) (h : d.streams = c.streams) (x : BitVec 6) :
    d.tagOf x = c.tagOf x := by
  unfold Core.tagOf
  rw [v, h]

/-- A vector instruction whose streams are ready and whose checks pass takes the values of its sources. -/
theorem State.vector_next {s b : State} (n : State.Near s b) {i : Instr} {fs : List (BitVec 6)} {g : Tags}
    {linear zero : Bool} {t : BitVec 2} {f : State → List VReg → BitVec 5 → State} {vs : List VReg} {pf : BitVec 5}
    (h : s.served [] fs = true) (hg : g.fails linear zero t = none) (hv : s.core.sources [] fs = (vs, pf)) :
    b.vector i fs g linear zero t f = f b vs pf := by
  have hb : b.served [] fs = true := (n.served ..).trans h
  unfold State.vector
  rw [State.served_bound _ _ hb, hg]
  simp only [Bool.false_eq_true, ↓reduceIte]
  rw [State.withStreams_served _ _ _ _ hb, Core.sources_same n.core.vec n.core.streams, hv]

/-! ## The end of a vector instruction -/

theorem State.land_vec (s : State) (out : List (BitVec 6 × VReg)) :
    (out.foldl (fun s e => s.putV e.1 e.2) s).core.vec = out.foldl (fun v e => v.put e.1 e.2) s.core.vec := by
  induction out generalizing s with
  | nil => rfl
  | cons e t ih =>
    rw [List.foldl_cons, List.foldl_cons, ih]
    rw [State.putV, State.core_updCore]

/-- What writing vector registers and the general registers `gs` leaves alone. -/
structure State.Vectored (gs : List (BitVec 5)) (s t : State) : Prop where
  keeps : s.keeps { Frame.none with g := gs, vec := true } t
  late : t.late = s.late
  pc : t.cx.pc = s.cx.pc
  priv : t.cx.priv = s.cx.priv
  retired : t.cx.retired = s.cx.retired
  sr : t.cx.sr = s.cx.sr
  pend : t.core.pend = s.core.pend
  streams : t.core.streams = s.core.streams

theorem State.Vectored.refl (gs : List (BitVec 5)) (s : State) : State.Vectored gs s s :=
  ⟨State.keeps.refl .., rfl, rfl, rfl, rfl, rfl, rfl, rfl⟩

theorem State.Vectored.trans {gs : List (BitVec 5)} {s t u : State} (h : State.Vectored gs s t) (g : State.Vectored gs t u) :
    State.Vectored gs s u :=
  ⟨h.keeps.trans g.keeps, g.late.trans h.late, g.pc.trans h.pc, g.priv.trans h.priv, g.retired.trans h.retired,
    g.sr.trans h.sr, g.pend.trans h.pend, g.streams.trans h.streams⟩

theorem State.Vectored.setVec (gs : List (BitVec 5)) (s : State) (v : VecState) :
    State.Vectored gs s (s.updCore fun c => { c with vec := v }) := by
  have e : (s.updCore fun c => { c with vec := v }).cx = s.cx := by rw [State.cx_updCore]; rfl
  refine ⟨State.keeps_updCore ?_ ?_, rfl, by rw [e], by rw [e], by rw [e], by rw [e], by rw [State.core_updCore],
    by rw [State.core_updCore]⟩
  · exact ⟨fun _ _ _ => rfl, fun h => by simp at h, fun _ => ⟨rfl, rfl, rfl, rfl, rfl⟩, fun _ => rfl,
      fun _ => ⟨rfl, rfl, rfl⟩, fun _ => ⟨rfl, rfl⟩, fun _ => ⟨rfl, rfl⟩, fun _ => rfl, fun _ => rfl, fun _ => ⟨rfl, rfl⟩,
      fun _ _ _ => rfl⟩
  · exact ⟨fun _ _ => rfl, fun _ _ _ => rfl, fun _ => rfl⟩

theorem State.Vectored.putV (gs : List (BitVec 5)) (s : State) (d : BitVec 6) (x : VReg) :
    State.Vectored gs s (s.putV d x) := by
  have h := State.Vectored.setVec gs s (s.core.vec.put d x)
  have e : (s.updCore fun c => { c with vec := s.core.vec.put d x }) = s.putV d x := rfl
  rwa [e] at h

theorem State.Vectored.puts (gs : List (BitVec 5)) (s : State) (out : List (BitVec 6 × VReg)) :
    State.Vectored gs s (out.foldl (fun s e => s.putV e.1 e.2) s) := by
  induction out generalizing s with
  | nil => exact .refl ..
  | cons e t ih => exact (State.Vectored.putV gs s e.1 e.2).trans (ih _)

theorem State.Vectored.setG {gs : List (BitVec 5)} (s : State) (r : BitVec 5) (v : Word) (h : r ∈ gs) :
    State.Vectored gs s (s.setG r v) := by
  refine ⟨State.keeps_setG (.inl h), rfl, ?_, ?_, ?_, ?_, ?_, ?_⟩ <;> simp

/-- A vector instruction completes: what its end leaves, from a state that pops left. -/
theorem State.vmoves_end {s b u : State} (n : State.Near s b) {fs : List (BitVec 6)} {g : List (BitVec 5 × Word)}
    {v : VecState} {fl : BitVec 5} (h : State.Vectored (g.map (·.1)) (b.pops fs) u) (hv : u.core.vec = v)
    (hg : ∀ e ∈ g, u.g e.1 = if e.1 = 0 then 0 else e.2) : s.vmoves (u.raise fl).retire fs g v fl := by
  have p := State.Popped.pops b fs
  have ps := State.pops_same n.core.streams n.cx.sr fs
  have pc : u.cx.pc = s.cx.pc := by rw [h.pc, p.pc, n.cx.pc]
  have priv : u.cx.priv = s.cx.priv := by rw [h.priv, p.priv, n.cx.priv]
  have ret : u.cx.retired = s.cx.retired := by rw [h.retired, p.retired, n.cx.retired]
  have reg : ∀ m, m ≠ 2 → u.cx.reg m = s.cx.reg m := fun m hm => by
    rw [Ctx.reg, h.sr]; exact (p.reg m hm).trans (congrArg (fun r => Tab.get 0 r m) n.cx.sr)
  have reg2 : u.cx.reg 2 = (s.pops fs).cx.reg 2 := by rw [Ctx.reg, h.sr]; exact congrArg (fun r => Tab.get 0 r 2) ps.2
  have pend : u.core.pend = s.core.pend := by
    rw [h.pend, (p.keeps.2.2.2.2.2.2.2.2.1.2.2.2.2.2.2.2.2.2.1 rfl).2, n.core.pend]
  have ta : u.core.ta = s.core.ta := by
    rw [(h.keeps.2.2.2.2.2.2.2.2.1.2.2.2.2.2.2.2.2.2.1 rfl).1, (p.keeps.2.2.2.2.2.2.2.2.1.2.2.2.2.2.2.2.2.2.1 rfl).1, n.core.ta]
  have str : u.core.streams = (s.pops fs).core.streams := h.streams.trans ps.1
  have kp : s.keeps { Frame.none with g := g.map (·.1), sr := [0x001, 0x002], vec := true, streams := true, traps := true } u := by
    have k1 := State.keeps_near { Frame.none with g := g.map (·.1), sr := [0x001, 0x002], vec := true, streams := true, traps := true } n
    have k2 := p.keeps
    have k3 := h.keeps
    exact (k1.trans (k2.mono (by simp [Frame.le, Frame.none]))).trans (k3.mono (by simp [Frame.le, Frame.none]))
  clear h p n
  unfold State.raise
  split
  · rename_i f0
    subst f0
    refine ⟨State.advances_of pc priv ret fun m h1 h2 => reg m (by omega), ?_, kp.trans (State.retire_frame ..), ?_, ?_, ?_,
      fun e he => (State.g_retire ..).trans (hg e he), ?_, ?_⟩
    · rw [State.core_retire]; simpa using ta
    · rw [State.core_retire]; simpa using str
    · exact ((State.retire_frame Frame.none u).2.2.2.2.2.2.2.2.2.2.1 2 (by simp [Frame.none]) (by omega)).trans reg2
    · rw [State.core_retire]; simpa using hv
    · refine ((State.retire_frame Frame.none u).2.2.2.2.2.2.2.2.2.2.1 1 (by simp [Frame.none]) (by omega)).trans
        ((reg 1 (by omega)).trans ?_)
      simp [State.fpm]
    · rw [State.core_retire]
      simpa using pend
  · dsimp only
    generalize ew : State.updCore _ _ = w
    have wc : w.core = { u.core.updCtx u.k (fun x => x.setReg 0x001 (x.reg 0x001 ||| BitVec.ofNat 64 (fl.toNat * 4))) with
        pend := { u.core.pend with flags := u.core.pend.flags ||| fl } } := by
      rw [← ew, State.core_updCore, State.core_updCx]
      rfl
    have wx : w.cx = u.cx.setReg 0x001 (u.cx.reg 0x001 ||| BitVec.ofNat 64 (fl.toNat * 4)) := by
      rw [← ew, State.cx_updCore]
      have e := State.cx_updCx u (fun x => x.setReg 0x001 (x.reg 0x001 ||| BitVec.ofNat 64 (fl.toNat * 4)))
      exact e
    have kw : u.keeps { Frame.none with g := g.map (·.1), sr := [0x001, 0x002], vec := true, streams := true, traps := true } w := by
      rw [← ew]
      refine (State.keeps_updCx (u := fun x => x.setReg 0x001 (x.reg 0x001 ||| BitVec.ofNat 64 (fl.toNat * 4))) ?_).trans
        (State.keeps_updCore ?_ ?_)
      · exact ⟨fun r _ => by simp only [Ctx.gr, Ctx.setReg_g], fun m hm _ => Ctx.reg_setReg_ne _ _ fun h => hm (by simp [h]),
          fun _ => Ctx.setReg_priv ..⟩
      · exact ⟨fun _ _ _ => rfl, fun h => by simp at h, fun _ => ⟨rfl, rfl, rfl, rfl, rfl⟩, fun _ => rfl,
          fun _ => ⟨rfl, rfl, rfl⟩, fun _ => ⟨rfl, rfl⟩, fun _ => ⟨rfl, rfl⟩, fun _ => rfl, fun _ => rfl,
          fun h => by simp at h, fun _ _ _ => rfl⟩
      · exact ⟨fun _ _ => rfl, fun _ _ _ => rfl, fun _ => rfl⟩
    have wg : ∀ r, w.g r = u.g r := fun r => by simp only [State.g, wx, Ctx.gr, Ctx.setReg_g]
    have wr : ∀ m, m ≠ 1 → w.cx.reg m = u.cx.reg m := fun m hm => by rw [wx, Ctx.reg_setReg_ne _ _ hm]
    refine ⟨State.advances_of ?_ ?_ ?_ fun m h1 h2 => (wr m (by omega)).trans (reg m (by omega)), ?_,
      (kp.trans kw).trans (State.retire_frame ..), ?_, ?_, ?_,
      fun e he => (State.g_retire ..).trans ((wg e.1).trans (hg e he)), ?_, ?_⟩
    · rw [wx, Ctx.setReg_pc, pc]
    · rw [wx, Ctx.setReg_priv, priv]
    · rw [wx, Ctx.setReg_retired, ret]
    · rw [State.core_retire]; simpa [wc] using ta
    · rw [State.core_retire]; simpa [wc] using str
    · exact ((State.retire_frame Frame.none w).2.2.2.2.2.2.2.2.2.2.1 2 (by simp [Frame.none]) (by omega)).trans
        ((wr 2 (by omega)).trans reg2)
    · rw [State.core_retire]; simpa [wc] using hv
    · refine ((State.retire_frame Frame.none w).2.2.2.2.2.2.2.2.2.2.1 1 (by simp [Frame.none]) (by omega)).trans ?_
      rw [wx, Ctx.reg_setReg_same, reg 1 (by omega)]
      rfl
    · rw [State.core_retire]
      have e : w.core.pend = { s.core.pend with flags := s.core.pend.flags ||| fl } := by rw [wc, pend]
      simpa using e

/-- The end of a vector instruction whose flags meet no enabled flag, vector results only. -/
theorem State.vdone_next {s b : State} (n : State.Near s b) {fs : List (BitVec 6)} {lk : Nat} {out : List (BitVec 6 × VReg)}
    {fl : BitVec 5} (h : fl &&& s.en = 0) : s.vgives (b.vdone fs lk [] out fl) fs lk [] out fl := by
  have p := State.Popped.pops b fs
  have en : ∀ u : State, u.cx.reg 1 = s.cx.reg 1 → u.en = s.en := fun u e => by rw [State.en, State.fpm, e]; rfl
  have b1 : b.cx.reg 1 = s.cx.reg 1 := congrArg (fun r => Tab.get 0 r 1) n.cx.sr
  have hp : ((b.pops fs).late && (lk != 0 && (b.pops fs).en == 0)) = !s.promptly lk := by
    rw [p.late, n.late, en _ ((p.reg 1 (by omega)).trans b1)]
    simp [State.promptly]
  unfold State.vdone State.unlessTrapped
  rw [if_pos (by rw [en b b1]; exact h)]
  unfold State.vgives State.results
  beta_reduce
  rw [hp]
  split
  · rename_i e
    rw [e]
    simp only [Bool.not_true, Bool.false_eq_true, ↓reduceIte, State.land, List.foldl_nil]
    refine State.vmoves_end n (State.Vectored.puts _ _ out) ?_ fun e he => by simp at he
    rw [State.land_vec, p.keeps.2.2.2.2.2.2.2.2.1.2.1 rfl, n.core.vec]
  · rename_i e
    have e' : s.promptly lk = false := by simpa using e
    rw [e']
    simp only [Bool.not_false, ↓reduceIte]
    generalize ew : State.updCx _ _ = w
    have wx : w.cx = { (b.pops fs).cx with late := (b.pops fs).cx.late ++ [⟨(b.pops fs).cx.retired, lk, [], out, fl, none⟩] } := by
      rw [← ew, State.cx_updCx]
    have wv : State.Vectored [] (b.pops fs) w := by
      refine ⟨?_, ?_, ?_, ?_, ?_, ?_, ?_, ?_⟩
      · rw [← ew]; exact State.keeps_updCx ⟨fun _ _ => rfl, fun _ _ _ => rfl, fun _ => rfl⟩
      · rw [← ew]; rfl
      · rw [wx]
      · rw [wx]
      · rw [wx]
      · rw [wx]
      · rw [← ew, State.core_updCx]; rfl
      · rw [← ew, State.core_updCx]; rfl
    refine ⟨?_, ?_⟩
    · have := State.vmoves_end (v := s.core.vec) (fl := 0) (g := []) n wv ?_ (fun e he => by simp at he)
      · exact this
      · rw [← ew, State.core_updCx]
        exact (p.keeps.2.2.2.2.2.2.2.2.1.2.1 rfl).trans n.core.vec
    · refine ⟨⟨(b.pops fs).cx.retired, lk, [], out, fl, none⟩, ?_, rfl, rfl, rfl, rfl⟩
      rw [State.cx_retire, Ctx.retire_pending, wx]
      simp

/-! ## Classes of forms -/

/-- An element-by-element result written: the lanes, and what the end leaves. -/
theorem State.vput_next {s b : State} (n : State.Near s b) {fs : List (BitVec 6)} {lk : Nat} {d : BitVec 6} {m : BitVec 3}
    {w : Nat} {z : BitVec 1} {tag : BitVec 2} {pf : BitVec 5} {res : Nat → FRes} {r : BitVec 2048} {fl : BitVec 5}
    (hr : underMask (s.core.vec.pred m) w (z1 z) (s.core.vec.reg d).data res = (r, fl)) (h : (pf ||| fl) &&& s.en = 0) :
    s.vgives (b.vput fs lk d m w (z1 z) tag pf res) fs lk [] [(d, ⟨r, tag⟩)] (pf ||| fl) ∧
      s.lanes w m z d r fun e => (res e).1 := by
  unfold State.vput State.oldV
  rw [n.core.vec, hr]
  refine ⟨State.vdone_next n h, fun e he => ?_⟩
  have := elem_underMask (s.core.vec.pred m) w (z1 z) (s.core.vec.reg d).data res e he
  rw [hr] at this
  rw [this]
  simp [z1]

theorem flagsOf_bit (l : List FRes) (j : Nat) : (flagsOf l).getLsbD j = true ↔ ∃ r ∈ l, r.2.getLsbD j = true := by
  have h : ∀ (l : List FRes) (f : BitVec 5), (l.foldl (fun f e => f ||| e.2) f).getLsbD j = true ↔
      f.getLsbD j = true ∨ ∃ r ∈ l, r.2.getLsbD j = true := by
    intro l
    induction l with
    | nil => intro f; simp
    | cons r t ih =>
      intro f
      rw [List.foldl_cons, ih]
      simp only [BitVec.getLsbD_or, Bool.or_eq_true, List.mem_cons, exists_eq_or_imp, or_assoc]
  rw [flagsOf, h]
  simp

/-- The flags of a result under a predicate are those of its active elements. -/
theorem State.raisedBy_underMask (s : State) (w : Nat) (m : BitVec 3) (z : Bool) (old : BitVec 2048) (res : Nat → FRes) :
    s.raisedBy w m (underMask (s.core.vec.pred m) w z old res).2 res := by
  intro j
  rw [underMask, flagsOf_bit]
  simp only [List.mem_map, List.mem_range]
  constructor
  · rintro ⟨r, ⟨i, hi, rfl⟩, hr⟩
    unfold Machine.choose at hr
    split at hr
    · rename_i ha
      exact ⟨i, hi, ha, hr⟩
    · simp at hr
  · rintro ⟨i, hi, ha, hr⟩
    refine ⟨_, ⟨i, hi, rfl⟩, ?_⟩
    unfold Machine.choose
    rw [if_pos ha]
    exact hr

theorem State.Near.tags {s b : State} (n : State.Near s b) (d : BitVec 6) (x y : Option (BitVec 6)) (m : BitVec 3)
    (z : Bool) : b.tags d x y m z = s.tags d x y m z := by
  unfold State.tags State.oldV
  have h := fun q => Core.tagOf_same n.core.vec n.core.streams q
  simp only [h, n.core.vec]

/-- The check of a merging destination passes where the instruction does not merge or the tags agree (R163, R164). -/
theorem State.tags_pass {s : State} {d : BitVec 6} {x y : Option (BitVec 6)} {m : BitVec 3} {z : BitVec 1} {tag : BitVec 2}
    (h : m = 0 ∨ z = 1 ∨ (s.core.vec.reg d).dom = tag) : (s.tags d x y m (z1 z)).fails false false tag = none := by
  unfold Tags.fails State.tags z1 State.oldV
  simp only [Bool.false_eq_true, ↓reduceIte]
  obtain rfl | rfl | h := h
  · simp
  · simp
  · simp [h]

/-- An element-by-element form that may issue, whose checks pass and whose flags meet no enabled flag. -/
theorem vput_issue {s : State} {i : Instr} {fs : List (BitVec 6)} {x y : Option (BitVec 6)} {d : BitVec 6} {m : BitVec 3}
    {z : BitVec 1} {w lk : Nat} {tag : BitVec 2} {vs : List VReg} {pf : BitVec 5} {linear zero : State → Bool}
    {tg : State → BitVec 2} {f : State → List VReg → Nat → FRes} {res : Nat → FRes}
    (hr : s.ready i = true) (hs : s.served [] fs = true) (hv : s.core.sources [] fs = (vs, pf)) (en : s.en = 0)
    (ht : m = 0 ∨ z = 1 ∨ (s.core.vec.reg d).dom = tag) (hl : linear s.begin = false) (hz : zero s.begin = false)
    (htg : tg s.begin = tag) (hf : f s.begin vs = res) :
    ∃ t r fl, (issue i s fun s => s.vector i fs (s.tags d x y m (z1 z)) (linear s) (zero s) (tg s) fun u vs pf =>
        u.vput fs lk d m w (z1 z) (tg s) pf (f u vs)) = .next t ∧
      s.vgives t fs lk [] [(d, ⟨r, tag⟩)] (pf ||| fl) ∧ s.lanes w m z d r (fun e => (res e).1) ∧ s.raisedBy w m fl res := by
  have n := s.begin_near
  refine ⟨_, (underMask (s.core.vec.pred m) w (z1 z) (s.core.vec.reg d).data res).1,
    (underMask (s.core.vec.pred m) w (z1 z) (s.core.vec.reg d).data res).2, issue_ready hr _, ?_⟩
  rw [hl, hz, htg, n.tags, State.vector_next n hs (State.tags_pass ht) hv, hf]
  have h := State.vput_next (fs := fs) (lk := lk) (d := d) (m := m) (w := w) (z := z) (tag := tag) (pf := pf) (res := res) n
    (r := (underMask (s.core.vec.pred m) w (z1 z) (s.core.vec.reg d).data res).1)
    (fl := (underMask (s.core.vec.pred m) w (z1 z) (s.core.vec.reg d).data res).2) rfl (by rw [en]; exact BitVec.and_zero)
  exact ⟨h.1, h.2, State.raisedBy_underMask _ _ _ _ _ _⟩

end Sys2Proof.Machine
end

