-- ==== Sys2Proof/Tests/Slice0.lean ====
section
/-!
SUPPORT. Tests: words written out from the encoding tables, ill-formed terms that WellFormed refuses, small steps whose results
the specification gives, and for each statement a state and operands that meet its premises.
-/

namespace Sys2Proof.Tests
open Sys2Proof.Machine

set_option Elab.async false

/-! ## Words (R38 to R64) -/

/-- Every word of the list decodes to its instruction. -/
def decodes (l : List (Word32 × Instr)) : Bool :=
  l.all fun e => match decodeWord e.1 with
    | .ok i => decide (i = e.2)
    | .error _ => false

/-- Major 0x00 and 0x01: three-register forms, counts, SEL (R54): the words as their rows give them, every field at a value of its own. -/
theorem test_decode_registers : decodes
    [(0x02AA6800, .add 0x15 0xA 0xD), (0x02AA6801, .sub 0x15 0xA 0xD), (0x02AA6802, .mul 0x15 0xA 0xD),
    (0x02AA6803, .mulhS64 0x15 0xA 0xD), (0x02AA6804, .mulhB64 0x15 0xA 0xD), (0x02AA6808, .and 0x15 0xA 0xD),
    (0x02AA6809, .or 0x15 0xA 0xD), (0x02AA680A, .xor 0x15 0xA 0xD), (0x02AA680B, .andn 0x15 0xA 0xD),
    (0x02AA6810, .shl 0x15 0xA 0xD), (0x02AA6811, .shr 0x15 0xA 0xD), (0x02AA6812, .sar 0x15 0xA 0xD),
    (0x02AA6818, .slt 0x15 0xA 0xD), (0x02AA6819, .sltb 0x15 0xA 0xD), (0x02AA681A, .minS64 0x15 0xA 0xD),
    (0x02AA681B, .minB64 0x15 0xA 0xD), (0x02AA681C, .maxS64 0x15 0xA 0xD), (0x02AA681D, .maxB64 0x15 0xA 0xD),
    (0x02AA0021, .clz 0x15 0xA 1), (0x02AA0025, .ffs 0x15 0xA 1), (0x02AA0029, .popcnt 0x15 0xA 1),
    (0x06AA6C40, .sel 0x15 0xA 0xD 0x11)] = true := by decide +kernel

/-- Division, immediates, fences (R55, R56): the words as their rows give them, every field at a value of its own. -/
theorem test_decode_immediates : decodes
    [(0x0AAA6A85, .div 0x15 0xA 0xD 5 1 1), (0x0AAA6A87, .rem 0x15 0xA 0xD 5 1 1), (0x0EAA89AB, .addi 0x15 0xA 0x89AB),
    (0x12AA89AB, .andi 0x15 0xA 0x89AB), (0x16AA89AB, .ori 0x15 0xA 0x89AB), (0x1AAA89AB, .xori 0x15 0xA 0x89AB),
    (0x1EAA89AB, .slti 0x15 0xA 0x89AB), (0x22AA89AB, .sltbi 0x15 0xA 0x89AB), (0x26AA89AB, .ldhi 0x15 0xA 0x89AB),
    (0x2AAA002B, .shli 0x15 0xA 0x2B), (0x2AAA006B, .shri 0x15 0xA 0x2B), (0x2AAA00AB, .sari 0x15 0xA 0x2B),
    (0x3C000000, .fence), (0x3C0A0001, .fenceR 0xA), (0x3C0A0002, .fenceA 0xA), (0x3C0A0003, .fenceAr 0xA)] = true := by decide +kernel

/-- Loads, stores and atomics (R56): the words as their rows give them, every field at a value of its own. -/
theorem test_decode_memory : decodes
    [(0x42AA589A, .ldB8 0x15 0xA 5 0x89A), (0x46AA589A, .ldS8 0x15 0xA 5 0x89A), (0x4AAA589A, .ldB16 0x15 0xA 5 0x89A),
    (0x4EAA589A, .ldS16 0x15 0xA 5 0x89A), (0x52AA589A, .ldB32 0x15 0xA 5 0x89A), (0x56AA589A, .ldS32 0x15 0xA 5 0x89A),
    (0x5AAA589A, .ldD 0x15 0xA 5 0x89A), (0x5EAA489A, .st 0x15 0xA 1 0x89A), (0x5EAAD068, .amoadd 0x15 0xA 1 0xD),
    (0x5EAAD168, .amoswap 0x15 0xA 1 0xD), (0x5EAAD268, .amocas 0x15 0xA 1 0xD), (0x5EAAD368, .amominS 0x15 0xA 1 0xD),
    (0x5EAAD468, .amominB 0x15 0xA 1 0xD), (0x5EAAD568, .amomaxS 0x15 0xA 1 0xD), (0x5EAAD668, .amomaxB 0x15 0xA 1 0xD)] = true := by decide +kernel

/-- Branches, jumps and LOOP (R57): the words as their rows give them, every field at a value of its own. -/
theorem test_decode_control : decodes
    [(0x614D1234, .beq 0xA 0xD 0x1234), (0x654D1234, .bne 0xA 0xD 0x1234), (0x694D1234, .blt 0xA 0xD 0x1234),
    (0x6D4D1234, .bge 0xA 0xD 0x1234), (0x714D1234, .bltb 0xA 0xD 0x1234), (0x754D1234, .bgeb 0xA 0xD 0x1234),
    (0x7A345678, .jal 0x2345678), (0x7EAA0000, .jr 0x15 0xA), (0x7C4A0105, .loop 2 0xA 5)] = true := by decide +kernel

/-- Vector memory and integer forms (R58 to R60): the words as their rows give them, every field at a value of its own. -/
theorem test_decode_vector_integers : decodes
    [(0x81528D75, .vld 0x15 0xA 0xD 3 1 5), (0x85528D60, .vst 0x15 0xA 0xD 3), (0x89528D75, .vlds 0x15 0xA 0xD 3 1 1 1),
    (0x8D528D75, .vgath 0x15 0xA 0xD 3 1 1 1), (0x91528D64, .vscat 0x15 0xA 0xD 3 1), (0x95528D71, .vaddInt 0x15 0xA 0xD 3 1 1),
    (0x95528D75, .vsubInt 0x15 0xA 0xD 3 1 1), (0x95528D79, .vmulInt 0x15 0xA 0xD 3 1 1), (0x9552807D, .vnegInt 0x15 0xA 3 1 1),
    (0x99528D71, .vminS 0x15 0xA 0xD 3 1 1), (0x99528D75, .vminB 0x15 0xA 0xD 3 1 1), (0x99528D79, .vmaxS 0x15 0xA 0xD 3 1 1),
    (0x99528D7D, .vmaxB 0x15 0xA 0xD 3 1 1), (0x9D528071, .vabsInt 0x15 0xA 3 1 1), (0x9D528D75, .vshl 0x15 0xA 0xD 3 1 1),
    (0x9D528D79, .vshr 0x15 0xA 0xD 3 1 1), (0x9D528D7D, .vsar 0x15 0xA 0xD 3 1 1), (0xA1528071, .vclz 0x15 0xA 3 1 1),
    (0xA1528075, .vffs 0x15 0xA 3 1 1), (0xA1528079, .vpop 0x15 0xA 3 1 1), (0xA1528D7C, .vand 0x15 0xA 0xD 3 1),
    (0xA1528D7D, .vor 0x15 0xA 0xD 3 1), (0xA1528D7E, .vxor 0x15 0xA 0xD 3 1), (0xA1528D7F, .vandn 0x15 0xA 0xD 3 1),
    (0xB5529570, .vdivS 0x15 0xA 5 1 3 1), (0xB5529574, .vdivB 0x15 0xA 5 1 3 1), (0xB5529578, .vremS 0x15 0xA 5 1 3 1),
    (0xB552957C, .vremB 0x15 0xA 5 1 3 1)] = true := by decide +kernel

/-- Vector floating-point, comparison and special forms (R58 to R61): the words as their rows give them, every field at a value of its own. -/
theorem test_decode_vector_floats : decodes
    [(0xA5528D71, .vaddF 0x15 0xA 0xD 3 1 1), (0xA5528D75, .vsubF 0x15 0xA 0xD 3 1 1), (0xA5528D79, .vmulF 0x15 0xA 0xD 3 1 1),
    (0xA5528D7D, .vfma 0x15 0xA 0xD 3 1 1), (0xA9528D71, .vminF 0x15 0xA 0xD 3 1 1), (0xA9528D75, .vmaxF 0x15 0xA 0xD 3 1 1),
    (0xA9528079, .vabsF 0x15 0xA 3 1 1), (0xA952807D, .vnegF 0x15 0xA 3 1 1), (0xAEE28D71, .vcmpS 5 6 0xA 0xD 3 1 1),
    (0xAEE28D75, .vcmpB 5 6 0xA 0xD 3 1 1), (0xAEE28D79, .vcmpF 5 6 0xA 0xD 3 1 1), (0xAD528D6C, .vsel 0x15 0xA 0xD 3),
    (0xB1529570, .vexp2 0x15 0xA 5 1 3 1), (0xB1529572, .vlog2 0x15 0xA 5 1 3 1), (0xB1529574, .vrcp 0x15 0xA 5 1 3 1),
    (0xB1529576, .vrsq 0x15 0xA 5 1 3 1), (0xB1529578, .vtanh 0x15 0xA 5 1 3 1), (0xB152957A, .vgelu 0x15 0xA 5 1 3 1)] = true := by decide +kernel

/-- Conversions, sums, Haar forms and moves (R61): the words as their rows give them, every field at a value of its own. -/
theorem test_decode_vector_moves : decodes
    [(0xB9529972, .vcvt 0x15 0xA 6 1 3 1 2), (0xB9528005, .vpack 0x15 0xA 1), (0xB9528009, .vunpack 0x15 0xA 1),
    (0xB9528D7D, .vdot 0x15 0xA 0xD 3 1 1), (0xBD528D61, .vperm 0x15 0xA 0xD 3 1), (0xBD52A964, .vred 0x15 0xA 5 1 3),
    (0xBD528065, .vmatchB32 0x15 0xA 3), (0xBD528066, .vmatchB64 0x15 0xA 3), (0xBD428D68, .vhaarF 0x14 0xA 0xD 3),
    (0xBD528309, .vhaarFL 0x15 0xA 3), (0xBD428D6A, .vhaarI 0x14 0xA 0xD 3), (0xBD52830B, .vhaarIL 0x15 0xA 3),
    (0xBD528D6C, .vsca 0x15 0xA 0xD 3), (0xBD52820D, .vtag 0x15 0xA 2), (0xBD52816E, .vbcast 0x15 0xA 1 3),
    (0xBD52810F, .vext 0x15 0xA 1), (0xBC628D11, .vwhile 6 0xA 0xD 1), (0xBD500014, .vlq 0x15)] = true := by decide +kernel

/-- The matrix engine (R62): the words as their rows give them, every field at a value of its own. -/
theorem test_decode_matrix : decodes
    [(0xC1654105, .mma 5 2 0xA 0x10 0 1 0 5), (0xC5654105, .mmaz 5 2 0xA 0x10 0 1 0 5), (0xC9653701, .msca 5 2 0xA 0xD 3 1),
    (0xCD653401, .mdrain 5 2 0xA 0xD 1), (0xD1650000, .mldacc 5 2 0xA), (0xD5600000, .mzero 5 2),
    (0xD5653500, .mmovvToV 5 2 0xA 0xD), (0xD5653580, .mmovvToAcc 5 2 0xA 0xD), (0xD5650200, .mtag 5 2 0xA),
    (0xD5450385, .cbload 5 0xA 1 5)] = true := by decide +kernel

/-- Engines and the exchange (R63): the words as their rows give them, every field at a value of its own. -/
theorem test_decode_engines : decodes
    [(0xD968A680, .cpy 5 0x14 0xA 0xD), (0xD968A001, .cpyv 5 0x14 0xA), (0xD968A682, .fill 5 0x14 0xA 0xD),
    (0xD944A003, .sbind 5 2 0xA), (0xD8040004, .sunbind 2), (0xDD68A6C0, .xput 5 0x14 0xA 0xD 2),
    (0xDD68A6C1, .xget 5 0x14 0xA 0xD 2), (0xE168A6C1, .xadd 5 0x14 0xA 0xD 2 1), (0xE168A6C5, .xmin 5 0x14 0xA 0xD 2 1),
    (0xE168A6C9, .xmax 5 0x14 0xA 0xD 2 1), (0xE168A6CD, .xcas 5 0x14 0xA 0xD 2 1), (0xE568A680, .xflag 5 0x14 0xA 0xD),
    (0xE568A681, .xtask 5 0x14 0xA 0xD), (0xE800A048, .xexpect 0xA 9), (0xE8000049, .xwait 9)] = true := by decide +kernel

/-- System forms and hints (R64, R47): the words as their rows give them, every field at a value of its own. -/
theorem test_decode_system : decodes
    [(0xF2A29000, .gets 0x15 0x148), (0xF2A29001, .sets 0x15 0x148), (0xF0108422, .callsv 0x8421), (0xF0000003, .rett),
    (0xF0000004, .halt), (0xF2AA6805, .hstart 0x15 0xA 0xD), (0xF0000006, .hexit), (0xF00A0007, .grid 0xA),
    (0xF2A00008, .gnext 0x15), (0xF2AA0009, .graise 0x15 0xA), (0xF000000A, .gkill), (0xF000000B, .stepX), (0xF000000C, .stepC),
    (0xF000684D, .phreg 0xD 2), (0xF000680E, .phdrop 0xD), (0xF000680F, .phsig 0xD), (0xF0006810, .phwait 0xD),
    (0xF0006811, .phnext 0xD), (0xF00A00D2, .qpush 0xA 6), (0xF2A000D3, .qpop 0x15 6), (0xF0000014, .sdrain),
    (0xF00A6815, .tlbinvVa 0xA 0xD), (0xF0006835, .tlbinvAsid 0xD), (0xF0000055, .tlbinvPart), (0xF00A0016, .tlbretire 0xA),
    (0xF2AA0017, .capmint 0x15 0xA), (0xF4212345, .hintImm 0x212345), (0xF440002A, .hintMod 0x2A),
    (0xF4AD5A37, .hintPri 0x2D 0x5A3 7)] = true := by decide +kernel
/-- The words that the specification itself writes out for scalar instructions (R71, R85, R96, and the worked programs). -/
theorem test_words_scalar : decodes
    [(0x58A12008, .ldD 5 1 2 8), (0x0CC00028, .addi 6 0 40), (0x00E53000, .add 7 5 6), (0xF4000001, .hintImm 1),
    (0x0D002345, .addi 8 0 0x2345), (0x5CE1C010, .st 7 1 3 16), (0x00000009, .or 0 0 0), (0x7C070102, .loop 0 7 2),
    (0x7C1F0000, .jr 0 31), (0x00A60022, .clz 5 6 2), (0x04A63A00, .sel 5 6 7 8), (0x098D7184, .div 12 13 14 3 1 0),
    (0x24A01234, .ldhi 5 0 0x1234), (0x28A6000D, .shli 5 6 13), (0x28A600BF, .sari 5 6 63), (0x3C000000, .fence),
    (0x3C0C0002, .fenceA 12), (0x6500FFFD, .bne 8 0 0xFFFD), (0x2A020043, .shri 16 2 3), (0x01AC9002, .mul 13 12 18),
    (0x01CD2819, .sltb 14 13 5), (0x758B000C, .bgeb 12 11 12), (0x59ED0FF8, .ldD 15 13 0 0xFF8)] = true := by decide +kernel

/-- The same for system forms (R96, R136, R152 and their tables). -/
theorem test_words_system : decodes
    [(0xF0A00200, .gets 5 1), (0xF0C00401, .sets 6 2), (0xF0A29001, .sets 5 0x148), (0xF0002462, .callsv 0x123), (0xF0000003, .rett),
    (0xF0000004, .halt), (0xF0A63805, .hstart 5 6 7), (0xF0090072, .qpush 9 3), (0xF1400073, .qpop 10 3), (0xF0060007, .grid 6),
    (0xF1000008, .gnext 8), (0xF0A60009, .graise 5 6), (0xF000F810, .phwait 31), (0xF000384D, .phreg 7 2),
    (0xF0003811, .phnext 7)] = true := by decide +kernel

/-- The same for vector instructions (R185 and the tables of their chapter). -/
theorem test_words_vector : decodes
    [(0x80310105, .vld 3 4 1 0 0 5), (0x84310000, .vst 3 4 0 0), (0xA4200122, .vaddF 2 0 1 1 0 2), (0xA451874E, .vfma 5 6 7 2 0 2),
    (0xAD20420A, .vcmpF 2 2 1 2 0 0 2), (0xB0410E08, .vtanh 4 4 3 2 0 0), (0xB0510200, .vexp2 5 4 0 2 0 0), (0xBC410109, .vhaarFL 4 4 1),
    (0xBC410209, .vhaarFL 4 4 2), (0xBCA08308, .vhaarF 10 2 3 0), (0xBC700014, .vlq 7), (0xBC92410D, .vtag 9 9 1)] = true := by decide +kernel

/-- The same for the matrix engine, the engines and the exchange. -/
theorem test_words_engines : decodes
    [(0xC1953000, .mma 6 1 10 12 0 0 0 0), (0xC5043210, .mmaz 4 0 8 12 1 0 1 0), (0xC8121703, .msca 0 1 4 5 3 3),
    (0xCC275001, .mdrain 0 2 14 20 1), (0xD0B80000, .mldacc 2 3 16), (0xD4100000, .mzero 0 1), (0xD423A500, .mmovvToV 0 2 7 9),
    (0xD4058200, .mtag 0 0 11), (0xD4030385, .cbload 0 6 1 5), (0xD82A6001, .cpyv 0 21 6), (0xD8ACA582, .fill 2 22 10 11),
    (0xD8045003, .sbind 0 2 5), (0xDC288500, .xput 0 20 8 10 0), (0xDC688620, .xput 1 20 8 12 1), (0xDC288641, .xget 0 20 8 12 2),
    (0xE00A8483, .xadd 0 5 8 9 0 3), (0xE00C848D, .xcas 0 6 8 9 0 1), (0xE430C580, .xflag 0 24 12 11), (0xE40EE781, .xtask 0 7 14 15),
    (0xE8005010, .xexpect 5 2), (0xE8000011, .xwait 2)] = true := by decide +kernel

/-- Words that R53 rejects: blank, of an unassigned major, function, with a reserved field or a field out of range. -/
theorem test_rejected_words : [(0x00000000, Reject.blankWord), (0xFFFFFFFF, .blankWord), (0x2C000000, .unassignedMajor),
    (0x00000005, .unassignedFunction), (0x04A63A01, .reservedField), (0xD8000080, .outOfRange)].all
    (fun e => match decodeWord e.1 with | .ok _ => false | .error r => decide (r = e.2)) = true := by decide +kernel

/-! ## Ill-formed terms -/

/-- One ill-formed term for each check of an instruction's operands. -/
theorem test_wf_instructions : ([.loop 3 1 0, .vld 41 4 0 0 0 0, .vld 3 32 0 0 0 0, .vst 46 4 0 0, .vlds 3 4 32 0 0 0 0,
    .vgath 3 4 46 0 0 0 0, .vscat 46 4 0 0 0, .vaddInt 41 0 0 0 0 0, .vaddInt 0 46 0 0 0 0, .vaddInt 0 0 46 0 0 0, .vdivS 40 0 0 0 0 0,
    .vaddF 0 0 0 0 0 3, .vcmpS 6 1 0 0 0 0 0, .vcmpS 0 0 0 0 0 0 0, .vcmpF 7 1 0 0 0 0 0, .vcmpF 0 1 0 0 0 0 3, .vcvt 0 0 11 0 0 0 0,
    .vcvt 0 0 0 2 0 0 3, .vpack 0 0 3, .vred 0 0 1 3 0, .vhaarF 21 0 0 0, .vhaarFL 0 0 0, .vhaarFL 0 0 7, .vbcast 0 32 0 0, .vext 32 0 0,
    .vwhile 0 1 1 0, .vlq 32, .mma 0 0 1 2 0 0 0 0, .mma 0 0 0 9 0 1 0 0, .mma 0 0 0 8 0 1 0 4, .mma 0 0 0 0 0 0 1 0, .msca 0 0 0 1 0 0,
    .mdrain 0 0 1 0 0, .mldacc 0 0 1, .cpy 0 0 1 1, .fill 0 0 1 1, .xput 0 0 2 1 0, .xput 0 1 3 1 0, .xput 0 1 2 1 3, .xcas 0 0 2 1 0 0,
    .xcas 0 1 2 1 0 3, .xadd 0 0 2 1 3 0, .xflag 0 1 3 1, .xtask 0 1 3 1, .phreg 0 3, .hintPri 0 1 11, .hintPri 0 0 0] :
    List Instr).all (fun i => !i.wf) = true := by decide +kernel

/-- One ill-formed term for each check of an event's operands. -/
theorem test_wf_events : ([.coreReset 2304, .helperKill 0 11, .drectWrite 0 0 0, .drectWrite 0 4 0, .belfryReply 0 12 0 true,
    .migrationStart 0 64 0 0 0, .streamFetch 0 4, .towerRetire 288, .turretSeedStart 16, .wavefrontArrival 324, .bondDecision 0 4 true,
    .doorbellTailWrite 4160 0, .launchStart 4096, .eventAnswer 64 0 0, .faultTimeout 0 12, .partitionDestroy 64, .towerAssign 0 288 true,
    .moduleLinkDown 16, .linkWindowSetup 0 16 0 0] : List Instr).all (fun i => !i.wf) = true := by decide +kernel

/-! ## A small machine -/

/-- A control context that runs at a level, with general and per-context registers. -/
def ctx0 (p : BitVec 2) (g sr : Tab Word) : Ctx := { Ctx.empty .running with priv := p, pc := 0x8000100, g := g, sr := sr }

/-- The module after reset, but for core 0 with such a context. -/
def run (p : BitVec 2) (g sr : Tab Word) (f : Core → Core) : State :=
  { State.reset with cores := [(0, f { Core.reset with ctxs := [(0, ctx0 p g sr)] })] }

/-- At group level, nothing else changed. -/
def user (g : Tab Word) : State := run 0 g [] id

/-- At supervisor level. -/
def super (g : Tab Word) : State := run 1 g [] id

/-- The state an instruction leads to. -/
def after (i : Instr) (s : State) : State :=
  match exec i s with
  | .next t => t
  | _ => State.reset

/-- The sites of towers 0 and 1 in full service. -/
def up (s : State) : State :=
  { s with fab := { s.fab with sites := [(0, { Site.initial 0 with bs := 7 }), (1, { Site.initial 1 with bs := 7 })] } }

/-- Every instruction of a list may issue. -/
def allReady (s : State) (l : List Instr) : Bool := l.all s.ready

/-! ## Scalar instructions -/

/-- R36, R37, R79: the results of the examples. -/
theorem test_division_and_shifts :
    (after (.div 3 1 2 0 0 0) (user [(1, 0x8000000000000000), (2, 0xFFFFFFFFFFFFFFFF)])).g 3 = 0x8000000000000000 ∧
    (after (.div 3 1 2 0 0 0) (user [(1, 0xFFFFFFFFFFFFFFF9), (2, 2)])).g 3 = 0xFFFFFFFFFFFFFFFD ∧
    (after (.rem 3 1 2 0 0 0) (user [(1, 0xFFFFFFFFFFFFFFF9), (2, 2)])).g 3 = 0xFFFFFFFFFFFFFFFF ∧
    (after (.div 3 1 0 0 0 1) (user [(1, 7)])).g 3 = 0xFFFFFFFFFFFFFFFF ∧ (after (.rem 3 1 0 0 0 0) (user [(1, 7)])).g 3 = 7 ∧
    (after (.div 12 13 14 0 1 0) (user [(13, 0x180000000), (14, 0xFFFFFFFFFFFFFFFF)])).g 12 = 0xFFFFFFFF80000000 ∧
    (after (.rem 12 13 14 0 1 1) (user [(13, 0x180000000), (14, 0xFFFFFFFFFFFFFFFF)])).g 12 = 0x80000000 ∧
    (after (.sar 3 1 2) (user [(1, 0x8000000000000000), (2, 0xFFFFFFFFFFFFFFFF)])).g 3 = 0xFFFFFFFFFFFFFFFF ∧
    (after (.shr 3 1 2) (user [(1, 0x8000000000000000), (2, 65)])).g 3 = 0x4000000000000000 ∧
    (after (.shl 3 1 2) (user [(1, 3), (2, 64)])).g 3 = 3 := by decide +kernel

/-- R75: the results of the example. -/
theorem test_counts :
    ([(.clz 5 6 2, 23), (.clz 5 6 3, 0), (.ffs 5 6 0, 8), (.ffs 5 6 1, 8), (.popcnt 5 6 3, 33)] : List (Instr × Word)).all
      (fun e => decide ((after e.1 (user [(6, 0xFFFFFFFF00000100)])).g 5 = e.2)) = true := by decide +kernel

/-- R12: g0 reads as zero and discards writes. -/
theorem test_g0 : (after (.addi 0 0 7) (user [])).g 0 = 0 ∧ (after (.addi 1 0 0xFFFF) (user [])).g 1 = 0xFFFFFFFFFFFFFFFF := by
  decide +kernel

/-- Premises of ScalarArithmetic, Select, DivisionAndLateResults and Branches: ready, also with a bound HINT.IMM, for branches that
are taken and that are not; a pending result. -/
theorem premises_scalar :
    allReady (user [(1, 5), (2, 5)]) [.add 3 1 2, .sub 3 1 2, .mul 3 1 2, .mulhS64 3 1 2, .mulhB64 3 1 2, .and 3 1 2, .or 3 1 2, .xor 3 1 2,
      .andn 3 1 2, .shl 3 1 2, .shr 3 1 2, .sar 3 1 2, .slt 3 1 2, .sltb 3 1 2, .minS64 3 1 2, .minB64 3 1 2, .maxS64 3 1 2, .maxB64 3 1 2,
      .clz 3 0 3, .ffs 3 1 0, .popcnt 3 1 3, .sel 3 1 2 0, .sel 0 1 2 1, .div 3 1 0 0 0 1, .rem 3 1 2 15 1 0, .addi 3 1 7, .andi 3 1 7,
      .ori 3 1 7, .xori 3 1 7, .slti 3 1 7, .sltbi 3 1 7, .ldhi 3 1 7, .shli 3 1 63, .shri 3 1 0, .sari 3 1 63, .beq 1 2 3, .bne 1 2 3,
      .blt 1 0 3, .bge 1 2 3, .bltb 1 2 3, .bgeb 1 2 3] = true ∧
    (let s := (user [(1, 5)]).updCx fun x => { x with hint := { x.hint with imm := some 0x3FFFFF, next := x.pc } }
     allReady s [.addi 3 1 7, .andi 3 1 7, .beq 1 0 0x8000] = true ∧ s.widening = some 0x3FFFFF) ∧
    (user []).promptly 0 = true ∧ ({ user [] with late := true } : State).promptly 3 = false := by decide +kernel

/-- R81, R82, R84: jumps, the misaligned target, and LOOP with a count and without; premises of JumpAndLink, JumpRegister, HardwareLoops
and Hints. -/
theorem premises_control :
    allReady (user [(1, 0x8000203)]) [.jal 0x3FFFFFF, .jr 1 0, .jr 1 1, .loop 2 0 255, .loop 0 1 0, .hintImm 1, .hintMod 1, .hintPri 63 4095 10] = true ∧
    (user []).mayTrap ∧ (user [(1, 0x8000203)]).cx.endsAt 0x8000100 0 = false ∧
    (after (.jal 0x3FFFFFF) (user [])).cx.pc = 0x8000100 ∧ (after (.jal 0x3FFFFFF) (user [])).g 31 = 0x8000104 ∧
    (after (.jr 1 1) (user [(1, 0x8000203)])).core.reg 0x009 = 4 ∧ (after (.jr 1 1) (user [(1, 0x8000203)])).g 1 = 0x8000203 ∧
    (let s := (user []).updCx fun x => ((x.setReg 0x07A 1).setReg 0x07D 0x8000100).setReg 0x07B 2 |>.setReg 0x07E (2 ^ 56 + 0x80000FC)
     s.cx.endsAt 0x8000100 0 = true ∧ s.cx.endsAt 0x8000100 1 = true ∧ s.cx.endsAt 0x8000100 2 = false ∧ s.cx.loopStart 1 < s.cx.loopStart 0 ∧
     (after (.add 0 0 0) s).cx.pc = 0x80000FC ∧ (after (.add 0 0 0) s).cx.reg 0x07B = 1) ∧
    (((user []).coreAt 0).ctx 3).boostEnd ≤ (user []).clock ∧ (((user []).coreAt 0).ctx 3).halted = false := by
  unfold State.mayTrap; decide +kernel

/-! ## Memory instructions -/

/-- R14, R28, R87: a load of the own scratchpad, little-endian and sign-extended; the first byte beyond it reads 0 and is recorded. -/
theorem test_loads :
    (let s := ({ user [(1, 0x40)] with mem := [⟨0x800000040, 0x80⟩, ⟨0x800000041, 0x12⟩] } : State)
     (after (.ldB16 3 1 0 0) s).g 3 = 0x1280 ∧ (after (.ldS8 3 1 0 0) s).g 3 = 0xFFFFFFFFFFFFFF80) ∧
    (after (.ldD 3 1 0 0) (user [(1, 0x80000), (3, 9)])).g 3 = 0 ∧
    bits ((after (.ldD 3 1 0 0) (user [(1, 0x80000)])).cx.reg 0x002) 0 48 = 0x80000 := by decide +kernel

/-- R253: a store waits in the buffer and its drain writes its bytes. -/
theorem test_store_drain :
    (let t := after (.st 2 1 1 0) (user [(1, 0x40), (2, 0x12345)])
     t.core.sb.length = 1 ∧ (after (.storeDrain 0) t).byteAt 0x800000040 = 0x45 ∧
     (after (.storeDrain 0) t).byteAt 0x800000041 = 0x23 ∧ (after (.storeDrain 0) t).byteAt 0x800000042 = 0 ∧
     (after (.storeDrain 0) t).core.sb = []) := by decide +kernel

/-- R90: AMOMAX.s32 at a dome word, and AMOCAS whose comparison fails. -/
theorem test_atomics :
    (let s := ({ user [(1, 0x8000000), (2, 5)] with mem := [⟨0, 0xFF⟩, ⟨1, 0xFF⟩, ⟨2, 0xFF⟩, ⟨3, 0xFF⟩] } : State)
     let t := after (.amomaxS 3 1 0 2) s
     t.g 3 = 0xFFFFFFFFFFFFFFFF ∧ t.byteAt 0 = 5 ∧ t.byteAt 3 = 0 ∧ (after (.amocas 3 1 0 2) s).byteAt 0 = 0xFF ∧
     (after (.amocas 3 1 0 2) s).g 3 = 0xFFFFFFFF) := by decide +kernel

/-- Premises of LoadsAndAddresses: the misaligned form, and an access that nothing holds, at the last byte of the scratchpad, the first
and the last of the dome, and outside both. -/
theorem premises_loads :
    allReady (user [(1, 1)]) [.ldB8 3 1 15 0xFFF, .ldS8 3 1 0 0, .ldB16 3 1 0 0, .ldS16 3 1 0 0, .ldB32 3 1 0 0, .ldS32 3 1 0 0, .ldD 3 1 0 0] = true ∧
    ([0x7FFFF, 0x80000, 0x8000000, 0xBFFFFFF, 0xC000000] : List Nat).all (fun ea =>
      let s := user [(1, BitVec.ofNat 64 ea)]
      let r := s.begin.locate s.lcn s.k (s.begin.query s.lcn s.k true false false true) (byteEAs (BitVec.ofNat 64 ea) 1)
      decide (r.1 = .ok []) && (!r.2.loadHeld s.lcn s.k [] [ea] && (!r.2.core.fpHoldsAccess ([ea].filterMap (r.2.spotPA s.lcn [])) &&
        (s.calm && ((Tab.find? s.core.mail s.k).isNone && !isVirtual ea))))) = true ∧
    (user []).spotPA 0 [] 0x7FFFF = some (0x800000000 + 0x7FFFF) ∧ (user []).spotPA 0 [] 0x8000000 = some 0 ∧
    (user []).spotPA 0 [] 0xC000000 = none := by decide +kernel

/-- Premises of StoresAndDrains: a misaligned store, one outside the windows with OOR clear and set, one inside; a drain. -/
theorem premises_stores :
    allReady (user [(1, 0x80000)]) [.st 2 1 3 0, .st 2 1 3 1] = true ∧ outOfRange 0x80000 = true ∧ outOfRange 0x7FFF8 = false ∧
    bit ((user []).cx.reg 0x002) 63 = false ∧ bit ((after (.st 2 1 3 0) (user [(1, 0x80000)])).cx.reg 0x002) 63 = true ∧
    (let s := after (.st 2 1 3 0) (user [(1, 0x7FFF8)])
     ∃ e u, s.core.sb = e :: [] ∧ s.core.hold = false ∧ s.core.dbg.halt = false ∧ Tab.find? s.core.mail 11 = none ∧ s.calm = true ∧
       s.unjournalled = true ∧ s.fab.migs = [] ∧ s.headPlaces 0 e = (.ok [], u) ∧
       u.core.fpHoldsDrain e.seq (e.eas.filterMap (u.spotPA 0 [])) = false) := by
  refine ⟨by decide +kernel, by decide +kernel, by decide +kernel, by decide +kernel, by decide +kernel,
    nth ⟨0, 0, 0, 0, 0, 0, 0, false, 0, none, 0, 0, 0, 0, 0⟩ (after (.st 2 1 3 0) (user [(1, 0x7FFF8)])).core.sb 0,
    after (.st 2 1 3 0) (user [(1, 0x7FFF8)]), ?_⟩
  decide +kernel

/-- A proxied ADD of 4 bytes for context 0 of core 0. -/
def proxy (st : ProxySt) : ProxyOp :=
  { id := 1, lcn := 0, k := 0, pa := 0x40, va := 0x8000040, op := 0, size := 4, operand := 7, expect := 0, st := st, leg := none }

/-- Premises of Atomics and ProxiedAtomicsAndFences: a word the core performs itself, a misaligned one, one outside the windows, one
answered by its home; a proxied operation at each stage; fences with nothing and with something to wait for. -/
theorem premises_atomics :
    (let s := user [(1, 0x8000040)]
     let r := s.begin.locate 0 0 { s.begin.query 0 0 true true false false with peer := true } [0x8000040]
     r.1 = .ok [] ∧ r.2.spotPA 0 [] 0x8000040 = some 0x40 ∧ r.2.drainsFirst = false ∧ r.2.isLocal 0 0x40 = true ∧
     r.2.core.fpHoldsAccess [0x40] = false ∧ s.calm = true ∧ s.unjournalled = true ∧ s.fab.migs = [] ∧ s.fab.proxies = [] ∧
     allReady s [.amoadd 3 1 0 2, .amoswap 3 1 0 2, .amocas 3 1 0 2, .amominS 3 1 1 2, .amominB 3 1 0 2, .amomaxS 3 1 0 2, .amomaxB 3 1 1 2] = true) ∧
    outOfRange 0x7FFFF8 = true ∧ 0x8000042 % 4 ≠ 0 ∧
    (let q := fun st => up { user [(1, 0x8000040)] with fab := { Fabric.reset with proxies := [proxy st] } }
     (q .queued).proxyHead (proxy .queued) = true ∧ (q .sent).proxyAccepted (proxy .sent) = true ∧
     ({ q .sent with fab := { Fabric.reset with proxies := [proxy .sent] } } : State).proxyAccepted (proxy .sent) = false ∧
     (q (.answered (some 7))).ready (.amoadd 3 1 0 2) = true ∧
     (q .sent).legAhead (proxy .sent).leg = false ∧ (proxy (.performed none)).k ≠ 11 ∧ (proxy .sent).operand.toNat < 2 ^ 32 ∧
     ((q .sent).fab.proxies.find? fun x => x.id == 1) = some (proxy .sent)) ∧
    allReady (user []) [.fence, .fenceR 0, .fenceA 0, .fenceAr 0, .sdrain] = true ∧
    (user []).begin.olderPending = false ∧ (user []).begin.drainsFirst = false ∧ (user []).begin.tokensDue true = false ∧
    (after (.st 2 1 3 0) (user [(1, 0x40)])).begin.drainsFirst = true := by decide +kernel

/-! ## Vector instructions -/

/-- A register whose lowest elements of w bits are those of a list. -/
def elems (w : Nat) (tag : BitVec 2) (l : List Nat) : VReg := ⟨BitVec.ofNat 2048 (l.foldr (fun x n => n * 2 ^ w + x) 0), tag⟩

/-- A core whose registers v0 on hold the elements of lists. -/
def vecs (l : List (Nat × VReg)) (c : Core) : Core := { c with vec := { c.vec with v := l } }

/-- An element of v-register d after an instruction. -/
def lane (w d i : Nat) (s : State) : Nat := elem w (s.core.vec.reg (BitVec.ofNat 6 d)).data.toNat i

/-- R182 to R185: the steps of the example. -/
theorem test_haar :
    (let s := run 0 [] [] (vecs [(4, elems 32 0 [0x40800000, 0x40000000, 0x40C00000, 0x40C00000])])
     let t := after (.vhaarFL 4 4 1) s
     let u := after (.vhaarFL 4 4 2) t
     let v := after (.vhaarIL 6 6 1) (after (.vhaarIL 6 4 2) u)
     [lane 32 4 0 t, lane 32 4 1 t, lane 32 4 32 t] = [0x40400000, 0x40C00000, 0x3F800000] ∧ (t.core.vec.reg 4).dom = 2 ∧
     [lane 32 4 0 u, lane 32 4 16 u, lane 32 4 32 u] = [0x40900000, 0xBFC00000, 0x3F800000] ∧
     [lane 32 6 0 v, lane 32 6 1 v, lane 32 6 2 v, lane 32 6 3 v] = [0x40800000, 0x40000000, 0x40C00000, 0x40C00000] ∧
     (v.core.vec.reg 6).dom = 0 ∧ (after (.vexp2 5 4 0 2 0 0) u).core.reg 0x00B = 0x42B0510200 ∧
     (after (.vexp2 5 4 0 2 0 0) u).core.reg 0x009 = 8) := by decide +kernel

/-- R174, R185: 2 to the powers 4.0, 2.0 and 6.0. -/
theorem test_vexp2 :
    (let t := after (.vexp2 5 6 0 2 0 0) (run 0 [] [] (vecs [(6, elems 32 0 [0x40800000, 0x40000000, 0x40C00000])]))
     [lane 32 5 0 t, lane 32 5 1 t, lane 32 5 2 t, lane 32 5 63 t] = [0x41800000, 0x40800000, 0x42800000, 0x3F800000]) := by decide +kernel

/-- R181: the masks of the example. -/
theorem test_vmatch :
    (let t := after (.vmatchB32 9 8 0) (run 0 [] [] (vecs [(8, elems 32 0 ([5, 7, 5, 5] ++ (List.range 60).map (104 + ·)))]))
     [lane 32 9 0 t, lane 32 9 1 t, lane 32 9 2 t, lane 32 9 3 t, lane 32 9 4 t, lane 32 9 32 t] = [13, 2, 13, 13, 16, 1]) := by decide +kernel

/-- R163, R166: VWHILE activates 36 elements, and VADD merges the others. -/
theorem test_vwhile :
    (let s := run 0 [(5, 64), (6, 100)] [] (vecs [(2, elems 32 0 (List.replicate 64 0x40000000)), (3, elems 32 0 (List.replicate 64 0x3F800000))])
     let t := after (.vwhile 1 5 6 2) s
     (t.core.vec.pred 1).toNat = 2 ^ 144 - 1 ∧ lane 32 3 35 (after (.vaddF 3 2 2 1 0 2) t) = 0x40800000 ∧
     lane 32 3 36 (after (.vaddF 3 2 2 1 0 2) t) = 0x3F800000) := by decide +kernel

/-- Premises of VectorIntegers to VectorMoves: registers of tag 0 and of another tag, a stream that is served, merging and zeroing. -/
theorem premises_vectors :
    (let s := run 0 [] [] (vecs [(1, elems 8 2 [255, 1]), (2, elems 8 2 [1, 2])])
     s.served [] [1, 2] = true ∧ (s.core.sources [] [1, 2]).2 &&& s.en = 0 ∧ s.core.tagOf 1 = 2 ∧ s.core.tagOf 2 = 2 ∧ s.en = 0 ∧
     allReady s [.vaddInt 3 1 2 0 0 0, .vsubInt 3 1 2 1 1 3, .vnegInt 3 1 0 0 0, .vaddF 3 1 2 0 0 2, .vsubF 3 1 2 0 0 2, .vnegF 3 1 0 0 2,
       .vpack 3 1 2, .vunpack 3 1 0, .vperm 3 1 0 0 2, .vhaarF 4 1 2 0, .vhaarI 4 1 2 0, .vhaarFL 3 1 6, .vhaarIL 3 1 1, .vext 7 1 3, .vtag 3 1 3,
       .vsca 3 1 0 0] = true) ∧
    (let s := user [(1, 5)]
     s.core.tagOf 0 = 0 ∧ (s.core.vec.reg 3).dom = 0 ∧
     allReady s [.vmulInt 3 1 2 0 0 0, .vminS 3 1 2 0 0 0, .vminB 3 1 2 0 0 0, .vmaxS 3 1 2 0 0 0, .vmaxB 3 1 2 0 0 0, .vshl 3 1 2 0 0 0, .vshr 3 1 2 0 0 0,
       .vsar 3 1 2 0 0 0, .vand 3 1 2 0 0, .vor 3 1 2 0 0, .vxor 3 1 2 0 0, .vandn 3 1 2 0 0, .vabsInt 3 1 0 0 0, .vclz 3 1 0 0 0, .vffs 3 1 0 0 0,
       .vpop 3 1 0 0 0, .vdivS 3 1 0 0 0 0, .vdivB 3 1 15 3 1 1, .vremS 3 1 0 0 0 0, .vremB 3 1 0 0 0 0, .vmulF 3 1 2 0 0 0, .vfma 3 1 2 0 0 1,
       .vminF 3 1 2 0 0 2, .vmaxF 3 1 2 0 0 2, .vabsF 3 1 0 0 0, .vexp2 3 1 15 0 0 0, .vlog2 3 1 0 0 0 0, .vrcp 3 1 0 0 0 0, .vrsq 3 1 0 0 0 0,
       .vtanh 3 1 0 0 0 0, .vgelu 3 1 0 0 0 0] = true ∧
     allReady s [.vcmpS 5 7 1 2 0 0 0, .vcmpB 0 1 1 2 0 1 3, .vcmpF 6 1 1 2 0 0 2, .vsel 3 1 2 1, .vcvt 3 1 10 2 0 0 2, .vdot 3 1 2 0 0 3, .vred 3 1 7 2 1,
       .vbcast 3 31 3 1, .vmatchB32 3 1 1, .vmatchB64 3 1 0, .vwhile 7 0 31 3, .vlq 31] = true) ∧
    (let s := (run 0 [] [] fun c => { c with streams := [(1, ⟨List.replicate 64 1, [], 0, 0, 0, [⟨elems 8 0 [7], 0, none⟩], false, []⟩)] })
     smSlot 43 = some 1 ∧ s.served [] [43] = true ∧ s.served [] [43, 43] = false ∧ s.core.sources [] [43] = ([elems 8 0 [7]], 0)) := by
  decide +kernel

/-- Premises of the clauses on Round, RoundInt, TBQuant and ExactSum: an exact number, a tie, an overflow and a number below every
subnormal one; 1.5; a block of sixteen 1.0; a finite sum, one with a NaN, one with an infinity, and one with a NaN and a provenance. -/
theorem premises_numbers :
    (fp32.p = 24 ∧ fp32.bias = 127 ∧ dyValue ⟨3, 0⟩ = 3 ∧ (2 : ℚ) ^ (1 : ℤ) ≤ |3| ∧ |(3 : ℚ)| < 2 ^ (2 : ℤ) ∧ roundsTo 0 3 ((2 : ℚ) ^ (-22 : ℤ)) 12582912) ∧
    (dyValue ⟨16777217, 0⟩ = 16777217 ∧ (2 : ℚ) ^ (24 : ℤ) ≤ |16777217| ∧ |(16777217 : ℚ)| < 2 ^ (25 : ℤ) ∧
      roundsTo 0 16777217 ((2 : ℚ) ^ (1 : ℤ)) 8388608) ∧
    (dyValue ⟨1, 128⟩ = (2 : ℚ) ^ (128 : ℤ) ∧ roundsTo 0 ((2 : ℚ) ^ (128 : ℤ)) ((2 : ℚ) ^ (105 : ℤ)) 8388608 ∧
      (2 - (2 : ℚ) ^ (1 - (24 : ℤ))) * (2 : ℚ) ^ (127 : ℤ) < (2 : ℚ) ^ (128 : ℤ)) ∧
    (dyValue ⟨1, -150⟩ = (2 : ℚ) ^ (-150 : ℤ) ∧ roundsTo 0 ((2 : ℚ) ^ (-150 : ℤ)) ((2 : ℚ) ^ (-149 : ℤ)) 0 ∧
      roundsTo 0 ((2 : ℚ) ^ (-150 : ℤ)) ((2 : ℚ) ^ (-173 : ℤ)) 8388608) ∧
    (fp32.finite 0x3FC00000 = true ∧ fp32.value 0x3FC00000 = 3 / 2 ∧ roundsTo 0 (3 / 2) 1 2 ∧ fp32.isNaN 0x7FC00000 = true ∧
      fp32.isInf 0xFF800000 = true ∧ fp32.finite 0x3F800000 = true ∧ fp32.value 0x3F800000 = 1) ∧
    ((tbQuant 0 (List.replicate 16 0x3F800000)).1 % 256 = 127 ∧ (tbQuant 0 (List.replicate 16 0x3F800000)).1 / 256 % 2 = 0 ∧ tbM 0 = 2 ∧
      roundsTo 0 |1| ((2 : ℚ) ^ (127 - 127 - 0 - (2 - 1) : ℤ)) 2 ∧ roundsTo 0 |1| ((2 : ℚ) ^ (126 - 127 - 0 - (2 - 1) : ℤ)) 4) ∧
    (let p : Prod' := ⟨[(fp32, 0x40000000), (fp32, 0x40400000)]⟩
     let q : Prod' := ⟨[(fp32, 0xFF800000), (fp32, 0x40400000)]⟩
     p.bad = false ∧ p.hasNaN = false ∧ p.hasSNaN = false ∧ p.isInf = false ∧ p.isZero = false ∧ p.factors.all (fun x => x.1.finite x.2) = true ∧
     q.isInf = true ∧ q.neg = true ∧ q.hasNaN = false ∧ q.bad = false ∧ fp32.isInf 0x7F800000 = true ∧ fp32.neg 0x7F800000 = false) := by
  refine ⟨⟨rfl, rfl, ?_⟩, ?_, ?_, ?_, ⟨by decide +kernel, ?_, ?_, by decide +kernel, by decide +kernel, by decide +kernel, ?_⟩,
    ⟨by decide +kernel, by decide +kernel, by decide +kernel, ?_⟩, by decide +kernel⟩
  · norm_num [dyValue, roundsTo]
  · norm_num [dyValue, roundsTo]; decide
  · norm_num [dyValue, roundsTo]
  · norm_num [dyValue, roundsTo]; decide
  · rw [Fmt.value, show fp32.val 0x3FC00000 = ⟨12582912, -23⟩ by decide +kernel]; norm_num [dyValue]
  · norm_num [roundsTo]; decide
  · rw [Fmt.value, show fp32.val 0x3F800000 = ⟨8388608, -23⟩ by decide +kernel]; norm_num [dyValue]
  · norm_num [roundsTo]

/-- Premises of VectorMemory: VLD at a multiple of 64 and not, its bytes located; VST with every byte outside the windows and inside; VSCAT of
two elements; VADD of different tags, VMUL of a tag, merging into another tag, a stream that is not bound, and an enabled flag. -/
theorem premises_vector_memory :
    (let s := user [(4, 0x100), (5, 0x110)]
     let r := s.begin.locate 0 0 (s.begin.query 0 0 true false false true) ((List.range 256).map (0x100 + ·))
     allReady s [.vld 3 4 0 0 0 0, .vld 3 5 0 0 0 0, .vlds 3 4 0 0 0 3 3, .vgath 3 4 1 0 0 2 0, .vst 3 4 0 0, .vst 3 5 0 0, .vscat 3 4 1 1 2] = true ∧
     r.1 = .ok [] ∧ r.2.loadHeld 0 0 [] ((List.range 256).map (0x100 + ·)) = false ∧
     r.2.core.fpHoldsAccess (((List.range 256).map (0x100 + ·)).filterMap (r.2.spotPA 0 [])) = false ∧ s.calm = true ∧ s.mayTrap ∧
     s.cx.appended = 0 ∧ (s.core.vec.pred 0).toNat = 2 ^ 256 - 1 ∧ s.core.vec.pred 1 = 0 ∧ outOfRange 0x80000 = true) ∧
    (let s := run 0 [] [(0x001, 0x80)] (vecs [(1, elems 8 2 [1])])
     s.core.tagOf 1 ≠ s.core.tagOf 2 ∧ s.core.unbound [1, 2] = false ∧ s.core.unbound [42, 2] = true ∧ s.mayTrap ∧
     allReady s [.vaddInt 3 1 2 0 0 0, .vmulF 3 1 2 0 0 2, .vaddInt 1 2 2 1 0 0, .vaddInt 3 42 2 0 0 0] = true ∧ s.en ≠ 0) := by
  unfold State.mayTrap; decide +kernel

/-! ## The matrix engine -/

/-- R111, R114, R116: the chunks of the examples, and the NaN of a chunk that multiplies infinity by zero. -/
theorem test_chunks :
    (chunkLoop 0 0 0 0 (0x3F800000, 0) [[0x39800000, 0x39800000]] [[0x39800000, 0x39800000]]).1 = 0x3F800001 ∧
    (chunkLoop 0 0 0 0 (0x80000000, 0) [[0, 0x80000000]] [[0x40400000, 0x40A00000]]).1 = 0x80000000 ∧
    (chunkLoop 0 430 5 0 (0, 0) [[0x7F800000, 0]] [[0, 0]]).1 = 0x7FC6B805 := by decide +kernel

/-- A tile descriptor of FP32: pitch 256, 64 columns, r + 1 rows, at scratchpad 0. -/
def tile (r : Nat) : Tab Word := [(10, 16 * 2 ^ 48), (11, BitVec.ofNat 64 (63 * 2 ^ 46 + r * 2 ^ 39))]

/-- Premises of Accumulators, MatrixProducts and MatrixMemoryAndQueue: the engine free and full, tags at both ends of their range, an operand
tile that is read, an ill-formed one, a misaligned codebook, a queued MZERO that may perform, and an
MSCA whose steps the governor holds. Whether a drain is split is Config's to say (log entry 9). -/
theorem premises_matrix :
    (let s := user (tile 0 ++ [(12, 27), (13, 512), (14, 0x800)])
     let e := s.opndEAs 0 10
     let r := s.begin.locateAll 0 0 (s.begin.query 0 0 true false false true) [e, e] []
     allReady s [.mzero 0 3, .mtag 0 0 12, .mtag 0 0 13, .mmovvToV 0 0 7 0, .mmovvToAcc 0 0 7 0, .msca 0 0 1 0 0 0, .msca 0 0 1 2 3 3, .mma 0 0 10 10 0 0 0 0,
       .mmaz 0 0 10 10 0 0 0 0, .mldacc 0 0 10, .cbload 0 14 0 7, .cbload 0 12 1 0, .mdrain 0 0 10 5 1] = true ∧
     s.core.mat.queue = [] ∧ (s.core.governNow s.clock).governed = false ∧ s.promptly 0 = true ∧ s.en = 0 ∧
     s.opndWhy 0 10 0 = none ∧ s.mmaDomain false 0 10 10 0 0 = none ∧ s.mmaDomain true 0 10 10 0 0 = none ∧
     r.1 = .ok [] ∧ r.2.fetchHeld 0 [] [e, e].flatten = false ∧ e.length = 256 ∧
     r.2.core.fpHoldsAccess ([e, e].flatten.filterMap (r.2.spotPA 0 [])) = false ∧ s.calm = true ∧ Tab.find? s.core.mail 0 = none ∧
     s.tileWhy .load (s.g 10) (s.g 11) = none ∧ s.tileWhy .drain (s.g 10) (s.g 11) = none ∧ (s.tileWhy .load 1 0).isSome = true ∧
     s.unjournalled = true ∧ s.fab.migs = [] ∧ s.mayTrap) ∧
    (let q : MatOp := ⟨.mzero 3 1, 3, 0, 0, 0, none, 0, .none, .none⟩
     let s := fun n => run 0 [] [] fun c => { c with mat := { c.mat with queue := List.replicate n q } }
     (s 3).ready (.mzero 0 0) = true ∧ (s 4).ready (.mzero 0 0) = true ∧ q.blocks = false ∧ (s 4).core.mat.queue.length = 4 ∧
     ({ s 3 with late := true } : State).promptly 2 = false ∧ (s 1).drainHeld 0 q = false ∧
     ((s 1).govern 0 q).1 = 0 ∧ ((s 1).govern 0 q).2.1 = true ∧ ((s 1).govern 0 q).2.2.drainSplits 0 q = none) ∧
    (let q : MatOp := ⟨.msca 0 0 1 0 0 0, 0, 0, 0, 0, none, 0, .scalar 5, .none⟩
     let s := run 0 [] [] fun c => { c with sr := [(mgovNow, 0x10064)], mat := { c.mat with queue := [q] } }
     (s.core.governNow s.clock).governed = true ∧ (s.core.governNow s.clock).mat.rem ≤ 0 ∧ s.drainHeld 0 q = false ∧
     (s.govern 0 q).1 = 0 ∧ (s.govern 0 q).2.1 = false ∧ (s.core.reg 0x0C3).toNat < 2 ^ 64 - 1) := by
  unfold State.mayTrap; decide +kernel

/-! ## Engines and the exchange -/

/-- Memory that holds nonzero little-endian numbers of 8 bytes at rising addresses. -/
def words (l : List (Nat × Nat)) : List Host.Cell :=
  l.flatMap fun e => ((leBytes 8 e.2).zipIdx.map fun b => ((e.1 + b.2, b.1) : Host.Cell)).filter fun c => c.2 ≠ 0

/-- A footprint entry with nothing in it. -/
def entry (n : Nat) (op : EngineOp) (st : Stage) : Fp :=
  { id := n, ctx := 0, tok := 3, op := op, stage := st, rd := [], wr := [], far := [], packets := [], after := 0, rel := false, acq := false,
    nth := 0, leg := none }

/-- A machine with entries in the scheduler of core 0. -/
def busy (g : Tab Word) (l : List Fp) : State := up (run 0 g [] fun c => { c with fps := l, count := 99 })

/-- R287, R285: a copy of 8 bytes from the scratchpad to the dome, and its token. -/
theorem test_cpy :
    (let s := { user [(1, 0x8000000), (2, 0x40), (3, 8)] with mem := words [(0x800000040, 0x1122334455667788)] }
     let t := after (.cpy 0 3 1 2) s
     let u := after (.engineTransferBegin 0 1) (after (.engineTransferBegin 0 1) t)
     t.core.fps.length = 1 ∧ u.byteAt 0 = 0x88 ∧ u.byteAt 7 = 0x11 ∧ (after (.transferEnd 0 1) u).g 3 = 8 ∧
     (after (.transferEnd 0 1) u).core.fps = []) := by decide +kernel

/-- Premises of EngineIssue: misaligned, full, length 0, too long, reached, not reached; a card of one region, and cards that fail. -/
theorem premises_copies :
    (let s := user [(1, 0x8000000), (2, 0x40), (3, 16777216), (4, 4), (5, 16777224), (6, 0x80000)]
     allReady s [.cpy 0 3 1 2, .fill 0 3 1 2, .cpy 0 4 1 2, .cpyv 0 3 2, .cpyv 0 3 4, .cpyv 0 3 6] = true ∧ s.mayTrap ∧ s.calm = true ∧
     (s.begin.reachBoth false (s.g 1) (s.g 2) 8).1 = .ok ([(0, 8)], [(0x800000040, 8)]) ∧
     (match (s.begin.reachBoth true (s.g 1) (s.g 2) 8).1 with | .error e => decide (e.stat = 3 ∧ e.reason = 13) | .ok _ => false) = true ∧
     (busy [] (List.replicate 16 (entry 1 (.sbind 0) .begun))).ready (.cpy 0 3 1 2) = true) ∧
    (let s := { user [(2, 0x40)] with mem := words [(0x800000040, 1), (0x800000060, 0x100), (0x800000068, 0x8000000), (0x800000070, 8)] }
     s.begin.peek 0x40 1 = 1 ∧ s.begin.cardWhy 0x40 1 = none ∧ (s.begin.peekable ((List.range 64).map (0x40 + ·))).isNone = true ∧
     (s.begin.peekable [0x40]).isNone = true ∧ s.begin.cardWhy 0x48 0 = some 9 ∧ s.begin.cardWhy 0x30 1 = some 10 ∧
     (s.begin.reachCard (s.begin.cardRegions 0x40 1)).1 = [(0, 8)] ∧ (s.begin.reachCard (s.begin.cardRegions 0x40 1)).2.1 = [(0x800000100, 8)] ∧
     (s.begin.reachCard (s.begin.cardRegions 0x40 1)).2.2.2.1.isNone = true) := by
  unfold State.mayTrap; decide +kernel

/-- A binding record: one FP32 tile of one row at scratchpad 0x1000. -/
def binding : List Byte :=
  leBytes 8 (16 * 2 ^ 48 + 0x1000) ++ leBytes 8 (63 * 2 ^ 46) ++ List.replicate 24 0 ++ leBytes 8 0x100010001 ++ List.replicate 16 0

/-- Premises of Streams and Transfers: a good record and a bad one, a record with a scale vector, a stream whose row is fetched, a copy that may
begin and one that is held, a list and a FILL that have begun, transfers at their end. -/
theorem premises_streams :
    (let s := { user [(2, 0x40), (3, 0x41), (4, 0x7FFC0), (5, 0x80000)] with
       mem := words [(0x800000040, 16 * 2 ^ 48 + 0x1000), (0x800000048, 63 * 2 ^ 46), (0x800000068, 0x100010001)] }
     let x : Stream := ⟨binding, [], s.rm, 0, 0, [], false, []⟩
     allReady s [.sbind 0 1 2, .sbind 0 1 3, .sbind 0 1 4, .sbind 0 1 5, .sunbind 3] = true ∧ s.begin.bindWhy x = none ∧ x.ops = 0 ∧
     ((List.range 64).map fun i => s.begin.loadByte 0 0 [] (0x40 + i)) = binding ∧
     (s.begin.peekable ((List.range 64).map (0x40 + ·))).isNone = true ∧ s.calm = true ∧
     (s.begin.bindWhy { x with record := List.replicate 64 0 }).isSome = true) ∧
    (let x : Stream := ⟨binding.take 48 ++ (leBytes 8 8 ++ leBytes 8 0x2000), [], 0, 0, 0, [], false, []⟩
     (user []).begin.bindWhy x = none ∧ x.ops / 8 % 2 = 1 ∧ x.u 0x38 8 = 0x2000 ∧
     ((user []).begin.peekable ((List.range 256).map (0x2000 + ·))).isNone = true) ∧
    (let s := run 0 [] [] fun c => { c with streams := [(1, ⟨binding, [], 0, 0, 0, [], false, []⟩)] }
     let x : Stream := ⟨binding, [], 0, 0, 0, [], false, []⟩
     let b := s.streamBegin 0 1
     x.ended = false ∧ s.core.enginesRun = true ∧ s.calm = true ∧ (x.tileAt 0).fmt ≠ 8 ∧ b.1 = true ∧ (b.2.streamLocate 0 (granules ((x.rowsRead (x.tileAt 0)).flatMap (streamEAs (x.tileAt 0)))) []).1 = .ok []) ∧
    (let f := { entry 1 (.cpy 0 8 8) .accepted with rd := [(8, 8)], wr := [(0, 8)] }
     let s := busy [] [f]
     s.fp? 0 1 = some f ∧ s.engineHeld 0 f = false ∧ s.core.releaseHeld f = false ∧ f.op.remote? = none ∧ s.calm = true ∧
     s.unjournalled = true ∧ s.fab.migs = []) ∧
    (let f := { entry 2 (.cpy 0 8 8) .accepted with rd := [(8, 8)], wr := [(0, 8)] }
     (busy [] [{ entry 1 (.cpy 0 64 64) .begun with rd := [(64, 64)], wr := [(8, 8)] }, f]).engineHeld 0 f = true) ∧
    ([entry 1 (.cpyv [(0x40, 0x8000000, 8)] none) .begun, entry 1 (.fill 0 0x8000000 8) .begun].all fun f =>
      (busy [] [f]).fp? 0 1 == some f && ((busy [] [f]).refusedAt 0x8000000 [0, 1] == none && (busy [] [f]).core.enginesRun)) = true ∧
    (busy [] [entry 1 (.sbind 0) (.ended (0 - 3) (some ⟨3, 13, 7⟩))]).fp? 0 1 = some (entry 1 (.sbind 0) (.ended (0 - 3) (some ⟨3, 13, 7⟩))) ∧
    (busy [] [entry 1 (.sbind 0) (.ended 8 none)]).fp? 0 1 = some (entry 1 (.sbind 0) (.ended 8 none)) ∧
    bit ((user []).core.reg 0x101) 63 = false := by decide +kernel

/-- A gang of cores 0 and 1 of tower 0, numbered 1, of partition 0. -/
def gang1 : Gang :=
  { id := 1, part := 0, d0 := 0, x0 := 0, y0 := 0, x1 := 0, y1 := 0, mask := 3, record := [], shadow := none, slim := 0, cbud := 0, xbud := 0,
    queue := 0, seq := 0, cpl := 0, killed := 0, active := true, ended := false, status := 0,
    gr := { req := false, area := 0, reqAt := 0, st := 0, err := 0, mapchg := false, progress := 0, nrg := false, tmis := 0, rb := 0, rbHere := 0,
            report := none } }

/-- Its domain, in a phase. -/
def dom1 (p : Nat) : Domain :=
  { key := ⟨1, 0, 0⟩, dph := p, scnt := 0, ovr := false, sstep := 0, count := 2, startCount := 2, next := 0, phaseStart := 0, since := 0, spent := false,
    entered := decide (2 ≤ p), parked := false, carried := false, done := false, barrierAt := 0,
    record := { early := 0, late := 0, sum := 0, k := false, ncore := 0, ss := 0, last := 0 }, formed := none, overrun := false }

/-- The gang on towers in service, in compute or in exchange; `f` changes core 0. -/
def inGang (x : Bool) (lvl : BitVec 2) (g : Tab Word) (f : Core → Core) : State :=
  let s := up (run lvl g [] f)
  let join := fun c : Core => { c with mem := { c.mem with gang := 1, shown := 1 } }
  let s := { s with cores := [(0, join (s.coreAt 0)), (1, join { Core.reset with ctxs := [(0, ctx0 0 [] [])] })]
                    towers := [(0, { Tower.reset with part := some 0 })] }
  { s with arb := { s.arb with gangs := [gang1], doms := [dom1 (if x then 2 else 0)], win := if x then .exchange else .compute, nextGang := 2 }
           host := { s.host with parts := [(0, { Machine.Part.none with vfs := [3] })] } }

/-- A capability of partition 0 for core 1, to write and to wake. -/
def cap1 : Word := BitVec.ofNat 64 (53089334 * 2 ^ 38 + 0x3001)

/-- R300, R302: XFLAG writes its word at the target. -/
theorem test_xflag :
    (let s := inGang true 0 [(8, cap1), (9, 0x40), (2, 0x1122)] id
     let t := after (.xflagArrival 0 1) (after (.engineTransferBegin 0 1) (after (.xflag 0 3 8 2) s))
     t.byteAt (s.scratchPA 1 0x40) = 0x22 ∧ t.byteAt (s.scratchPA 1 0x41) = 0x11 ∧ (after (.transferEnd 0 1) t).g 3 = 8) := by decide +kernel

/-- Premises of ExchangeIssue: a good capability and a bad one; ready; misaligned; full; a stale generation, no such core, and a good target; a
range at the end of the target's scratchpad and one beyond. -/
theorem premises_exchange :
    (let s := inGang true 0 [(8, cap1), (9, 0x40), (2, 8), (3, 8), (4, 0x41), (6, 64)] id
     allReady s [.xadd 0 5 8 2 0 0, .xmin 0 5 8 2 1 1, .xmax 0 5 8 2 2 2, .xcas 0 5 8 2 0 1, .xflag 0 5 8 2, .xput 0 3 8 2 0, .xget 0 3 8 2 2, .xput 0 3 8 4 0,
       .xtask 0 5 8 6, .xtask 0 5 8 2] = true ∧
     s.capBad cap1 true = false ∧ s.capBad 0 false = true ∧ s.mayTrap ∧ bits cap1 22 16 = s.fab.mapgen.toNat ∧ s.isCore 1 = true ∧
     s.isCore 2303 = false ∧ s.remoteView 1 0x7FFF8 8 = some (s.scratchPA 1 0x7FFF8) ∧ s.remoteView 1 0x7FFF8 16 = none ∧
     (s.begin.reachRange .reads 8 8).1 = .ok [(0x800000008, 8)] ∧
     (match (s.begin.reachRange .farWrites 0x100000000 8).1 with | .error _ => true | .ok _ => false) = true ∧
     (inGang true 0 [] fun c => { c with fps := List.replicate 16 (entry 1 (.sbind 0) .begun) }).ready (.xflag 0 5 8 2) = true) := by
  unfold State.mayTrap; decide +kernel

/-- A transfer of core 0 with a remote half, in a stage. -/
def sent (op : EngineOp) (st : Stage) : State := inGang true 0 [] fun c => { c with fps := [entry 1 op st] }

/-- Premises of Injection and Arrivals: routes that are served, retired and relayed; targets open and closed; each kind of transfer; an arrival
queue that is absent and one with place. -/
theorem premises_packets :
    (let s := sent (.xflag ⟨cap1, 0x40⟩ 1) .accepted
     let f := entry 1 (.xflag ⟨cap1, 0x40⟩ 1) .accepted
     s.fp? 0 1 = some f ∧ f.op.remote? = some ⟨cap1, 0x40⟩ ∧ s.engineHeld 0 f = false ∧ (s.coreAt 0).releaseHeld f = false ∧
     s.route f.op.cls 0 0 = .here ∧ s.route f.op.cls 0 1 = .direct false ∧ s.route f.op.cls 0 2 = .retired ∧ (s.coreAt 0).comb = [] ∧ s.lcnShown 0 / 8 = 0 ∧
     s.reaches 1 0 0 = true ∧
     (let t := { s with towers := [(0, { Tower.reset with part := some 0, ns := [(nsKey 0 1, 2 + 2 ^ 16)] }), (1, { Tower.reset with ns := [(nsKey 1 0, 3)] })] }
      t.route 0 0 1 = .relay 1 false ∧ t.route 1 1 0 = .unreachable ∧ t.reaches 1 1 0 = false)) ∧
    (let op := EngineOp.xcomb ⟨cap1, 0x40⟩ 0 1 5
     let f := { entry 1 op .accepted with far := [(0x800080040, 8)] }
     let l : CombLine := ⟨0x800080000, 1, 0, 0, 1, [(0x48, 1)]⟩
     let s := fun ls => inGang true 0 [] fun c => { c with fps := [f], comb := ls }
     (s []).fp? 0 1 = some f ∧ flat f.far = 0x800080040 :: (flat f.far).tail ∧ l.home = 0x800080040 / 128 * 128 ∧ (s [l]).engineHeld 0 f = false ∧
     (s [l]).core.releaseHeld f = false ∧ (s [l]).core.enginesRun = true) ∧
    (let f := { entry 1 (.xflag ⟨cap1, 0x40⟩ 1) .begun with leg := some ⟨3, 0, false, 0, 1, true⟩ }
     let s := inGang true 0 [] fun c => { c with fps := [f] }
     s.fp? 0 1 = some f ∧ s.exchangeRuns 0 = true ∧ s.legAhead f.leg = false ∧ s.wayOpen 1 1 = true ∧
     ({ s with towers := [(1, { Tower.reset with ns := [(nsKey 3 1, 3)] })] } : State).wayOpen 1 1 = false) ∧
    (let s := sent (.xput ⟨cap1, 0x40⟩ 8 2048) .begun
     s.twinned 0 = false ∧ s.towerServes 0 = true ∧ s.openTo 1 = true ∧ s.shadowCore 1 = none ∧ s.calm = true ∧ s.unjournalled = true ∧
     s.fab.migs = [] ∧ (inGang false 0 [] id).openTo 1 = false ∧ (s.coreAt 1).arrivalQueue = none) ∧
    ([.xput ⟨cap1, 0x40⟩ 8 2048, .xget ⟨cap1, 0x40⟩ 8 8, .xcas ⟨cap1, 0x40⟩ 1 0 7, .xflag ⟨cap1, 0x40⟩ 1, .xtask ⟨cap1, 0⟩ 0x40].all fun op =>
      (sent op .begun).arrivable 0 (entry 1 op .begun)) = true ∧
    (let s := sent (.xput ⟨cap1, 0x40⟩ 8 2048) .begun
     let f := fun pa : Nat => { entry 1 (.xput ⟨cap1, 0x40⟩ 8 2048) .begun with far := [(pa, 2048)], rd := [(8, 2048)] }
     s.remoteRefused (f 0x800080040) ⟨cap1, 0x40⟩ (some 1) = none ∧ (s.viewOf 1 0x800080040).isSome = true ∧
     ({ s with fab := { s.fab with downLinks := [3] } } : State).remoteRefused (f (3 * 2 ^ 52)) ⟨cap1, 0x100000000⟩ (some 1) =
       some ⟨4, 8, 0x100000400⟩) ∧
    (let c := { Core.reset with sr := [(0x108, 0x8000000008000003), (0x109, 0x400)] }
     c.arrivalQueue = some (0x8000000, 4) ∧ bits (c.reg 0x109) 8 9 = 4 ∧ (user []).viewPA 0 (0x8000000 + 64 * 3) = some 0xC0) ∧
    ({ Core.reset with sr := [(0x108, 0x8000000008000000)] } : Core).arrivalQueue ≠ none := by decide +kernel

/-- Premises of TwinsAndLines: a sent line, and a twinned XFLAG of cores 0 and 8 whose halves agree, or not, to a core of another gang. -/
theorem premises_twins :
    (let l : SentLine := ⟨0, 1, ⟨0x80, 1, 0, 0, 0, [(0, 1)]⟩, none, false⟩
     let s := { inGang true 0 [] id with arb := { (inGang true 0 [] id).arb with sent := [l] } }
     (s.arb.sent.drop 0).head? = some l ∧ s.twinned 0 = false ∧ s.shadowCore 1 = none ∧ s.legAhead l.leg = false ∧
     s.towerServes (l.line.target.toNat / 8) = true ∧ (inGang true 0 [] id).towerServes 2 = false) ∧
    (let l := fun n : Nat => (⟨0, 1, ⟨0x80, 8, 0, 0, 0, [(0, 1)]⟩, some ⟨n, 0, false, 0, 1, true⟩, false⟩ : SentLine)
     let s := { inGang true 0 [] id with arb := { (inGang true 0 [] id).arb with sent := [l 3, l 4] } }
     s.legAhead (l 3).leg = false ∧ s.legAhead (l 4).leg = true ∧ s.wayOpen 1 1 = true ∧
     ({ s with towers := [(1, { Tower.reset with ns := [(nsKey 3 1, 3)] })] } : State).wayOpen 1 1 = false) ∧
    (let r : Remote := ⟨1, 0x40⟩
     let s := fun v : Word =>
       let s := inGang true 0 [] fun c => { c with fps := [entry 1 (.xflag r 5) .begun] }
       let join := fun (n : Nat) (c : Core) => { c with mem := { c.mem with gang := n, shown := n } }
       { s with cores := [(0, join 1 (s.coreAt 0)), (1, join 2 Core.reset), (8, { join 1 Core.reset with fps := [entry 4 (.xflag r v) .begun] })]
                arb := { s.arb with gangs := [{ gang1 with shadow := some (1, 0), mask := 1 }, { gang1 with id := 2, mask := 2 }]
                                    doms := [dom1 2, { dom1 2 with key := ⟨2, 0, 0⟩ }] } }
     (s 5).shadowCore 0 = some 8 ∧ (s 5).twinned 0 = true ∧ (s 5).towerServes 0 = true ∧ (s 5).openTo 1 = true ∧ (s 5).shadowCore 1 = none ∧
     (s 5).twinFp 8 (entry 1 (.xflag r 5) .begun) = some (entry 4 (.xflag r 5) .begun) ∧
     (s 5).fp? 8 4 = some (entry 4 (.xflag r 5) .begun) ∧
     crc64 ((EngineOp.xflag r 5).header 0) ≠ crc64 ((EngineOp.xflag r 6).header 0) ∧
     (s 5).arrivable 0 (entry 1 (.xflag r 5) .begun) = true ∧ (s 5).arrivable 8 (entry 4 (.xflag r 5) .begun) = true ∧
     ({ (s 5) with cores := mapIf (fun e => e.1 == 8) (fun e => (e.1, { e.2 with dbg := { e.2.dbg with halt := true } })) (s 5).cores } : State).arrivable 8
       (entry 4 (.xflag r 5) .begun) = false ∧ (s 5).fab.migs = [] ∧ (s 5).calm = true ∧
     (s 5).unjournalled = true) := by decide +kernel

/-! ## Registers and traps -/

/-- R20, R94: fpm takes its bits, and a reserved bit traps; tcause is the supervisor's; a number without a register is illegal. -/
theorem test_registers :
    (after (.sets 6 1) (user [(6, 0xFFF)])).cx.reg 0x001 = 0xFFF ∧ (after (.sets 6 1) (user [(6, 0x1000)])).core.reg 0x009 = 1 ∧ (after (.sets 6 9) (user [])).core.reg 0x009 = 2 ∧
    (after (.sets 6 9) (user [])).core.reg 0x00B = 0xF0C01201 ∧ (after (.sets 6 9) (super [(6, 7)])).core.reg 0x009 = 7 ∧
    (after (.gets 5 0xFFF) (super [])).core.reg 0x009 = 1 ∧ (after (.gets 5 4) (user [])).g 5 = 0 := by decide +kernel

/-- Premises of ReadsOfRegisters, WritesOfRegisters and RegisterEvents: numbers that pass every check, that fail one, a pending result, and the
states in which the events act. -/
theorem premises_registers :
    srCheck 0x001 false false none = none ∧ srCheck 0xFFF false true none = some .illegal ∧ srCheck 0x009 false false none = some .privilege ∧
    srCheck 0x001 false false (some 0xFFF) = none ∧ (srRow 0x001).isSome = true ∧ (srRow 0x00B).isSome = true ∧
    allReady (user []) [.gets 5 1, .sets 6 1, .gets 5 0xFFF] = true ∧ (user []).mayTrap ∧ (super []).coreQuiet 0 = true ∧
    ((super []).srWrite 0 0 0x001 5 true).isSome = true ∧
    (run 0 [] [] fun c => c.updCtx 0 fun x => { x with late := [⟨1, 3, [(9, 0)], [], 0, none⟩] }).olderPending = true ∧
    (inGang false 1 [] id).partHeld 0 = some 0 ∧ (super []).asidBusy 0 5 = false ∧ (inGang false 1 [] id).drectBad 0 1 0 = false ∧
    (super []).drectBad 0 1 0xFFFFFFFF = true ∧ ({ super [] with arb := { Arbiter.reset with clock := 256 } } : State).governorDue 0 = true ∧ (super []).governorDue 0 = false ∧
    ({ super [] with fab := { Fabric.reset with flushing := [⟨0, 0, 0, some 5, [(0, 1)], [], []⟩] } } : State).asidBusy 0 5 = true := by
  unfold State.mayTrap; decide +kernel

/-- R31, R32: CALLSV, an illegal word, RETT. -/
theorem test_traps :
    (let s := run 0 [] [] fun c => { c with sr := [(0x008, 0x8000800)] }
     let t := after (.callsv 0x123) s
     [t.core.reg 0x009, t.core.reg 0x00A, t.core.reg 0x00B, t.core.reg 0x00C] = [0x11, 0x8000104, 0x123, 0] ∧ t.cx.pc = 0x8000800 ∧
     t.cx.priv = 1 ∧ t.core.ta = true ∧ (after .rett t).cx.pc = 0x8000104 ∧ (after .rett t).cx.priv = 0 ∧ (after .rett t).core.ta = false ∧
     (after .rett s).core.reg 0x009 = 2 ∧ (after .gkill (super [])).core.reg 0x009 = 1) := by decide +kernel

/-- A core that handles a trap of helper 3, which is suspended. -/
def handling (fatal : Bool) : State := run 1 [] [] fun c =>
  { c with ta := true, sr := [(0x00C, 3 * 4096), (0x046, 0x8000200)], ctxs := c.ctxs ++ [(3, Ctx.empty .suspended)],
           pend := { c.pend with fatal := fatal } }

/-- Premises of TrapEntries, TrapEvents and TrapReturn: refused instructions of each cause, cores that may take each entry, a second trap. -/
theorem premises_traps :
    (user []).mayTrap ∧ allReady (user []) [.callsv 0xFFFF] = true ∧ (user []).refusal .rett = some 0x02 ∧
    (user []).refusal (.vlq 32) = some 0x01 ∧ (inGang true 0 [] id).refusal (.gnext 1) = some 0x03 ∧
    (inGang true 0 [] id).refusal (.xwait 0) = none ∧ (inGang false 0 [] id).refusal .stepC = some 0x03 ∧
    ({ handling false with k := 3 } : State).refusal .stepC = some 0x01 ∧ (traits .rett).supervisor = true ∧
    (user []).controlOpen 0 = true ∧ (user []).core.ta = false ∧ (user []).cx.live = true ∧ (user []).cx.halted = false ∧
    (handling false).core.ta = true ∧ (handling false).cx.live = true ∧
    ((run 0 [] [] fun c => { c with pend := { c.pend with causes := [(0x0E, 7)] } }).coreAt 0).nextCause = some (0x0E, 7) ∧
    (user []).core.nextCause = none ∧ (handling false).ready (.callsv 1) = true ∧ (handling false).olderPending = false ∧ (user []).reduced = false ∧
    (let s := run 0 [] [] fun c => { c with pend := { c.pend with helpers := [⟨3, 1, 0, 0x8000100, false⟩], flags := 4 } }
     s.controlOpen 0 = true ∧ s.core.nextCause = none ∧ s.core.pend.helpers.length = 1 ∧ s.core.pend.flags ≠ 0) ∧
    allReady { handling false with cores := [(0, { (handling false).core with sr := [] })] } [.rett] = true := by
  unfold State.mayTrap; decide +kernel

/-- Premises of HelpersAndHalt: RETT of a helper trap and of a fatal one, HALT of a quiet core and with stores, a start with a free slot, with none,
and misaligned. -/
theorem premises_helpers :
    allReady (handling false) [.rett, .halt] = true ∧ (handling false).core.fatal = false ∧ (handling true).core.fatal = true ∧
    ((handling false).core.ctx 3).st = .suspended ∧ bits ((handling false).core.reg 0x00C) 12 4 = 3 ∧ (super []).coreQuiet 0 = true ∧
    (super []).core.sb = [] ∧ allReady (super []) [.halt] = true ∧
    (let s := (after (.st 2 1 3 0) (super [(1, 0x40)]))
     s.core.sb ≠ [] ∧ s.core.hold = false ∧ s.ready .halt = true ∧ s.coreQuiet 0 = true) ∧
    allReady (user [(1, 0x8000000), (2, 1)]) [.hstart 3 1 2, .hstart 3 2 1] = true ∧ ((user []).core.ctx 1).st = .free ∧
    (let s := run 0 [] [] fun c => { c with ctxs := c.ctxs ++ (List.range 10).map fun h => (h + 1, Ctx.empty .running) }
     (∀ h, h < 11 → 1 ≤ h → (s.core.ctx h).st ≠ .free) ∧ allReady { s with k := 3 } [.hexit] = true) := by decide +kernel

/-! ## Groups, queues and phasers -/

/-- The gang's domain with a grid of 5, of which 2 are returned. -/
def grid5 (lvl : BitVec 2) (g : Tab Word) (f : Core → Core) (n : Nat) : State :=
  let s := inGang false lvl g f
  { s with arb := { s.arb with doms := [{ dom1 0 with count := 5, next := n }] } }

/-- R137, R138, R298: the next index, the end of the grid, a raise, an expected count. -/
theorem test_groups :
    (after (.gnext 5) (grid5 0 [] id 2)).g 5 = 2 ∧ (after (.gnext 5) (grid5 0 [] id 5)).g 5 = BitVec.allOnes 64 ∧
    (after (.graise 5 1) (grid5 0 [(1, 4)] id 2)).g 5 = 9 ∧
    (after (.xexpect 1 3) (inGang false 0 [(1, 16)] id)).core.reg 0x113 = 0x4000000000000010 := by decide +kernel

/-- Premises of Groups and SuperstepsAndLandings: grid indices left and none, a task that is due, an open group, a STEP that may send and one
that a transfer holds, a landing counter at rest and one that waits. -/
theorem premises_groups :
    allReady (grid5 0 [(1, 4)] id 2) [.graise 5 1, .gnext 5, .gnext 0, .stepX, .xexpect 1 3] = true ∧
    allReady (inGang true 0 [(1, 4)] id) [.grid 1] = true ∧ allReady (grid5 1 [(1, 4)] id 2) [.gkill] = true ∧ (grid5 1 [] id 2).mayTrap ∧
    (grid5 0 [] id 2).mayTrap ∧ (grid5 0 [] id 2).core.closeGroup.tasksDue = 0 ∧ ((grid5 0 [] id 2).domOf 0).next = 2 ∧
    ((grid5 0 [] id 2).domOf 0).count = 5 ∧
    (let s := grid5 0 [] (fun c => { c with sr := [(0x108, 0x8000000008000003), (0x109, 0x303)]
                                            mem := { c.mem with opened := true, holdsTask := true } }) 5
     s.ready (.gnext 5) = true ∧ s.core.closeGroup.tasksDue = 2 ∧ s.core.closeGroup.reg 0x109 = 0x200 ∧ s.k = 0) ∧
    (grid5 1 [] (fun c => { c with mem := { c.mem with opened := true } }) 5).ready .gkill = true ∧
    (let s := grid5 0 [(1, 4)] (fun c => { c with mem := { c.mem with ahead := [7] } }) 2
     allReady s [.graise 5 1, .gnext 5] = true ∧ s.core.closeGroup.tasksDue = 0 ∧ (7 : Word) ≠ BitVec.allOnes 64) ∧
    (grid5 1 [] id 5).calm = true ∧ (grid5 1 [] id 5).unjournalled = true ∧ (grid5 1 [] id 5).fab.migs = [] ∧
    ((grid5 1 [] id 5).gang? 1).isSome = true ∧
    (let s := inGang false 0 [] id
     s.begin.stepReady Fp.local? = true) ∧
    (let s := inGang false 0 [] fun c => { c with fps := [entry 1 (.cpy 0 0 64) .begun] }
     s.ready .stepX = true ∧ s.begin.stepReady Fp.local? = false) ∧
    (let s := inGang true 0 [] fun c => { c with sr := [(0x110, 1)] }
     allReady s [.stepC, .xwait 0] = true ∧ bits (s.core.reg 0x110) 0 48 = 1 ∧ (s.begin.stepReady fun f => f.op.remote?.isSome) = true) ∧
    (inGang true 0 [] fun c => { c with fps := [entry 1 (.xflag ⟨0, 0⟩ 5) .begun] }).begin.stepReady (fun f => f.op.remote?.isSome) = false := by
  unfold State.mayTrap; decide +kernel

/-- A core with a running helper that names queue 2 in both bytes of stg, or in none. -/
def coupled (v : Word) (xs : List Word) (w : Option Wait) : State := run 0 [(1, 7)] [] fun c =>
  { c with hq := [(2, xs)]
           ctxs := (mapIf (fun e => e.1 == 0) (fun e => (e.1, { e.2 with wait := w })) c.ctxs) ++
                                    [(1, { Ctx.empty .running with sr := [(0x041, v)] })] }

/-- R131, R132: a push, a pop, and the trap of a pop without a partner. -/
theorem test_queues :
    (after (.qpush 1 2) (coupled 0x404 [] none)).core.queue 2 = [7] ∧ (after (.qpop 3 2) (coupled 0x404 [5, 6] none)).g 3 = 5 ∧
    (after (.qpop 3 2) (coupled 0x404 [5, 6] none)).core.queue 2 = [6] ∧ (after (.qpop 3 2) (coupled 0 [] none)).core.reg 0x009 = 0x10 := by
  decide +kernel

/-- Premises of Queues: with place and full, with a partner and without, and a QPUSH that waits in vain. -/
theorem premises_queues :
    allReady (coupled 0x404 [] none) [.qpush 1 2, .qpop 3 2] = true ∧ (coupled 0 [] none).mayTrap ∧
    (coupled 0x404 [] none).core.partner 0 2 0 = true ∧ (coupled 0x404 [] none).core.partner 0 2 8 = true ∧
    (coupled 0 [] none).core.partner 0 2 0 = false ∧ (coupled 0 [] none).core.partner 0 2 8 = false ∧
    allReady (coupled 0 (List.replicate 16 1) none) [.qpush 1 2, .qpop 3 2] = true ∧
    (let s := coupled 0 (List.replicate 16 1) (some (.queueFull 2))
     (s.core.ctx 0).wait = some (.queueFull 2) ∧ (s.core.queue 2).length = 16 ∧ s.core.ta = false ∧ s.core.mat.queue = [] ∧
     s.wordHere.isSome = true ∧ (after (.queueOverflowOrUnderflow 0 0) s).core.reg 0x009 = 0x10) := by
  unfold State.mayTrap; decide +kernel

/-- Phaser 7 at phase 4, with a member of the core as given and helper 1 that has signalled 4. -/
def phased (owner mode sigma w : Nat) (sig : Option Nat) : State :=
  let s := inGang false 0 [] fun c => c.updCtx 0 fun x => { x with signalled := sig }
  let m : List PhMember := if mode = 3 then [] else [⟨0, 0, mode, sigma, w⟩]
  { s with towers := [(0, { Tower.reset with part := some 0, phasers := [(7, { p := 4, owner := owner, members := m ++ [⟨0, 1, 0, 4, 5⟩], dropped := false })] })] }

/-- R152: a context that registers signal-and-wait at phase 4 starts at 5 and 5; the phase completes when both have signalled; a waiter
goes on. -/
theorem test_phasers :
    (after (.phreg 7 2) (phased 1 3 0 0 none)).member? 7 = some ⟨0, 0, 2, 5, 5⟩ ∧
    (({ p := 4, owner := 1, members := [⟨0, 0, 2, 5, 4⟩, ⟨0, 1, 0, 5, 4⟩], dropped := false } : Phaser).settle).p = 5 ∧
    (after (.phsig 7) (phased 1 2 4 4 none)).member? 7 = some ⟨0, 0, 2, 5, 4⟩ ∧
    (after (.phwait 7) (phased 1 2 4 3 none)).member? 7 = some ⟨0, 0, 2, 4, 4⟩ ∧
    (after (.phsig 7) (phased 1 1 4 4 none)).core.reg 0x009 = 1 := by decide +kernel

/-- Premises of Phasers: no member and one in each mode, another owner, a signal that is due and one that waits, a wait that ends and one
that goes on, a PHNEXT whose signal has taken effect, and one whose signal completes the phase. -/
theorem premises_phasers :
    [(1, 3, 0, 0), (9, 3, 0, 0), (1, 0, 4, 4), (1, 1, 4, 3), (1, 2, 4, 4), (1, 2, 5, 4)].all (fun e : Nat × Nat × Nat × Nat =>
      allReady (phased e.1 e.2.1 e.2.2.1 e.2.2.2 none) [.phreg 7 2, .phdrop 7, .phsig 7, .phwait 7, .phnext 7]) = true ∧
    (phased 1 3 0 0 none).member? 7 = none ∧ (phased 1 3 0 0 none).mayTrap ∧ ((phased 9 3 0 0 none).phaser 7).owner = 9 ∧
    (phased 9 3 0 0 none).core.mem.gang = 1 ∧ ((phased 1 2 4 4 none).member? 7).map (·.mode) = some 2 ∧
    (phased 1 2 4 4 none).drainsFirst = false ∧ ((phased 1 2 4 4 none).phaser 7).p = 4 ∧ (phased 1 2 4 4 none).cx.signalled = none ∧
    (phased 1 2 5 4 (some 7)).ready (.phnext 7) = true ∧ (phased 1 2 5 4 (some 7)).cx.signalled = some 7 ∧
    (let s := phased 1 2 4 4 none
     let s := { s with towers := [(0, { Tower.reset with phasers := [(7, { p := 4, owner := 1, members := [⟨0, 0, 2, 4, 4⟩], dropped := false })] })] }
     s.ready (.phnext 7) = true ∧ (after (.phnext 7) s).member? 7 = some ⟨0, 0, 2, 5, 5⟩ ∧ ((after (.phnext 7) s).phaser 7).p = 5) := by
  unfold State.mayTrap; decide +kernel

/-! ## Translation -/

/-- Core 0 of a gang at supervisor level with address space 5 bound, root table 0x8000, and the page of VA 0x100000000 in frame 5 with RD
and W, through an intermediate table, or with `direct` through a leaf table at its root entry. -/
def mapped (direct : Bool) (g : Tab Word) (f : Core → Core) : State :=
  { inGang false 1 g (fun c => f { c with sr := [(0x080, 2 ^ 63 + 5), (0x081, 0x8000)] }) with
    mem := words (if direct then [(0x8000, 0x200003), (0x220000, 5 * 2 ^ 18 + 7)]
      else [(0x8000, 0x10001), (0x10100, 0x20001), (0x20000, 5 * 2 ^ 18 + 7)]) }

/-- The TLB entry of that page. -/
def page5 : TlbEnt := ⟨0, 5, 0x4000, 5, 7⟩

/-- R247: the walk of the example pages; R249: TLBINV drops the entry of its page; R381: a field beyond 16 bits traps. -/
theorem test_translation :
    ([true, false].all fun b => decide (((mapped b [] id).walk none 0 5 1 0x100000000).1 = .leaf (5 * 2 ^ 18 + 7))) = true ∧
    ((mapped false [] id).walk none 0 5 1 0x108000000).1 = .absent ∧
    (after (.pageWalk 0 0x100000000) (mapped false [] id)).core.tlb = [page5] ∧
    (after (.tlbinvVa 1 2) (mapped false [(1, 0x100000000), (2, 5)] fun c => { c with tlb := [page5, { page5 with asid := 6 }] })).core.tlb =
      [{ page5 with asid := 6 }] ∧
    (after (.capmint 3 1) (mapped false [(1, 0x10000)] id)).core.reg 0x009 = 0x0B := by decide +kernel

/-- Premises of TlbInvalidations: ready with nothing pending, with a store that drains first, with a transfer to wait for, an ASID that is
being retired, and an invalidation that is done. -/
theorem premises_invalidations :
    (let s := mapped false [(1, 0x100000000), (2, 5)] id
     allReady s [.tlbinvVa 1 2, .tlbinvVa 0 2, .tlbinvAsid 2, .tlbinvPart, .tlbretire 2] = true ∧ s.flush? = none ∧ s.olderPending = false ∧
     s.drainsFirst = false ∧ s.begin.transfersOf 0 = [] ∧ s.begin.drainsOf 0 = [] ∧ s.fab.proxies = [] ∧ s.partOf 0 = 0 ∧ s.asidBusy 0 5 = false ∧
     (s.coreAt 0).bound = some 5 ∧ (after (.tlbretire 2) s).core.bound = none) ∧
    (after (.st 2 0 3 0x40) (mapped false [] id)).drainsFirst = true ∧
    (let s := mapped false [(2, 5)] fun c => { c with fps := [entry 1 (.cpy 0x40 0 64) .begun] }
     s.begin.transfersOf 0 = [(0, 1)] ∧ s.ready .tlbinvPart = true ∧ (after .tlbinvPart s).flush?.isSome = true) ∧
    (let f : Flush := ⟨0, 0, 0, some 5, [(0, 1)], [], []⟩
     let s := { mapped false [(2, 5)] id with fab := { Fabric.reset with flushing := [f] } }
     s.flush? = some f ∧ s.flushDone f = true ∧ s.ready .tlbinvPart = true ∧
     ({ s with cores := [(0, { s.core with fps := [entry 1 (.cpy 0x40 0 64) .begun] })] } : State).flushDone f = false ∧
     ({ s with k := 1, cores := [(0, { (s.core.setCtx 1 (ctx0 1 [(2, 5)] [])) with fps := [entry 1 (.cpy 0x40 0 64) .begun] })] } : State).asidBusy 0 5
       = true) := by decide +kernel

/-- Premises of WalksAndCapabilities: fields to seal, a walk that finds its leaf in each form, and an answer that is awaited. -/
theorem premises_walks :
    (mapped false [(1, 7)] id).ready (.capmint 3 1) = true ∧ (mapped false [] id).mayTrap ∧
    (let s := mapped false [] id
     (s.coreAt 0).bound = some 5 ∧ (s.coreAt 0).root = 1 ∧ isVirtual 0x100000000 = true ∧ (s.coreAt 0).tlb = [] ∧ (s.coreAt 1).tlb = [] ∧
     (s.walk (some 0) 0 5 1 0x100000000).1 = .leaf (5 * 2 ^ 18 + 7) ∧ s.wordAt 0x8000 = 0x10001 ∧ s.wordAt 0x10100 = 0x20001 ∧
     s.tableBacked 0 0x8000 = true ∧ s.tableBacked 0 0x10100 = true ∧ s.tableBacked 0 0x20000 = true ∧ s.tableBacked 0 0x700000000 = false) ∧
    (mapped true [] id).wordAt 0x8000 = 0x200003 ∧ bits (mapped true [] id |>.wordAt 0x8000) 2 19 = 0 ∧
    (mapped true [] id).tableBacked 0 0x220000 = true ∧
    (let m : Mail := ⟨1, 0x100000000, 0, 5, none, none⟩
     Tab.find? ((mapped false [] fun c => { c with mail := [(0, m)] }).coreAt 0).mail 0 = some m) := by
  unfold State.mayTrap; decide +kernel

/-- Premises of the clauses of WalksAndCapabilities on accesses: a page of the space without rights and one that is absent, for a load, an
atomic and a fetch; an atomic whose home refuses it; a mailbox that waits and one whose answer is a kill. -/
theorem premises_access :
    (let q := fun (g : Tab Word) => { mapped false g id with mem := words [(0x8000, 0x10001), (0x10100, 0x20001), (0x20000, 5 * 2 ^ 18 + 33)] }
     let p := fun (ea : Nat) (g : Tab Word) => { q g with cores := mapIf (fun e => e.1 == 0) (fun e => (e.1, e.2.updCtx 0 fun x => { x with pc := BitVec.ofNat 48 ea, priv := 0 })) (q g).cores }
     let s := p 0x8000100 [(1, 0x100000000), (2, 0x108000000)]
     allReady s [.ldB8 3 1 0 0, .ldD 3 2 0 0, .amoadd 3 1 0 4, .amocas 3 2 1 4] = true ∧ s.mayTrap ∧ Tab.find? s.core.mail s.k = none ∧
     (s.begin.locate 0 0 (s.begin.query 0 0 true false false true) [0x100000000]).1 = .fault 0x100000000 1 ∧
     (s.begin.locate 0 0 (s.begin.query 0 0 true false false true) [0x108000000]).1 = .absent 0x108000000 ∧
     (s.begin.locate 0 0 { s.begin.query 0 0 true true false false with peer := true } [0x100000000]).1 = .fault 0x100000000 1 ∧
     (s.begin.locate 0 0 { s.begin.query 0 0 true true false false with peer := true } [0x108000000]).1 = .absent 0x108000000 ∧
     outOfRange 0x108000000 = false ∧ s.fab.proxies = [] ∧
     [(0x100000000, true), (0x108000000, false)].all (fun e : Nat × Bool =>
       let b := { p e.1 [] with agenda := [.core 0] }
       b.impreciseDue 0 = false && (b.helperDue 0 = false && (b.order 0 = [0] && (isVirtual e.1 &&
         (b.locate 0 0 (b.query 0 0 false false true false) [b.cx.pc.toNat]).1 == if e.2 then .fault e.1 3 else .absent e.1)))) = true) ∧
    (let s := up { user [(1, 0x8000040)] with fab := { Fabric.reset with proxies := [proxy (.answered none)] } }
     s.ready (.amoadd 3 1 0 2) = true ∧ s.mayTrap) ∧
    [none, some true].all (fun a : Option Bool => (run 0 [(1, 0x40)] [] fun c => { c with mail := [(0, ⟨1, 0x100000000, 0, 5, a, none⟩)] }).ready (.ldB8 3 1 0 0)) = true := by
  unfold State.mayTrap; decide +kernel

/-- Premises of Migrations: a leaf in the dome whose page lies in far memory, and a migration at its first line, its last and its end. -/
theorem premises_migrations :
    (let far : Nat := 2 ^ 40 / 2 ^ 18
     let s := { run 0 [] [] id with mem := words [(0x20000, far * 2 ^ 18 + 7)] }
     s.wordAt 0x20000 = BitVec.ofNat 64 (far * 2 ^ 18 + 7) ∧ s.backed 0 0x20000 = true ∧ (s.migEngine far).isSome = true ∧
     (s.migEngine 9).isSome = true ∧ bit (s.wordAt 0x20008) 0 = false ∧ s.fab.migs = [] ∧
     (let m := fun n : Nat => (⟨1, 0, 5, 0x20000, BitVec.ofNat 38 far, 9, n⟩ : Migration)
      (after (.migrationStart 1 0 5 0x20000 9) s).fab.migs = [m 0] ∧ (m 2047).copied < 2048 ∧ (m 0).old ≠ (m 0).new ∧
      ({ s with fab := { s.fab with migs := [m 2048] } } : State).frameInUse far = false ∧ 0x20000 / 2 ^ 18 ≠ far)) := by decide +kernel

/-! ## Windows, stops and the debug port -/

/-- Both members of the gang have arrived, or have not, in a window, with the domain changed by `f`. -/
def arrived (yes : Bool) (w : Win) (f : Domain → Domain) : State :=
  let s := inGang false 0 [] id
  let c := fun l => { s.coreAt l with mem := { (s.coreAt l).mem with arrived := if yes then some 7 else none, held := yes } }
  let blk := fun (c : Core) => if yes then c.updCtx 0 fun x => { x with st := .blocked } else c
  { s with cores := [(0, blk (c 0)), (1, blk (c 1))], arb := { s.arb with win := w, doms := [f (dom1 0)] } }

/-- R145, R147, R148: the last arrival closes the compute window; the exchange window opens the exchange phase; a spent budget closes
the window without the domain. -/
theorem test_windows :
    (let s := arrived true .turnX fun d => { d with dph := 1, entered := true }
     let t := after .exchangeWindowOpen s
     t.arb.win = .exchange ∧ (t.dom ⟨1, 0, 0⟩).dph = 2 ∧ (t.coreAt 1).mem.held = false ∧ ((t.coreAt 1).ctx 0).st = .running) ∧
    (let s := (arrived true .turnC fun d => { d with dph := 3, entered := true, sstep := 5 })
     let t := after .computeWindowOpen s
     t.arb.win = .compute ∧ (t.dom ⟨1, 0, 0⟩).dph = 0 ∧ (t.dom ⟨1, 0, 0⟩).sstep = 6) ∧
    (let t := after (.computeBudgetSpent ⟨1, 0, 0⟩) (arrived false .compute id)
     t.arb.win = .turnX ∧ (t.dom ⟨1, 0, 0⟩).scnt = 1 ∧ (t.dom ⟨1, 0, 0⟩).entered = false) := by decide +kernel

/-- Premises of Windows: no window turns in a module stop; a domain that holds a window open and one that lets it close; budgets that are
spent; windows that open. -/
theorem premises_windows :
    (let s := arrived false .compute id
     s.activeDoms = [dom1 0] ∧ s.dom (dom1 0).key = dom1 0 ∧ s.domIdle (dom1 0) = false ∧ s.isActive (dom1 0) = true ∧
     (dom1 0).since + (s.budgets (dom1 0)).1 ≤ s.clock) ∧
    (let d : Domain := { dom1 0 with dph := 1 }
     let s := arrived true .compute fun _ => d
     s.activeDoms = [d] ∧ s.dom d.key = d ∧ s.domIdle d = false) ∧
    (let d : Domain := { dom1 2 with entered := true, spent := true }
     let s := arrived false .exchange fun _ => d
     s.activeDoms = [d] ∧ s.domIdle d = false ∧ s.isActive d = true ∧ d.since + (s.budgets d).2 ≤ s.clock ∧ s.dom d.key = d ∧ s.arb.sent = [] ∧
     s.domMembers d.key = [0, 1] ∧ s.unpaired 0 = false ∧ s.unpaired 1 = false ∧ (s.cores.all fun e => e.2.comb.isEmpty) = true) ∧
    (let d := fun c : Bool => ({ dom1 0 with done := true, carried := c } : Domain)
     (arrived true .compute fun _ => d true).activeDoms = [d true] ∧ (arrived true .compute fun _ => d false).activeDoms = [d false]) ∧
    (let d : Domain := { dom1 0 with spent := true }
     let s := { (arrived false .compute fun _ => d) with arb := { (arrived false .compute fun _ => d).arb with gangs := [{ gang1 with slim := 1 }] } }
     s.activeDoms = [d] ∧ s.domIdle d = false ∧ (s.gang? 1).map (·.slim) = some 1 ∧ d.key.level = 0 ∧ Tab.find? s.core.pend.causes 0x0C = none) ∧
    (let d : Domain := { dom1 1 with entered := true }
     (arrived true .turnX fun _ => d).activeDoms = [d]) ∧
    (let d : Domain := { dom1 3 with entered := true }
     let s := arrived true .turnC fun _ => d
     s.activeDoms = [d] ∧ s.dom d.key = d ∧ s.fab.gsz ≤ 1 ∧ s.fab.pendingMap = [] ∧ s.preciseDue d.key = [] ∧ s.domCores d.key = [0, 1] ∧
     (s.gang? 1).map (·.gr.req) = some false ∧
     [0, 1].all fun l => decide ((s.coreAt l).reg 0x048 = (s.coreAt l).mem.dmem ∧ bits ((s.coreAt l).reg 0x184) 0 16 < 3)) := by decide +kernel

/-- A core of the gang with a debug state. -/
def debugged (d : Dbg → Dbg) : State := inGang false 0 [] fun c => { c with dbg := d c.dbg }

/-- A trigger and a stop of the domain. -/
def trig : Trigger := ⟨3, 0, none, false, 0, false⟩
def stop0 (scope : Nat) : Stop := ⟨scope, 0, 0, []⟩

/-- R341, R342, R344: a trigger stops both members; a halted core shows HLT; it resumes. -/
theorem test_stops :
    (let t := after (.stopTrigger 0) (debugged fun d => { d with trigger := some trig })
     (t.coreAt 0).dbg.stop.isSome = true ∧ (t.coreAt 1).dbg.stop.isSome = true ∧
     let u := after (.debugHalt 0) t
     bit ((u.coreAt 0).reg 0x141) 63 = true ∧ bits ((u.coreAt 0).reg 0x141) 59 3 = 3 ∧ ((u.coreAt 0).ctx 0).halted = true ∧
     (u.dom ⟨1, 0, 0⟩).parked = true ∧
     let v := after (.resume 0) (after (.debugHalt 1) u)
     ((v.coreAt 0).ctx 0).halted = false ∧ ((v.coreAt 1).ctx 0).halted = false ∧ (v.dom ⟨1, 0, 0⟩).parked = false) := by decide +kernel

/-- Premises of Stops: requests, a trigger, a core that is ready to halt, one that is halted, a module that is stopped. -/
theorem premises_stops :
    (debugged id).core.reg 0x140 = 0 ∧ (debugged id).stopTargets 0 false = [0, 1] ∧ (debugged id).stopTargets 0 true = [0, 1] ∧
    (debugged fun d => { d with trigger := some trig }).triggerDue 0 = true ∧ (debugged id).triggerDue 0 = false ∧
    (debugged fun d => { d with halt := true, stop := some (stop0 0), trigger := some { trig with gang := true } }).triggerDue 0 = true ∧
    (debugged id).core.unstopped = true ∧ (debugged id).core.haltReady = true ∧ (debugged id).arb.stopped = false ∧ ((debugged id).arb.doms.all fun d => !d.parked) = true ∧
    (let held := fun c : Core => { c with dbg := { c.dbg with halt := true, stop := some (stop0 2) } }
     let s := { debugged id with cores := mapIf (fun _ => true) (fun e => (e.1, held e.2)) (debugged id).cores, arb := { (debugged id).arb with stopped := true } }
     s.arb.stopped = true ∧ s.core.moduleHeld = true ∧ s.core.mem.gang = 1 ∧ (s.domCores ⟨1, 0, 0⟩).all fun m => (s.coreAt m).moduleHeld) ∧
    (let s := debugged fun d => { d with stop := some (stop0 0) }
     s.core.haltReady = true ∧ (s.coreAt 1).dbg.halt = false) ∧
    (let s := debugged fun d => { d with halt := true, stop := some (stop0 0) }
     s.stopTargets 0 false = [0, 1] ∧ (s.gangOf 0).isSome = true) := by decide +kernel

/-- A halted core, with a step or without, at a GNEXT. -/
def stepped (st : Option (BitVec 11 × Nat)) : State :=
  { (inGang false 0 [] fun c => { (c.updCtx 0 fun x => { x with halted := st.isNone }) with dbg := { c.dbg with halt := true, stop := some (stop0 0), step := st } }) with
    mem := [⟨0x100, 0x08⟩, ⟨0x103, 0xF0⟩] }

/-- R349, R420: a step releases the contexts it names; a write through the debug port, and one that a SETS would refuse. -/
theorem test_debug_port :
    (let t := after (.singleStep 0 1 0) (stepped none)
     (t.core.ctx 0).halted = false ∧ t.core.dbg.step = some (1, 1)) ∧
    (after (.registerWrite 0 0 0x008 0x8000800 (.tenant 0)) (inGang false 0 [] id)).core.reg 0x008 = 0x8000800 ∧
    (after (.registerWrite 0 0 0x140 (2 ^ 20) (.tenant 0)) (inGang false 0 [] id)).host.reply.status = 1 ∧
    (after (.registerWrite 0 0 0x008 8 (.tenant 1)) (inGang false 0 [] id)).host.reply.status = 1 ∧
    Tab.get 0 (after (.dump 0 ⟨.tenant 0, .register 0 0x008⟩) (inGang false 0 [] fun c => { c with sr := [(0x008, 0x8000800)] })).host.reply.bytes 3 = 0x08 := by decide +kernel

/-- Premises of DebugPort: writes that are refused and that are not, a core that may step, a step that is over, dumps, and a counter sample
that is due. -/
theorem premises_debug_port :
    (srCheck 0x140 false true (some (2 ^ 20))).isSome = true ∧ srCheck 0x140 false true (some (2 ^ 60)) = none ∧
    ((user []).srWrite 0 0 0x140 (2 ^ 60) true).isSome = true ∧ srCheck 0x001 false true (some 1) = none ∧
    (let s := inGang false 0 [] id
     s.portReaches (.tenant 0) 0 (some 8) = true ∧ s.portReaches (.operator 0) 1 none = true ∧ s.portReaches .config 0 (some 0x190) = true ∧
     s.portReaches (.tenant 1) 0 none = false ∧ s.portReaches .config 0 (some 0x18F) = false ∧ s.portReaches (.tenant 0) 2048 none = false ∧
     s.copyGone 0 3 0x001 = true ∧ s.copyGone 0 0 0x001 = false ∧ (s.site 0).st = 0 ∧ (s.site 16).st ≠ 0) ∧
    (let s := stepped (some (1, 0))
     s.stepOver 0 = true ∧ s.core.dbg.trigger.isNone = true) ∧
    (let s := { stepped (some (1, 4)) with cores := mapIf (fun e => e.1 == 0) (fun e => (e.1, { e.2 with dbg := { e.2.dbg with trigger := some { trig with gang := true } } })) (stepped (some (1, 4))).cores }
     s.stepOver 0 = true ∧ s.core.haltReady = true ∧ s.stopTargets 0 true = [0, 1] ∧ (s.coreAt 1).unstopped = true) ∧
    (match exec (.resume 0) (stepped none) with | .next _ => true | _ => false) = true ∧ ((user []).core.ctx 3).st = .free ∧
    (srRow 0x16A).map (fun r => (r.known, r.rw)) ≠ none ∧ (stepped none).core.dbg.stop = some (stop0 0) ∧
    (stepped (some (1, 4))).stepOver 0 = true ∧ (stepped (some (1, 4))).core.haltReady = true ∧ ((user []).policy 0).getLsbD 6 = false ∧
    (let s := fun len ctl : Word => ({ run 0 [] [] fun c => { c with sr := [(0x169, len), (0x16A, ctl)] } with arb := { Arbiter.reset with clock := 9 } } : State)
     (s 0 (2 ^ 63 + 16 + 7 * 65536)).sampleDue 0 = true ∧ (s 0 (2 ^ 63 + 7 * 65536)).sampleDue 0 = true) ∧
    (let s := { mapped false [] id with mem := words [(0x8000, 0x10001), (0x10100, 0x20001), (0x20000, 5 * 2 ^ 18 + 71)] }
     let s := s.updCoreAt 0 fun c => ((c.setReg 0x168 0x100000000).setReg 0x169 4).setReg 0x16A (2 ^ 63 + 16 + 7 * 65536)
     (s.tracePlace 0 3).1 = some (5 * 2 ^ 18 + 192)) := by decide +kernel

/-! ## The fabric -/

/-- A module whose sites 0 and 1 are in given states of bring-up. -/
def sites2 (a b : Site → Site) : State :=
  { State.reset with fab := { Fabric.reset with sites := [(0, a (Site.initial 0)), (1, b (Site.initial 1))] } }

/-- R371, R372, R386, R387, R391, R394: west goes before north; a bond whose far end does not answer is absent at both ends; a test packet
crosses five links and is delivered; the site records of the worked example; the cap stays within its bounds. -/
theorem test_fabric :
    ((after (.wavefrontArrival 0) (sites2 (fun x => { x with waves := [(4, 3, 1), (4, 0, 13)] }) id)).site 0).side = 0 ∧
    (let t := after (.bondTimeout 0 2) (sites2 (fun x => { x with bs := 4, decided := 11, testedAt := 9 }) fun x => { x with bs := 9, decided := 14 })
     (t.site 0).absent = 4 ∧ (t.site 1).absent = 1 ∧ (t.site 0).decided = 15 ∧ (t.site 0).decidedAt = 73) ∧
    (let s := after (.ringTestInject 0 (2 ^ 63 + 5 * 2 ^ 48 + 2 ^ 56)) (super [])
     (s.towerAt 0).ring = Ring.idle.inject .test 0 false 5 2 ∧ ((s.towerAt 0).ring.run 6).landed = [] ∧
     ((s.towerAt 0).ring.run 8).landed = [5, 5] ∧
     bits ((after (.ringTestFlitDelivery 5) { s with towers := [(0, { Tower.reset with ring := (s.towerAt 0).ring.run 8 })] }).coreAt 5 |>.reg 0x195) 16 16 = 1) ∧
    Site.record { Site.initial 15 with st := 0, lt := 13, absent := 8 } = 0x8000D00 ∧
    Site.record { Site.initial 33 with st := 0, lt := 29, absent := 2 } = 0x2001D00 ∧
    (after (.powerCapSet 5) (super [])).fab.pwcap = 18000 ∧ (after (.powerCapSet 99999) (super [])).fab.pwcap = 30000 := by decide +kernel

/-- Premises of BringUp: a site due in each state of bring-up, with a bond to decide and one whose far end does not answer, and a raise
that can be made. -/
theorem premises_bring_up :
    (sites2 (fun x => { x with waves := [(4, 0, 13), (4, 3, 1)] }) id).dueStep 0 = some 4 ∧
    (sites2 (fun x => { x with bs := 1, step := 3 }) id).dueStep 0 = some 5 ∧ (sites2 (fun x => { x with bs := 2, step := 3 }) id).dueStep 0 = some 7 ∧
    (sites2 (fun x => { x with bs := 3, step := 3 }) id).dueStep 0 = some 11 ∧
    (sites2 (fun x => { x with bs := 3, step := 3, st := 1 }) id).dueStep 0 = some 11 ∧
    (let s := sites2 (fun x => { x with bs := 4, decided := 11, testedAt := 9 }) fun x => { x with bs := 4, decided := 14, testedAt := 8 }
     s.dueStep 0 = some 10 ∧ s.bondStep 0 2 = 10 ∧ across 0 2 = some 1 ∧ (s.site 0).decided.getLsbD 2 = false) ∧
    (let s := sites2 (fun x => { x with bs := 4, decided := 11, testedAt := 9 }) fun x => { x with bs := 9 }
     s.dueStep 0 = some 73 ∧ s.bondStep 0 2 = 73) ∧
    (let s := sites2 (fun x => { x with bs := 4, decided := 14, testedAt := 9 }) id
     s.dueStep 0 = some 10 ∧ s.bondStep 0 0 = 10 ∧ across 0 0 = none) ∧
    (sites2 (fun x => { x with bs := 4, decided := 15, decidedAt := 9 }) id).dueStep 0 = some 10 ∧
    (sites2 (fun x => { x with bs := 5, decided := 15, decidedAt := 9 }) id).dueStep 0 = some 11 ∧
    (let s := sites2 (fun x => { x with bs := 6 }) id
     ({ s with fab := { s.fab with raisePending := true } } : State).raiseReady = true ∧ s.raiseReady = false) := by decide +kernel

/-- Premises of MapAndRetirement: a spare site that a logical tower can take (the map before has no tower 257), one that is no spare, a
tower that is retired with a gang on it and without. The signature of a test package is Config's to judge: no premise about it is shown. -/
theorem premises_map :
    (sites2 id id).fab.pendingMap = [] ∧ ((sites2 id id).site 16).st = 1 ∧ ((sites2 id id).site 16).bs = 0 ∧
    (sites2 id id).siteOf 257 = none ∧ (sites2 id id).placedOnce = true ∧ ((sites2 id id).site 0).st ≠ 1 ∧
    (let s := sites2 id fun x => { x with st := 1, bs := 5 }
     (s.site 0).st = 0 ∧ (s.site 1).st = 1 ∧ (s.site 1).bs = 5 ∧ s.placedOnce = true ∧ (∃ m, s.siteOf 0 = some m ∧ (s.site m).lostTower = true)) ∧
    (let s := { sites2 id id with fab := { (sites2 id id).fab with pendingMap := [⟨0, 2, 0⟩] } }
     (s.fab.pendingMap.any fun c => c.site == 0 && c.st == 2) = true ∧ (s.site 0).st = 0) ∧
    (let s := inGang false 0 [] id
     s.siteOf 0 = some 0 ∧ s.serves 0 = true ∧ s.arb.gangs = [gang1] ∧ gang1.gr.st ≠ 1 ∧ gang1.occupied = [0, 1] ∧ s.siteOf 1 = some 1 ∧
     s.serves 1 = true ∧ gang1.occupied.all (fun l => l / 8 ≠ 1) = true ∧ (sites2 id id).serves 0 = false) := by decide +kernel

/-- Premises of the clauses of FabricSettings on the ring: the head of a packet as it enters its first link, as through traffic, and its
last flit; a packet that waits for the slot it is to take; an input with a flit of each kind. -/
theorem premises_ring :
    (let r := Ring.idle.inject .test 0 false 5 2
     ((r.run 1).move 0 false).map (fun m => (m.own, m.was.head, m.now.esc)) = some (true, true, false) ∧
     ((r.run 2).move 1 false).map (fun m => (m.own, m.was.head)) = some (false, true) ∧
     ((r.run 2).move 0 false).map (fun m => (m.own, m.was.last)) = some (true, true) ∧
     Tab.find? (r.run 2).held (ringKey 0 false) = some 0 ∧ Tab.find? (r.run 3).held (ringKey 0 false) = none ∧
     ((r.run 7).input 5 false).any (fun f => f.dest == 5) = true) ∧
    (let f : RingFlit := ⟨9, .other, true, false, 3, false, false⟩
     let r := { (Ring.idle.inject .test 1 false 5 2).cycle with inputs := [(ringKey 2 false, List.replicate 8 f)] }
     (r.move 1 false).map (·.now.esc) = some true ∧ freeShared (r.input 2 false) = 0 ∧ escapeFree (r.input 2 false) false = true) ∧
    Ring.idle.quiet = true := by decide +kernel

/-- Premises of FabricSettings: words that pass the checks, a packet at its stop, an entry refused and one accepted, partners. -/
theorem premises_fabric :
    (2 ^ 63 + 5 * 2 ^ 48 + 2 ^ 56 : Word) &&& ~~~(0xC7078000FFFF0000 : Word) = 0 ∧ (2 ^ 63 + 1 : Word) &&& ~~~(0x8000000003FF0003 : Word) = 0 ∧
    (let s := up (run 1 [] [] fun c => { c with sr := [(0x192, 1)] })
     s.siteOf 1 = some 1 ∧ s.meshOpen true 0 1 = true ∧ bits (s.core.reg 0x192) 0 9 = 1 ∧ s.fab.modnum = 0 ∧ s.fab.downLinks = [] ∧
     rounds 5 = 3 ∧ ({ s.fab with gsz := 4 } : Fabric).groupSize = 4 ∧ s.isCore 0 = true ∧ s.isCore 2048 = false ∧
     ({ s with fab := { s.fab with gsz := 4, lost := [2] } } : State).groupReady = false ∧
     ({ s with fab := { s.fab with gsz := 4, sentRounds := 2, tokens := [0, 1] } } : State).groupReady = true ∧
     ({ s with fab := { s.fab with gsz := 4, sentRounds := 2, tokens := [0] } } : State).groupReady = false ∧
     (Tab.find? ({ s with host := { s.host with parts := [(0, Machine.Part.none)] } } : State).host.parts 0).isSome = true) := by decide +kernel

/-! ## The host side -/

/-- Bytes at rising offsets of a record. -/
def record (n : Nat) (l : List (Nat × Nat × Nat)) : List Byte :=
  Tab.dense 0 (l.flatMap fun e => (leBytes e.2.1 e.2.2).zipIdx.map fun b => (e.1 + b.2, b.1)) 0 n

/-- A launch record for cores 0 and 1 of tower 0: image at 0x100000000, a grid of 9. -/
def launchRec : List Byte := record 128 [(0, 1, 1), (4, 1, 3), (8, 8, 0x303034392D575450), (0x20, 8, 0x100000000), (0x28, 8, 9), (0x40, 8, 77)]

/-- A copy of 8 bytes from host address 0x1000 to 0x2000. -/
def copyRec : List Byte := record 128 [(0, 1, 6), (1, 1, 3), (8, 8, 0x1000), (16, 8, 0x2000), (24, 8, 8), (0x40, 8, 78)]

/-- A gang control block with an operation for the entry 77. -/
def gcbRec (op : Nat) : List Byte := record 128 [(0, 1, 9), (1, 1, op), (8, 8, 77)]

/-- Queue 7 of virtual function 3 with entries held, and partition 0 with a bound space and the image range of the launch record. -/
def queued (s : State) (l : List (List Byte)) : State :=
  { s with
    towers := [(0, { s.towerAt 0 with part := some 0 })]
    host := { s.host with
      parts := [(0, { Machine.Part.none with vfs := [3], sr := [(0x1A3, 2 ^ 63 + 5), (0x1A4, 0x8000)], images := [⟨0x100000000, 0, 0⟩], timeout := 2 })]
      queues := [(7, { HQueue.reset with vf := some 3, size := 1, tail := 1, held := l.map (HEntry.mk · false) })]
      events := [(3, { EventQ.reset with size := 1 })] } }

/-- The module in a turn into the compute window. -/
def turning (s : State) : State := { s with arb := { s.arb with win := .turnC } }

/-- R405, R409, R410: a record of no kind and one of a wrong form leave the queue; a launch enters its cores; a kill stops them. Every
CPLADDR is 0: whether the host takes a completion record is Config's to say. -/
theorem test_host :
    ((after (.launchStart 7) (queued (up (user [])) [gcbRec 0, [0]])).queueAt 7).held.length = 2 ∧
    ((after (.launchStart 7) (queued (up (user [])) [[5]])).queueAt 7).held = [] ∧
    (let t := after (.gcbKill 7) (queued { inGang false 0 [] id with arb := { (inGang false 0 [] id).arb with gangs := [{ gang1 with queue := 7, seq := 77 }] } } [gcbRec 3])
     (t.gang? 1).map (·.status) = some 10 ∧ ((t.coreAt 1).ctx 0).st = .stopped ∧ (t.queueAt 7).held = []) ∧
    (after (.towerAssign 0 9 true) (queued (user []) [])).host.reply.status = 0 ∧
    (after (.towerAssign 0 0 true) (queued (user []) [])).host.reply.status = 1 := by decide +kernel

/-- Premises of HostQueues: a bound queue with an entry to accept, and copies that a wrong form ends, an absent space, or
none. Whether the host refuses a word, or it is lost, is Config's to say. -/
theorem premises_host :
    (let s := queued (user []) []
     let x := s.queueAt 7
     s.queuePart 7 = some 0 ∧ x.err = 0 ∧ x.tail ≠ x.accept ∧ x.held = [] ∧ x.size.toNat = 1 ∧ s.calm = true ∧ s.unjournalled = true ∧ s.fab.migs = []) ∧
    recNat copyRec 0 1 = 6 ∧ copyForm copyRec = true ∧ bits (entryCpl copyRec) 0 6 = 0 ∧ copyForm (gcbRec 0) = false ∧
    (let s := queued { up (user []) with mem := words [(0x8000, 0x200003), (0x220000, 5 * 2 ^ 18 + 7)] } [copyRec]
     s.headOf 7 = some copyRec ∧ s.copySide 0 5 true false 0x1000 8 = .ok ((List.range 8).map (s.hostPA 0x1000 + ·)) ∧
     s.copySide 0 5 false false 0x100000000 2 = .ok [5 * 2 ^ 18, 5 * 2 ^ 18 + 1] ∧ s.copySide 0 5 false true 0x40 8 = .error 3 ∧
     s.copySide 0 6 false false 0x100000000 8 = .error 4) := by decide +kernel

/-- Premises of GangsStartAndEnd: records that are refused, one that waits and one that starts, with its ranges; a gang that is over. -/
theorem premises_gangs :
    (let s := queued (turning (up { State.reset with cores := [(0, Core.reset)] })) [launchRec]
     s.queuePart 7 = some 0 ∧ s.launchStatus 0 launchRec false = none ∧ s.launchStatus 0 [1] false = some 5 ∧
     recordCores launchRec = [0, 1] ∧ s.recordFree 0 launchRec = true ∧ recNat launchRec 2 2 = s.fab.mapgen.toNat ∧ recNat launchRec 0 1 = 1 ∧
     recNat [1, 0, 9, 0] 2 2 ≠ s.fab.mapgen.toNat ∧ (s.partAt 0).images.any (fun i => i.base == 0) = false ∧
     (queued (inGang false 0 [] id) [launchRec]).recordFree 0 launchRec = false ∧ s.dispatchHeld = false ∧ s.freeIdents 0 ≠ [] ∧ recNat launchRec 1 1 = 0 ∧ s.arb.win ≠ .compute ∧
     s.profileRange 0 0x100000000 0 = .ok [] ∧ s.profileRange 0 (recNat launchRec 0x38 8) (recNat launchRec 6 2) = .ok [] ∧
     (s.partAt 0).images.find? (fun i => i.base == recNat launchRec 0x20 8) = some ⟨0x100000000, 0, 0⟩ ∧
     ({ s with fab := { s.fab with raisePending := true } } : State).dispatchHeld = true) ∧
    (let s := inGang false 0 [] id
     let stop := fun c : Core => c.updCtx 0 fun x => { x with st := .stopped }
     let t : State := { s with cores := [(0, stop (s.coreAt 0)), (1, stop (s.coreAt 1))] }
     t.gang? 1 = some gang1 ∧ t.gangOver gang1 = true ∧ t.calm = true ∧ t.unjournalled = true ∧ s.gangOver gang1 = false) := by decide +kernel

/-- Premises of GangControl: a block of a wrong form, one that names no gang, one that names a gang, and a context area in host memory's
place that can be read. -/
theorem premises_gang_control :
    gcbForm (gcbRec 0) = false ∧ [1, 2, 3].all (fun op => gcbForm (gcbRec op) && decide (bits (entryCpl (gcbRec op)) 0 6 = 0)) = true ∧
    (let s := queued { inGang false 0 [] id with arb := { (inGang false 0 [] id).arb with gangs := [{ gang1 with queue := 7, seq := 77 }] } } [gcbRec 1]
     (s.targetGang 7 (gcbRec 1)).map (·.id) = some 1 ∧ (s.gang? 1).map (·.queue) = some 7) ∧
    (let area := record 0x98 ((launchRec.zipIdx.map fun b => (8 + b.2, 1, b.1.toNat)) ++ [(0x88, 1, 4)])
     let area := 2 :: 1 :: area.drop 2
     let s : State := queued { up State.reset with mem := (words [(0x8000, 0x200003), (0x220000, 2 ^ 40 + 3)]) ++
       ((area.zipIdx.map fun b => (2 ^ 40 + b.2, b.1)).filter fun c => c.2 ≠ 0) } [record 128 [(0, 1, 9), (1, 1, 2), (0x10, 8, 0x100000000)]]
     let r := record 128 [(0, 1, 9), (1, 1, 2), (0x10, 8, 0x100000000)]
     s.areaHead 0 (bits (recWord r 0x10) 16 32 * 65536) = some area ∧ recNat area 0 2 = 0x102 ∧ (area.drop 8).take 128 = launchRec ∧
     s.launchStatus 0 launchRec true = none ∧ s.phasersFree 0 launchRec 0x100000000 = true ∧ recNat area 0x88 1 = 4) := by decide +kernel

/-- Premises of FaultAgent: messages of each kind, for a partition without an event queue and with one, an answer and a timeout. That the
host takes the agent's record is Config's to say. -/
theorem premises_fault_agent :
    (let m : Mail := ⟨1, 0x100000000, 0, 5, none, some 0⟩
     let s := queued (inGang false 0 [] fun c => { c with mail := [(0, m)] }) []
     let bare : State := { s with host := { s.host with parts := [] } }
     let late : State := { s with arb := { s.arb with clock := 9000 } }
     Tab.find? (s.coreAt 0).mail 0 = some m ∧ s.eventVf (s.towerAt 0).part = some 3 ∧ (s.eventAt 3).err = 0 ∧
     ((s.eventAt 3).tail - (s.eventAt 3).head).toNat < 2 ^ (s.eventAt 3).size.toNat ∧ bare.eventVf (bare.towerAt 0).part = none ∧
     (s.gang? 1).map (·.ended) = some false ∧ s.vfPart 3 = s.partHeld 0 ∧ (s.vfPart 3).isSome = true ∧ s.vfPart 4 = none ∧
     bits (0x10000 : Word) 0 12 = 0 ∧ (s.partAt (s.partOf 0)).timeout = 2 ∧
     Tab.find? ((after (.faultTimeout 0 0) late).coreAt 0).mail 0 = some { m with answer := some true } ∧
     Tab.find? ((after (.eventAnswer 3 0x10000 1) s).coreAt 0).mail 0 = some { m with answer := some true }) := by decide +kernel

/-- Premises of Partitions: a request that can be met and one that cannot, a partition with a gang and without, towers free and held. The
signatures of images are Config's to judge. -/
theorem premises_partitions :
    (let r : CreateRequest := { part := 1, tenant := 2, pvec := 0x8000000, pspace := 0, proot := 0, psave := 0, pjour := 0, pdome := 0, ccap := 0, xcap := 0,
                                timeout := 0, towers := [9], vfs := [5], queues := [(8, 5)], policy := [] }
     let s := queued (inGang false 0 [] id) []
     s.createOk r = true ∧ s.createOk { r with towers := [0] } = false ∧ (Tab.find? s.host.parts 0).isSome = true ∧
     (s.arb.gangs.any fun g => g.part == 0 && !g.ended) = true ∧ (s.arb.gangs.all fun g => g.part != 0) = false ∧
     (queued (user []) []).arb.gangs = [] ∧ (s.towerAt 9).part = none ∧ (s.towerAt 0).part = some 0 ∧ s.calm = true) := by decide +kernel

/-! ## Recovery, reset and the step -/

/-- The gang of one core with changed recovery state, in an exchange window; `f` changes the core. -/
def solo (r : GangRec → GangRec) (w : Win) (f : Core → Core) : State :=
  let s := inGang true 0 [] f
  { s with cores := [(0, s.coreAt 0)], arb := { s.arb with win := w, gangs := [{ gang1 with mask := 1, gr := r gang1.gr }] } }

/-- R324, R325, R329: an error is reported; one that cannot be rolled back traps its context; a request. -/
theorem test_recovery :
    (let t := after (.uncorrectableErrorConsumed 0 0 0 0x77) (solo id .exchange id)
     t.core.reg 0x187 = 0x8000000000000077 ∧ ((t.gang? 1).bind (·.gr.report)) = some (0, 0, 0, 0x77) ∧
     let u := after (.rollback 1) (t.updGang 1 fun g => { g with gr := { g.gr with nrg := true } })
     u.core.reg 0x009 = 0x0E ∧ u.core.reg 0x00B = 0x8000000000000077 ∧ (u.gang? 1).map (·.status) = some 8) ∧
    ((after (.preemptRequest 0 0x8000000100000000) (solo id .exchange id)).gang? 1).map (fun g => (g.gr.req, g.gr.area)) = some (true, 0x10000) ∧
    ((after (.preemptSave 1) (solo (fun r => { r with st := 1 }) .exchange id)).gang? 1).map (·.gr.err) = some 1 := by decide +kernel

/-- Premises of ErrorsAndRollback: consumers of each kind, a report that cannot be rolled back, one of a gang that is saved, and one that
can be, with no entry and with one. -/
theorem premises_rollback :
    (let f := { entry 1 (.cpy 0x40 0 64) .begun with rd := [(0x40, 64)] }
     let s := solo id .exchange fun c => { c with fps := [f], mat := { c.mat with queue := [⟨.mzero 0 0, 0, 0, 0, 0, none, 0, .none, .none⟩] } }
     (s.core.ctx 0).live = true ∧ s.core.mat.queue ≠ [] ∧ s.fp? 0 1 = some f ∧
     (s.core.fps.find? fun f => f.ctx == 0 && (f.going && (f.rd ++ f.far).any (inRange 0x40))) = some f ∧ (s.core.ctx 3).live = false ∧
     f.local? = true ∧ s.calm = true ∧ s.unjournalled = true ∧ s.matrixNext 0 = false ∧
     ({ s with mem := [⟨0x102, 0x10⟩, ⟨0x103, 0xD4⟩] } : State).matrixNext 0 = true) ∧
    (let s := solo (fun r => { r with report := some (0, 0, 0, 0x77) }) .exchange id
     ({ s with fab := { s.fab with sites := [(0, { Site.initial 0 with bs := 8 })] } } : State).beyondHelp gang1 = true) ∧
    (let s := solo (fun r => { r with report := some (0, 0, 0, 0x77) }) .exchange fun c => { c with sr := [(0x185, 1)] }
     (s.gang? 1).map s.beyondHelp = some false ∧ (s.gang? 1).map (·.occupied) = some [0] ∧ s.core.ta = false ∧ s.arb.win ≠ .compute ∧ s.fab.migs = [] ∧
     bits (s.core.reg 0x185) 0 32 = 1 ∧
     ([0] : List Nat).Nodup ∧ bits ((solo id .exchange id).core.reg 0x185) 0 32 = 0) ∧
    (let s := { (solo id .exchange fun c => { c with sr := [(0x185, 1), (jbaseNow, 0x8000000)] }) with mem := words [(0x20000, 0x100)] }
     s.core.journalBase = 0x8000000 ∧ s.viewPA 0 (s.core.journalBase + 131072) = some 0x20000 ∧ bit (s.wordAt 0x20010) 0 = false ∧
     s.viewPA 0 (s.wordAt 0x20000).toNat = some 0x800000100 ∧ s.journalHolder 0x800000141 = some (0, 0x20000)) := by decide +kernel

/-- Premises of Preemption: a word that passes the checks, a save that cannot be made for each reason and one that can, and an area that
is read back, or cannot be. -/
theorem premises_preemption :
    (0x8000000100000000 : Word) &&& ~~~(0x8000FFFFFFFF0000 : Word) = 0 ∧
    (let save := fun f => solo (fun r => { r with st := 1, area := 0x10000 }) .exchange f
     let s := save id
     s.saveWindow = true ∧ (s.gang? 1).map s.saveRange = some (some (0, 0)) ∧ s.core.bound = none ∧
     (let s := { save (fun c => { c with sr := [(0x080, 2 ^ 63 + 5), (0x081, 0x8000)] }) with mem := words [(0x8000, 0x200003), (0x220000, 2 ^ 40 + 3)] }
      s.core.bound = some 5 ∧ s.saveFrames 0 5 1 0 0x100000000 1 = .error 2 ∧
       (match (s.gang? 1).map fun g => s.saveAll 0 5 1 (s.areaSegments g 0x100000000 0 0) with | some (.error e) => decide (e = 2) | _ => false) = true) ∧
     (let s := { save (fun c => { c with sr := [(0x080, 2 ^ 63 + 5), (0x081, 0x8000)] }) with
                   mem := words ((0x8000, 0x200003) :: (List.range 4).map fun i => (0x220000 + 8 * i, 2 ^ 40 + i * 2 ^ 18 + 71)) }
      s.saveFrames 0 5 1 0 0x100000000 2 = .ok [2 ^ 40, 2 ^ 40 + 2 ^ 18] ∧
       (match (s.gang? 1).map fun g => s.saveAll 0 5 1 (s.areaSegments g 0x100000000 0 0) with | some (.ok _) => true | _ => false) = true) ∧
     (let s := { save id with towers := [(0, { Tower.reset with pmdomeNow := 0xFFFF })] }
      (s.gang? 1).map s.saveRange = some none)) ∧
    (let s := solo (fun r => { r with st := 3, area := 0x10000 }) .exchange id
     s.areaBytes 0 0 0x100000000 0x98 = none ∧ s.saveWindow = true ∧ (s.gang? 1).map s.restoreReady = some true) ∧
    Tab.wf (0 : Byte) [(3, 1)] = true := by decide +kernel

/-- R35, R388: after reset every control context is stopped. -/
theorem test_reset :
    ((State.reset.coreAt 0).ctx 0).st = .stopped ∧ Memory.wf State.reset.mem = true ∧ State.reset.safe = true := by decide +kernel

/-- A word placed after reset is the next that a step runs. -/
theorem test_step :
    (match step (State.reset.withFetchWord 32 0x0CC00028) with
      | .next t => decide (((t.coreAt 0).ctx 0).gr 6 = 40)
      | _ => false) = true ∧
    (match step (State.reset.withFetchWord 32 0) with
      | .next t => decide ((t.coreAt 0).reg 0x009 = 1)
      | _ => false) = true := by decide +kernel

/-- Premises of StepKeepsSafe and StepRunsDecoded: a safe state whose core takes its turn at a word that decodes, and at one that does not. -/
theorem premises_step :
    (let s := { user [] with agenda := [.core 0], mem := [⟨0x100, 0x28⟩, ⟨0x102, 0xC0⟩, ⟨0x103, 0x0C⟩] }
     s.safe = true ∧ s.impreciseDue 0 = false ∧ s.helperDue 0 = false ∧ s.order 0 = [0] ∧ s.cx.pc.toNat % 4 = 0 ∧
     s.viewPA 0 s.cx.pc.toNat = some 0x100 ∧ wordOfBytes (s.byteAt 0x100) (s.byteAt 0x101) (s.byteAt 0x102) (s.byteAt 0x103) = 0x0CC00028 ∧
     (after (.addi 6 0 40) s).waiting 0 0 = false ∧ s.mayTrap ∧ (s.cores.all fun e => e.2.trace.queue.isEmpty) = true) := by
  unfold State.mayTrap; decide +kernel

end Sys2Proof.Tests
end

section
/-!
The statements of SEL, JAL and JR (R78, R81, R82): their words, what a jump that writes a link leaves, and the settled obligations.
-/

namespace Sys2Proof.Machine

/-! ## Words -/

/-- The fields of SEL lie side by side in its word (R78). -/
theorem encode_sel_toNat (d a b c : BitVec 5) :
    (encode (.sel d a b c)).toNat = 2 ^ 26 + d.toNat * 2 ^ 21 + a.toNat * 2 ^ 16 + b.toNat * 2 ^ 11 + c.toNat * 2 ^ 6 := by
  have hd := d.isLt; have ha := a.isLt; have hb := b.isLt; have hc := c.isLt
  simp only [encode, put, BitVec.toNat_ofNat]
  omega

/-- The offset fills the word of JAL below its major opcode (R81). -/
theorem encode_jal_toNat (o : BitVec 26) : (encode (.jal o)).toNat = 0x1E * 2 ^ 26 + o.toNat := by
  have ho := o.isLt
  simp only [encode, put, BitVec.toNat_ofNat]
  omega

/-- JR has two register fields and zeros below them (R82). -/
theorem encode_jr_toNat (d a : BitVec 5) :
    (encode (.jr d a)).toNat = 0x1F * 2 ^ 26 + d.toNat * 2 ^ 21 + a.toNat * 2 ^ 16 := by
  have hd := d.isLt; have ha := a.isLt
  simp only [encode, put, BitVec.toNat_ofNat]
  omega

/-! ## Jumps that write a link -/

/-- The target of JAL, computed in 64 bits, is the sum in the 48 bits of the pc (R40). -/
theorem State.jumpTarget_eq (s : State) (o : BitVec 26) : s.jumpTarget o = s.cx.pc + 4 + o.signExtend 48 * 4 := by
  have sext : (o.signExtend 64).setWidth 48 = o.signExtend 48 := by
    ext i hi
    have : i < 64 := by omega
    simp [BitVec.getElem_signExtend, this]
  unfold State.jumpTarget
  rw [BitVec.setWidth_add _ _ (by decide), BitVec.setWidth_mul _ _ (by decide), sext,
    BitVec.setWidth_setWidth_of_le _ (by decide), BitVec.setWidth_eq]
  rfl

/-- The context writes its link to g[d] and goes on at p: it retires, and nothing else changes, loop counters included (R81, R82). -/
def State.linksTo (s t : State) (d : BitVec 5) (p : BitVec 48) : Prop :=
  t.g d = (if d = 0 then 0 else s.link) ∧ t.cx.pc = p ∧ t.cx.retired = s.cx.retired + 1 ∧
  s.keeps { Frame.none with g := [d] } t ∧ ∀ n, t.cx.reg n = s.cx.reg n

/-- What link and jump leave, seen from before the issue. -/
theorem State.linksTo_jump (s : State) (d : BitVec 5) (p : BitVec 48) : s.linksTo ((s.begin.setG d s.begin.link).jump p) d p := by
  have n := s.begin_near
  have link : s.begin.link = s.link := by rw [State.link, State.link, n.cx.pc]
  refine ⟨?_, ?_, ?_, ?_, fun m => ?_⟩
  · rw [State.g_jump, State.g_setG_same, link]
  · simp [Ctx.jump]
  · simp [Ctx.jump, n.cx.retired]
  · exact ((State.keeps_near _ n).trans (State.keeps_setG (by simp))).trans (State.jump_frame ..)
  · simp [Ctx.jump, Ctx.reg, n.cx.sr]

/-- JAL that may issue links in g31 and goes to its target (R81). -/
theorem execJal_next {s : State} {o : BitVec 26} (h : s.ready (.jal o) = true) :
    ∃ t, execJal o s = .next t ∧ s.linksTo t 31 (s.cx.pc + 4 + o.signExtend 48 * 4) :=
  ⟨_, issue_ready h _, by
    rw [State.jumpTarget_eq, s.begin_near.cx.pc]
    exact s.linksTo_jump ..⟩

/-- JR that may issue goes to a target that is a word's address, with its link (R82). -/
theorem execJr_next {s : State} {d a : BitVec 5} (h : s.ready (.jr d a) = true) (aligned : (s.g a).toNat % 4 = 0) :
    ∃ t, execJr d a s = .next t ∧ s.linksTo t d ((s.g a).setWidth 48) := by
  refine ⟨_, issue_ready h _, ?_⟩
  have low : ¬ bits (s.g a) 0 2 ≠ 0 := by simpa [bits] using aligned
  dsimp only
  rw [s.begin_near.g a, if_neg low]
  exact s.linksTo_jump ..

/-- JR that may issue traps on any other target, before it writes its link (R82). -/
theorem execJr_misaligned {s : State} {d a : BitVec 5} (h : s.ready (.jr d a) = true) (misaligned : (s.g a).toNat % 4 ≠ 0)
    (m : s.mayTrap) :
    ∃ t, execJr d a s = .next t ∧ s.traps t 0x04 (((s.g a).setWidth 48).setWidth 64) s.replayPc := by
  refine ⟨_, issue_ready h _, ?_⟩
  have low : bits (s.g a) 0 2 ≠ 0 := by simpa [bits] using misaligned
  have ⟨_, _, older⟩ := m
  dsimp only
  rw [s.begin_near.g a, if_pos low]
  exact State.traps_now m s.begin_near s.begin_faultPc (s.olderPending_begin.trans older) ..

/-! ## The statements -/

/-- Settles O2: SEL is one general register result, and a nonzero g[c] selects g[a]. -/
theorem select : Obligations.Select := by
  intro s d a b c
  refine ⟨encode_sel_toNat d a b c, fun h => ⟨_, issue_ready h _, ?_⟩⟩
  have n := s.begin_near
  rw [n.g a, n.g b, n.g c, ite_not]
  exact s.gives_give ..

/-- Settles O5: JAL links in g31, which is not g0, and jumps. -/
theorem jumpAndLink : Obligations.JumpAndLink := by
  intro s o
  refine ⟨encode_jal_toNat o, fun h => ?_⟩
  obtain ⟨t, next, link, pc, retired, keeps, counters⟩ := execJal_next h
  exact ⟨t, next, link.trans (if_neg (by decide)), pc, retired, keeps, fun n _ _ => counters n⟩

/-- Settles O6: JR jumps with its link where the target is a word's address, and traps elsewhere. -/
theorem jumpRegister : Obligations.JumpRegister := by
  intro s d a
  refine ⟨encode_jr_toNat d a, fun h aligned => ?_, fun h misaligned m => execJr_misaligned h misaligned m⟩
  obtain ⟨t, next, link, pc, retired, keeps, counters⟩ := execJr_next h aligned
  exact ⟨t, next, link, pc, retired, keeps, fun n _ _ => counters n⟩

end Sys2Proof.Machine
end
